-- ==== Sys2Proof/Word.lean ====
section
/-! DEFINITION. The word types of the FN940 (R49): 64-bit data, 128-bit capabilities, bytes. -/

namespace Sys2Proof

/-- The smallest addressable unit. -/
abbrev Byte := BitVec 8

/-- Data in bits [63:0] of a general register, an address, a doubleword (R53, R102). -/
abbrev W64 := BitVec 64

/-- The 128 bits of a general register (R51). -/
abbrev W128 := BitVec 128

end Sys2Proof
end

