-- ==== Sys2Proof/Syntax.lean ====
section
/-! DEFINITION. The instruction and event rows of spec/opcode_table.json, one constructor each.

Encoded rows carry their operand fields as the bits the encoding gives them (R63, R64, the table), `y` last:
the stall count of a 32-bit word. Event rows (spec/95_what_each_step_holds.md) have no encoding; their operands say
which agent, queue entry or register the event concerns. A core is numbered 0 to 1,023 within the package
(die * 256 + core within die), a site die * 272 + py * 16 + px, a physical cluster die * 16 + its number. -/

namespace Sys2Proof

/-- A register that the host or the management controller writes: one of engine and system space by its offset (R280), a cap, or the PSTATE of a
cluster (R58). -/
inductive HostReg where
  | engine (off : BitVec 32)
  | capPeak
  | capAvg
  | pstate (cluster : Nat)
deriving DecidableEq, Repr, Inhabited

/-- The two keys of a key ID: AES-256-XTS and AES-256-CMAC (R114). -/
structure PageKey where
  data : BitVec 512
  tag : BitVec 256
deriving DecidableEq, Repr, Inhabited

/-- What the host does to memory (R153, R280); the last three are the atomic operations of PCI Express (R151). -/
inductive HostOp where
  | read
  | write
  | fetchAdd
  | swap
  | cas (want : BitVec 64)
deriving DecidableEq, Repr, Inhabited

/-- One row of the opcode table (R63 to R73) or of the table of steps. -/
inductive Instr where
  /-- ADD (R287). -/
  | add (d a b : BitVec 5) (y : BitVec 3)
  /-- SUB (R389). -/
  | sub (d a b : BitVec 5) (y : BitVec 3)
  /-- MUL (R366). -/
  | mul (d a b : BitVec 5) (y : BitVec 3)
  /-- MULH (R366). -/
  | mulh (d a b : BitVec 5) (y : BitVec 3)
  /-- MULH_UI64 (R366). -/
  | mulhUi64 (d a b : BitVec 5) (y : BitVec 3)
  /-- DIV (R330). -/
  | div (d a b : BitVec 5) (y : BitVec 3)
  /-- DIV_UI64 (R330). -/
  | divUi64 (d a b : BitVec 5) (y : BitVec 3)
  /-- REM (R375). -/
  | rem (d a b : BitVec 5) (y : BitVec 3)
  /-- REM_UI64 (R375). -/
  | remUi64 (d a b : BitVec 5) (y : BitVec 3)
  /-- AND (R290). -/
  | and (d a b : BitVec 5) (y : BitVec 3)
  /-- OR (R370). -/
  | or (d a b : BitVec 5) (y : BitVec 3)
  /-- XOR (R420). -/
  | xor (d a b : BitVec 5) (y : BitVec 3)
  /-- SHL (R377). -/
  | shl (d a b : BitVec 5) (y : BitVec 3)
  /-- SHR (R377). -/
  | shr (d a b : BitVec 5) (y : BitVec 3)
  /-- SAR (R377). -/
  | sar (d a b : BitVec 5) (y : BitVec 3)
  /-- MIN (R355). -/
  | min (d a b : BitVec 5) (y : BitVec 3)
  /-- MIN_UI64 (R355). -/
  | minUi64 (d a b : BitVec 5) (y : BitVec 3)
  /-- MAX (R355). -/
  | max (d a b : BitVec 5) (y : BitVec 3)
  /-- MAX_UI64 (R355). -/
  | maxUi64 (d a b : BitVec 5) (y : BitVec 3)
  /-- CLZ (R325). -/
  | clz (d a : BitVec 5) (y : BitVec 3)
  /-- POPC (R371). -/
  | popc (d a : BitVec 5) (y : BitVec 3)
  /-- MOV (R360). -/
  | mov (d a : BitVec 5) (y : BitVec 3)
  /-- MOV_16 (R360). -/
  | mov16 (d a : BitVec 5)
  /-- ADDI (R288). -/
  | addi (d a : BitVec 5) (i : BitVec 10) (y : BitVec 3)
  /-- ADDI_16 (R288). -/
  | addi16 (d : BitVec 5) (i : BitVec 6)
  /-- ANDI (R291). -/
  | andi (d a : BitVec 5) (i : BitVec 10) (y : BitVec 3)
  /-- SETI (R382). -/
  | seti (d a : BitVec 5) (i : BitVec 10) (y : BitVec 3)
  /-- MOVI (R362). -/
  | movi (d : BitVec 5) (i : BitVec 15) (y : BitVec 3)
  /-- MOVH (R361). -/
  | movh (d : BitVec 5) (i : BitVec 15) (y : BitVec 3)
  /-- SEL (R379). -/
  | sel (d a b fn : BitVec 5) (y : BitVec 3)
  /-- SET (R381). -/
  | set (d a b fn : BitVec 5) (y : BitVec 3)
  /-- BFX (R295). -/
  | bfx (d a b : BitVec 5) (sg : BitVec 1) (y : BitVec 3)
  /-- BFI (R293). -/
  | bfi (d a b : BitVec 5) (y : BitVec 3)
  /-- CBND (R321). -/
  | cbnd (d a b : BitVec 5) (y : BitVec 3)
  /-- CPRM (R326). -/
  | cprm (d a b : BitVec 5) (y : BitVec 3)
  /-- CINC (R324). -/
  | cinc (d a b : BitVec 5) (y : BitVec 3)
  /-- CGET (R323). -/
  | cget (d a : BitVec 5) (sel : BitVec 10) (y : BitVec 3)
  /-- CCLR (R322). -/
  | cclr (d a : BitVec 5) (y : BitVec 3)
  /-- BR (R313). -/
  | br (off : BitVec 20) (y : BitVec 3)
  /-- BR_16 (R313). -/
  | br16 (off : BitVec 11)
  /-- BRB (R314). -/
  | brb (a : BitVec 5) (bit : BitVec 6) (sense : BitVec 1) (off : BitVec 8) (y : BitVec 3)
  /-- BRC (R315). -/
  | brc (a b : BitVec 5) (cond : BitVec 2) (off : BitVec 8) (y : BitVec 3)
  /-- JR (R345). -/
  | jr (d a : BitVec 5) (y : BitVec 3)
  /-- CALL (R318). -/
  | call (off : BitVec 20) (y : BitVec 3)
  /-- CALLAT (R319). -/
  | callat (d a b : BitVec 5) (k y : BitVec 3)
  /-- NOP (R369). -/
  | nop (y : BitVec 3)
  /-- NOP_16 (R369). -/
  | nop16
  /-- DONE (R331). -/
  | done (y : BitVec 3)
  /-- DONE_16 (R331). -/
  | done16
  /-- RET (R376). -/
  | ret (y : BitVec 3)
  /-- RET_16 (R376). -/
  | ret16
  /-- BRK (R316). -/
  | brk (y : BitVec 3)
  /-- BRK_16 (R316). -/
  | brk16
  /-- ERET (R332). -/
  | eret (y : BitVec 3)
  /-- IDLE (R344). -/
  | idle (d a : BitVec 5) (y : BitVec 3)
  /-- TSGET (R394). -/
  | tsget (d : BitVec 5) (y : BitVec 3)
  /-- TSHOR (R394). -/
  | tshor (d : BitVec 5) (y : BitVec 3)
  /-- BPSYNC (R135). -/
  | bpsync (y : BitVec 3)
  /-- LRET (R354). -/
  | lret (y : BitVec 3)
  /-- START (R386). -/
  | start (d a b : BitVec 5) (y : BitVec 3)
  /-- HJOIN (R343). -/
  | hjoin (d a : BitVec 5) (y : BitVec 3)
  /-- MSG (R364). -/
  | msg (d a : BitVec 5) (i : BitVec 10) (y : BitVec 3)
  /-- MSGT (R365). -/
  | msgt (d a : BitVec 5) (i : BitVec 10) (y : BitVec 3)
  /-- EVTICK (R333). -/
  | evtick (d a : BitVec 5) (chn : BitVec 4) (y : BitVec 3)
  /-- BINIT (R297). -/
  | binit (n : BitVec 3) (a b : BitVec 5) (y : BitVec 3)
  /-- BARR (R292). -/
  | barr (n y : BitVec 3)
  /-- BWAIT (R317). -/
  | bwait (n y : BitVec 3)
  /-- LD (R348). -/
  | ld (d a : BitVec 5) (sz : BitVec 3) (off : BitVec 7) (y : BitVec 3)
  /-- ST (R385). -/
  | st (d a : BitVec 5) (sz : BitVec 3) (off : BitVec 7) (y : BitVec 3)
  /-- LDG (R349). -/
  | ldg (d a : BitVec 5) (sz : BitVec 3) (acq : BitVec 1) (sc : BitVec 2) (off : BitVec 4) (y : BitVec 3)
  /-- STG (R387). -/
  | stg (d a : BitVec 5) (sz : BitVec 3) (rel : BitVec 1) (sc : BitVec 2) (off : BitVec 4) (y : BitVec 3)
  /-- LDV (R350). -/
  | ldv (d m : BitVec 4) (y : BitVec 3)
  /-- LDV_IMG (R207). -/
  | ldvImg (d : BitVec 5) (m : BitVec 4) (y : BitVec 3)
  /-- LDV_STREAM (R174). -/
  | ldvStream (d : BitVec 4) (n : BitVec 3) (t : BitVec 5) (y : BitVec 3)
  /-- STV (R388). -/
  | stv (d m : BitVec 4) (y : BitVec 3)
  /-- STV_IMG (R207). -/
  | stvImg (d : BitVec 5) (m : BitVec 4) (y : BitVec 3)
  /-- AMO (R289). -/
  | amo (d a b : BitVec 5) (op : BitVec 4) (w64 : BitVec 1) (y : BitVec 3)
  /-- CAS (R320). -/
  | cas (d a b : BitVec 5) (w64 : BitVec 1) (y : BitVec 3)
  /-- GAMO (R340). -/
  | gamo (d a b : BitVec 5) (op : BitVec 3) (sc : BitVec 2) (y : BitVec 3)
  /-- GCAS (R341). -/
  | gcas (d a b : BitVec 5) (w64 : BitVec 1) (sc : BitVec 2) (y : BitVec 3)
  /-- RED (R374). -/
  | red (t : BitVec 3) (a b : BitVec 5) (op y : BitVec 3)
  /-- FENCE (R150). -/
  | fence (sc : BitVec 2) (y : BitVec 3)
  /-- SEND (R380). -/
  | send (d a b : BitVec 5) (k y : BitVec 3)
  /-- SENDS (R380). -/
  | sends (d a b : BitVec 5) (k y : BitVec 3)
  /-- SPREAD (R384). -/
  | spread (d a b : BitVec 5) (k y : BitVec 3)
  /-- XGET (R419). -/
  | xget (d a b : BitVec 5) (k y : BitVec 3)
  /-- XPUT (R419). -/
  | xput (d a b : BitVec 5) (k y : BitVec 3)
  /-- WAITK (R418). -/
  | waitk (lo : BitVec 5) (hi y : BitVec 3)
  /-- PUSHE (R373). -/
  | pushe (n a : BitVec 5) (y : BitVec 3)
  /-- POPE (R372). -/
  | pope (d n : BitVec 5) (y : BitVec 3)
  /-- BLEASE (R298). -/
  | blease (n a b : BitVec 5) (all : BitVec 1) (y : BitVec 3)
  /-- BFREE (R294). -/
  | bfree (n : BitVec 5) (y : BitVec 3)
  /-- SBIND (R378). -/
  | sbind (n a b : BitVec 5) (z : BitVec 4) (y : BitVec 3)
  /-- SFREE (R383). -/
  | sfree (n : BitVec 5) (y : BitVec 3)
  /-- FADD (R334). -/
  | fadd (d a b t : BitVec 5) (y : BitVec 3)
  /-- FMUL (R338). -/
  | fmul (d a b t : BitVec 5) (y : BitVec 3)
  /-- FFMA (R337). -/
  | ffma (d a b t : BitVec 5) (y : BitVec 3)
  /-- FCVT (R335). -/
  | fcvt (d a : BitVec 5) (ts : BitVec 3) (rnd : BitVec 2) (td : BitVec 5) (y : BitVec 3)
  /-- FSET (R339). -/
  | fset (d a b t : BitVec 5) (y : BitVec 3)
  /-- VSHAPE (R184). -/
  | vshape (rows : BitVec 4) (clo : BitVec 5) (chi : BitVec 1) (t : BitVec 5) (y : BitVec 3)
  /-- VADD (R400). -/
  | vadd (d : BitVec 4) (m0 : BitVec 1) (a : BitVec 4) (m1 : BitVec 1) (b : BitVec 4) (m2 : BitVec 1) (t : BitVec 5) (y : BitVec 3)
  /-- VSUB (R400). -/
  | vsub (d : BitVec 4) (m0 : BitVec 1) (a : BitVec 4) (m1 : BitVec 1) (b : BitVec 4) (m2 : BitVec 1) (t : BitVec 5) (y : BitVec 3)
  /-- VMUL (R400). -/
  | vmul (d : BitVec 4) (m0 : BitVec 1) (a : BitVec 4) (m1 : BitVec 1) (b : BitVec 4) (m2 : BitVec 1) (t : BitVec 5) (y : BitVec 3)
  /-- VFMA (R407). -/
  | vfma (d : BitVec 4) (m0 : BitVec 1) (a : BitVec 4) (m1 : BitVec 1) (b : BitVec 4) (m2 : BitVec 1) (t : BitVec 5) (y : BitVec 3)
  /-- VMIN (R409). -/
  | vmin (d a b : BitVec 4) (t : BitVec 5) (y : BitVec 3)
  /-- VMAX (R409). -/
  | vmax (d a b : BitVec 4) (t : BitVec 5) (y : BitVec 3)
  /-- VABS (R399). -/
  | vabs (d a : BitVec 4) (m2 : BitVec 1) (t : BitVec 5) (y : BitVec 3)
  /-- VSQRT (R406). -/
  | vsqrt (d : BitVec 4) (m0 : BitVec 1) (a : BitVec 4) (m1 : BitVec 1) (t : BitVec 5) (y : BitVec 3)
  /-- VRSQ (R406). -/
  | vrsq (d : BitVec 4) (m0 : BitVec 1) (a : BitVec 4) (m1 : BitVec 1) (t : BitVec 5) (y : BitVec 3)
  /-- VEXP2 (R406). -/
  | vexp2 (d : BitVec 4) (m0 : BitVec 1) (a : BitVec 4) (m1 : BitVec 1) (t : BitVec 5) (y : BitVec 3)
  /-- VRCP (R406). -/
  | vrcp (d : BitVec 4) (m0 : BitVec 1) (a : BitVec 4) (m1 : BitVec 1) (t : BitVec 5) (y : BitVec 3)
  /-- VCVT (R404). -/
  | vcvt (d : BitVec 4) (m0 : BitVec 1) (a : BitVec 4) (m1 : BitVec 1) (ts td : BitVec 5) (y : BitVec 3)
  /-- VQNT (R411). -/
  | vqnt (d : BitVec 4) (m0 : BitVec 1) (a : BitVec 4) (m1 : BitVec 1) (b : BitVec 4) (m2 : BitVec 1) (t : BitVec 5) (y : BitVec 3)
  /-- VDQ (R405). -/
  | vdq (d : BitVec 4) (m0 : BitVec 1) (a : BitVec 4) (m1 : BitVec 1) (b : BitVec 4) (m2 : BitVec 1) (t : BitVec 5) (y : BitVec 3)
  /-- VAND (R401). -/
  | vand (d a b : BitVec 4) (t : BitVec 5) (y : BitVec 3)
  /-- VOR (R401). -/
  | vor (d a b : BitVec 4) (t : BitVec 5) (y : BitVec 3)
  /-- VXOR (R401). -/
  | vxor (d a b : BitVec 4) (t : BitVec 5) (y : BitVec 3)
  /-- VSHL (R416). -/
  | vshl (d a b : BitVec 4) (m2 : BitVec 1) (t : BitVec 5) (y : BitVec 3)
  /-- VSHR (R416). -/
  | vshr (d a b : BitVec 4) (t : BitVec 5) (y : BitVec 3)
  /-- VSEL (R414). -/
  | vsel (d a b : BitVec 4) (t : BitVec 5) (y : BitVec 3)
  /-- VCMP (R403). -/
  | vcmp (d : BitVec 4) (m0 : BitVec 1) (a : BitVec 4) (m1 : BitVec 1) (b : BitVec 4) (m2 : BitVec 1) (t : BitVec 5) (y : BitVec 3)
  /-- VRED (R412). -/
  | vred (d : BitVec 4) (m0 : BitVec 1) (a : BitVec 4) (m1 : BitVec 1) (op : BitVec 3) (axis : BitVec 2) (t : BitVec 5) (y : BitVec 3)
  /-- VBCST (R402). -/
  | vbcst (d : BitVec 4) (a t : BitVec 5) (y : BitVec 3)
  /-- VMOV (R410). -/
  | vmov (d a : BitVec 4) (t : BitVec 5) (y : BitVec 3)
  /-- VSCAN (R241). -/
  | vscan (d : BitVec 4) (m0 : BitVec 1) (a : BitVec 4) (m1 : BitVec 1) (b : BitVec 4) (m2 : BitVec 1) (t : BitVec 5) (y : BitVec 3)
  /-- VTRN (R417). -/
  | vtrn (d a : BitVec 4) (t : BitVec 5) (y : BitVec 3)
  /-- VGATH (R240). -/
  | vgath (d a b : BitVec 4) (t : BitVec 5) (y : BitVec 3)
  /-- LIFT (R353). -/
  | lift (a b : BitVec 5) (y : BitVec 3)
  /-- LIDX (R352). -/
  | lidx (d : BitVec 4) (lvl t : BitVec 5) (y : BitVec 3)
  /-- LANY (R347). -/
  | lany (d : BitVec 5) (a : BitVec 4) (t : BitVec 5) (y : BitVec 3)
  /-- LALL (R346). -/
  | lall (d : BitVec 5) (a : BitVec 4) (t : BitVec 5) (y : BitVec 3)
  /-- MLEASE (R356). -/
  | mlease (y : BitVec 3)
  /-- MREL (R357). -/
  | mrel (y : BitVec 3)
  /-- MMA (R358). -/
  | mma (d : BitVec 3) (a b : BitVec 4) (y : BitVec 3)
  /-- MMAS (R359). -/
  | mmas (d : BitVec 3) (ehi : BitVec 2) (a b : BitVec 4) (elo : BitVec 7) (y : BitVec 3)
  /-- MZERO (R368). -/
  | mzero (d y : BitVec 3)
  /-- MRDA (R208). -/
  | mrda (d : BitVec 4) (a : BitVec 3) (b t : BitVec 5) (y : BitVec 3)
  /-- MWRA (R367). -/
  | mwra (d : BitVec 3) (a : BitVec 4) (b t : BitVec 5) (y : BitVec 3)
  /-- TFETCH (R390). -/
  | tfetch (slot : BitVec 3) (m : BitVec 4) (k y : BitVec 3)
  /-- TUNPIN (R395). -/
  | tunpin (slot y : BitVec 3)
  /-- BPLD (R304). -/
  | bpld (d : BitVec 5) (m : BitVec 4) (es : BitVec 2) (pat y : BitVec 3)
  /-- BPST (R310). -/
  | bpst (d : BitVec 5) (m : BitVec 4) (es : BitVec 2) (y : BitVec 3)
  /-- BPADD (R299). -/
  | bpadd (d a b : BitVec 5) (sat : BitVec 1) (y : BitVec 3)
  /-- BPSUB (R311). -/
  | bpsub (d a b : BitVec 5) (sat : BitVec 1) (y : BitVec 3)
  /-- BPMUL (R306). -/
  | bpmul (d a b : BitVec 5) (sat : BitVec 1) (y : BitVec 3)
  /-- BPMACC (R305). -/
  | bpmacc (d a b : BitVec 5) (y : BitVec 3)
  /-- BPAND (R300). -/
  | bpand (d a b : BitVec 5) (fn y : BitVec 3)
  /-- BPCMP (R301). -/
  | bpcmp (d a b : BitVec 5) (cond y : BitVec 3)
  /-- BPSEL (R308). -/
  | bpsel (d a b : BitVec 5) (y : BitVec 3)
  /-- BPSET (R309). -/
  | bpset (d b : BitVec 5) (y : BitVec 3)
  /-- BPCOPY (R302). -/
  | bpcopy (d a : BitVec 5) (sat : BitVec 1) (y : BitVec 3)
  /-- BPDECAY (R303). -/
  | bpdecay (d : BitVec 5) (y : BitVec 3)
  /-- BPROW (R307). -/
  | bprow (d a b : BitVec 5) (f : BitVec 4) (keep : BitVec 1) (y : BitVec 3)
  /-- TRSTEP (R393). -/
  | trstep (d a b : BitVec 5) (y : BitVec 3)
  /-- CSRR (R327). -/
  | csrr (d : BitVec 5) (i : BitVec 10) (y : BitVec 3)
  /-- CSRW (R328). -/
  | csrw (a : BitVec 5) (i : BitVec 10) (y : BitVec 3)
  /-- TRAP (R392). -/
  | trap (i : BitVec 10) (y : BitVec 3)
  /-- TRAP_SEAL (R246). -/
  | trapSeal (y : BitVec 3)
  /-- TLBI_ALL (R391). -/
  | tlbiAll (y : BitVec 3)
  /-- TLBI_AS (R391). -/
  | tlbiAs (a : BitVec 5) (y : BitVec 3)
  /-- TLBI_VA (R391). -/
  | tlbiVa (a b : BitVec 5) (y : BitVec 3)
  /-- BIND (R296). -/
  | bind (a : BitVec 5) (y : BitVec 3)
  /-- TWIN (R396). -/
  | twin (d a : BitVec 5) (y : BitVec 3)
  /-- UNTWIN (R397). -/
  | untwin (y : BitVec 3)
  /-- GUARD_T (R342). -/
  | guardT (a : BitVec 5) (bit : BitVec 6)
  /-- GUARD_F (R342). -/
  | guardF (a : BitVec 5) (bit : BitVec 6)
  /-- POWER_ON (R57). -/
  | powerOn
  /-- REGISTER_WRITE (R5). -/
  | registerWrite (r : HostReg) (v : BitVec 64)
  /-- QSIZE_WRITE (R27). -/
  | qsizeWrite (q : BitVec 4) (v : BitVec 64)
  /-- QTAIL_WRITE (R27). -/
  | qtailWrite (q : BitVec 4) (v : BitVec 64)
  /-- E15_LAUNCH_PUSH (R27). -/
  | e15LaunchPush (n : Nat)
  /-- FLOOD (R30). -/
  | flood
  /-- LAUNCH_COMPLETE (R34). -/
  | launchComplete (core : Nat)
  /-- MESSAGE_ARRIVAL (R38). -/
  | messageArrival (n : Nat)
  /-- EVTICK_ARRIVAL (R38). -/
  | evtickArrival (n : Nat)
  /-- CALLAT_ARRIVAL (R41). -/
  | callatArrival (n : Nat)
  /-- REFUSAL_RETURN (R38). -/
  | refusalReturn (n : Nat)
  /-- DEFERRED_FAULT_ENTRY (R244). -/
  | deferredFaultEntry (core cx : Nat)
  /-- TASK_DISPATCH (R39). -/
  | taskDispatch (core : Nat)
  /-- TASK_COMMIT_BEGIN (R44). -/
  | taskCommitBegin (core : Nat)
  /-- CALLAT_DEPOSIT (R41). -/
  | callatDeposit (n : Nat)
  /-- STORE_BUFFER_DRAIN (R127). -/
  | storeBufferDrain (core : Nat)
  /-- REMOTE_STORE_ARRIVAL (R129). -/
  | remoteStoreArrival (n : Nat)
  /-- RED_PERFORM (R120). -/
  | redPerform (n : Nat)
  /-- OWNED_WORD_TIMEOUT (R147). -/
  | ownedWordTimeout (die word : Nat)
  /-- COPY_PIECE_START (R162). -/
  | copyPieceStart (core id : Nat)
  /-- COPY_PIECE_ARRIVAL (R170). -/
  | copyPieceArrival (core id n : Nat)
  /-- COPY_PIECE_COMPLETE (R162). -/
  | copyPieceComplete (core id n : Nat)
  /-- STREAM_DELIVERY (R173). -/
  | streamDelivery (core id n : Nat)
  /-- BANK_LEASE_GRANT (R177). -/
  | bankLeaseGrant (n : Nat)
  /-- MODE (R178). -/
  | mode (id : Nat)
  /-- VBW (R178). -/
  | vbw (id : Nat)
  /-- VBL (R178). -/
  | vbl (id : Nat)
  /-- DOT (R179). -/
  | dot (id : Nat)
  /-- WRW (R178). -/
  | wrw (id : Nat)
  /-- BANK_COMMAND_ERROR (R178). -/
  | bankCommandError (id : Nat)
  /-- BANK_LEASE_EXPIRY (R159). -/
  | bankLeaseExpiry (id : Nat)
  /-- WING_DISPATCH_GRANT (R23). -/
  | wingDispatchGrant (site : Nat)
  /-- MATRIX_LEASE_GRANT (R24). -/
  | matrixLeaseGrant (site : Nat)
  /-- MATRIX_LEASE_COUNT_END (R194). -/
  | matrixLeaseCountEnd (site : Nat)
  /-- MATRIX_LEASE_IDLE_TIMEOUT (R194). -/
  | matrixLeaseIdleTimeout (site : Nat)
  /-- ARRAY_OP_COMPLETE (R133). -/
  | arrayOpComplete (site n : Nat)
  /-- TFETCH_COMPLETE (R192). -/
  | tfetchComplete (core id : Nat)
  /-- BARRIER_ARRIVAL (R238). -/
  | barrierArrival (n : Nat)
  /-- BARRIER_COMPLETION (R237). -/
  | barrierCompletion (n : Nat)
  /-- PREEMPT_REQUEST (R249). -/
  | preemptRequest (launch : BitVec 32) (wingsave : Bool)
  /-- LAUNCH_RESTORE (R254). -/
  | launchRestore (launch : BitVec 32)
  /-- DEBUG_SINGLE_STEP (R254). -/
  | debugSingleStep (launch : BitVec 32) (core cx : Nat)
  /-- TWIN_INTERVAL_END (R258). -/
  | twinIntervalEnd (core : Nat)
  /-- INTERNAL_UE_DETECTED (R262). -/
  | internalUeDetected (core : Nat)
  /-- CORE_TABLE_REMAP (R264). -/
  | coreTableRemap (core px py : Nat)
  /-- CLUSTER_SUSPECT (R265). -/
  | clusterSuspect (cluster : Nat) (wstart wend : BitVec 64)
  /-- THERMAL_MIGRATION (R275). -/
  | thermalMigration (core px py : Nat)
  /-- GRANT_PERIOD (R270). -/
  | grantPeriod (drawn demand : List Nat)
  /-- THROTTLE_STATE_LOWER (R270). -/
  | throttleStateLower (cluster : Nat)
  /-- PSTATE_HANDOVER (R272). -/
  | pstateHandover (cluster : Nat)
  /-- P5_WAKE (R273). -/
  | p5Wake (cluster : Nat)
  /-- DIECTL_WRITE (R274). -/
  | diectlWrite (die : BitVec 2) (v : BitVec 64)
  /-- DIE_PARK (R274). -/
  | diePark (die : BitVec 2)
  /-- PWRLIM_CLEAR (R278). -/
  | pwrlimClear (v : BitVec 64)
  /-- L2WAYS_WRITE (R118). -/
  | l2waysWrite (die : BitVec 2) (v : BitVec 64)
  /-- PATROL_SCRUB (R115). -/
  | patrolScrub (pa : Nat)
  /-- HOST_MEMORY_ACCESS (R153). -/
  | hostMemoryAccess (op : HostOp) (pa n : Nat) (v : BitVec 64)
  /-- KEY_LOAD (R114). -/
  | keyLoad (key : BitVec 8) (value : PageKey)
  /-- LINK_LANE_FAILURE (R279). -/
  | linkLaneFailure (port : BitVec 4)
  /-- LINK_DOWN (R279). -/
  | linkDown (port : BitVec 4)
  /-- LINK_FLIT_LOST (R279). -/
  | linkFlitLost (port : BitVec 4) (core id : Nat)
  /-- TIME_CORRECTION (R277). -/
  | timeCorrection (epoch : BitVec 64) (faster : Bool) (ppm : Nat)
  /-- FIRMWARE_IMAGE_CHECK (R282). -/
  | firmwareImageCheck (image : Nat)
  /-- GET_VERSION (R282). -/
  | getVersion
  /-- GET_CAPABILITIES (R282). -/
  | getCapabilities
  /-- NEGOTIATE_ALGORITHMS (R282). -/
  | negotiateAlgorithms (asym hash : Nat)
  /-- GET_DIGESTS (R282). -/
  | getDigests
  /-- GET_CERTIFICATE (R282). -/
  | getCertificate (off len : Nat)
  /-- CHALLENGE (R282). -/
  | challenge (nonce : Nat)
  /-- GET_MEASUREMENTS (R282). -/
  | getMeasurements (index : Nat)
  /-- TIME_REACHED (R47). -/
  | timeReached (core cx : Nat)
  /-- WING_OPERATION_COMPLETE (R18). -/
  | wingOperationComplete (site n : Nat)
  /-- PORT_TRAINED (R279). -/
  | portTrained (port : BitVec 4) (lanes : Nat)
  /-- CLUSTER_MARK_CLEARED (R265). -/
  | clusterMarkCleared (cluster : Nat)
  /-- DIE_UNPARK_COMPLETE (R274). -/
  | dieUnparkComplete (die : BitVec 2)
deriving DecidableEq, Repr, Inhabited

end Sys2Proof
end

