-- ==== Sys2Proof/Config.lean ====
section
/-! DEFINITION. What the spec leaves open: the schedule of the agents' steps and the free values.

Nothing here has a body, so that no proof can use a particular value. The log entries name each one. -/

namespace Sys2Proof

/-- A context of the package: logical core 0 to 1,023 and context 0 to 10 (R9, R35). -/
structure CtxId where
  core : Nat
  cx : Nat
deriving DecidableEq, Repr, Inhabited

/-- What energy is spent on, by the rows of R276. -/
inductive Spent where
  /-- Issue and execution of a context's instructions, wing operations included, and of a task also its rollbacks. -/
  | instr (core cx : Nat)
  /-- A copy that a core's context has pushed. -/
  | copy (core id : Nat)
  /-- Bank-unit work under a lease. -/
  | lease (id : Nat)
  /-- The save of a context of a launch that has been pre-empted, by its core number. -/
  | save (num cx : Nat)
  /-- The restore of a context. -/
  | restore (core cx : Nat)
  /-- Patrol scrubbing, test in the field, ballast current, thermal migration, parking and unparking on a die. -/
  | overhead (die : Nat)
  /-- Leakage and idle clocks of a die. -/
  | idle (die : Nat)
deriving DecidableEq, Repr, Inhabited

/-- What happens in one step of the package beside the rows of the table: which context runs, which event occurs, or a change that the
spec lets come at any moment. -/
inductive Turn where
  /-- The context executes its next instruction. -/
  | context (core cx : Nat)
  /-- An event row of the table occurs. -/
  | event (i : Instr)
  /-- TIME advances by `ns` nanoseconds (R277). -/
  | time (ns : Nat)
  /-- `nj` nanojoules are spent (R276). -/
  | charge (on : Spent) (nj : Nat)
  /-- A cached translation leaves the micro-TLB of a site (R113). -/
  | dropMicro (site n : Nat)
  /-- A cached translation leaves the TLB of a cluster (R113). -/
  | dropCluster (cluster n : Nat)
  /-- A far-way word of a die is evicted, an owned one written back (R147). -/
  | evictFar (die word : Nat)
  /-- A reduce-state line is evicted and merges (R120). -/
  | evictReduce (n : Nat)
  /-- A 64-byte sector of HBM becomes uncorrectable (R115). -/
  | badSector (sector : Nat)
  /-- A bit-plane row of a wing becomes uncorrectable (R232). -/
  | badRow (site row : Nat)
  /-- A soft error flips one bit of a general register (R257). -/
  | flip (core cx reg bit : Nat)
  /-- The host reads a register through BAR0 (R280). -/
  | hostReg (off : Nat)
  /-- The management firmware at repair, or the hardware at half-good pairing, writes an entry of the core table (R12). -/
  | tableWrite (core : Nat) (e : BitVec 16)
  /-- A parcel is fetched ahead for a context (R126). -/
  | prefetch (core cx pa : Nat) (uc : Bool) (key : Nat)
  /-- The next instruction of many elements of a context lets others go on behind `n` elements (R122). -/
  | pause (core cx n : Nat)
deriving DecidableEq, Repr, Inhabited

namespace Config

/-- The order of the agents' steps where the spec fixes none (log 1). -/
opaque schedule : Nat → Turn

/-- What a bank unit gets from a sector that it cannot read, by the address of the byte (R115; log 6). -/
opaque badData : Nat → Byte

/-- The L2 set of a line within its slice, which R118 does not give (log 8). -/
opaque l2Set : Nat → Nat

/-- The digest of a firmware image matches the fused key and the signature verifies (R282; log 9). -/
opaque firmwareGood : Nat → Bool

/-- A measurement of R282, by its index (log 9). -/
opaque measurement : Nat → Nat

/-- The identity certificate chain of R282, as a byte string (log 9). -/
opaque certificate : Nat → Byte

/-- An ECDSA P-256 signature over an SPDM transcript (R282; log 9). -/
opaque signature : Nat → Nat

/-- How many destination rows an array operation had written when it met an uncorrectable row, by the number of its record (R232; log 14). -/
opaque rowsDone : Nat → Nat

/-- How far a part of an array operation had come when it was stopped: by the number of the stop, the core, the operation and the part (R136, R231;
log 31). -/
opaque stopped : Nat → Nat → Nat → Nat → Nat

/-- The carry latches of a sub-array between two row steps of an operation that is not BPROW, by the number of the stop, the wing and the sub-array
(R212, R231, R232; log 31). -/
opaque midLatch : Nat → Nat → Nat → BitVec 512

/-- What the remaining row steps of a stopped operation compute in a column, once another operation has written the rows that it reads: the number of
the stop, the sub-array and the column; bit 0 is the flag (R136; log 31). -/
opaque resumed : Nat → Nat → Nat → Nat

/-- Bytes of a chrysalis area whose layout the spec does not give, by the number of the save and the offset (R251; log 15). -/
opaque areaByte : Nat → Nat → Byte

/-- The energy in nanojoules that a cluster's performance state can draw in one period (R270; log 10). -/
opaque stateDraw : Nat → Nat

/-- The lowest performance state that keeps a cluster within its thermal limit, by the number of the hold (R25; log 16). -/
opaque thermalState : Nat → Nat

/-- The digest of the identity certificate chain (R282; log 9). -/
opaque certDigest : Nat

/-- What a read through BAR0 gives in recovery at an offset that is not exposed (R282; log 66). -/
opaque hiddenRead : Nat → BitVec 64

/-- The length of the identity certificate chain in bytes (R282; log 9). -/
opaque certLength : Nat

end Config

end Sys2Proof
end

