-- ==== Sys2Proof/Machine/SMap.lean ====
section
/-! DEFINITION. Sparse maps as plain data: key and value pairs with strictly rising keys.

Memory, register-like tables and per-core records are kept in this form (R105, R106, R117). -/

namespace Sys2Proof.Machine

/-- Pairs with strictly rising keys. -/
abbrev SMap (α : Type) := List (Nat × α)

/-- The value at a key. -/
def mapGet {α : Type} (m : SMap α) (k : Nat) : Option α :=
  match m with
  | [] => none
  | (j, v) :: r => if j = k then some v else mapGet r k

/-- The value at a key, or the default of an unlisted one. -/
def mapGetD {α : Type} (m : SMap α) (k : Nat) (d : α) : α := (mapGet m k).getD d

/-- Write a value at a key, in its place. -/
def mapSet {α : Type} (m : SMap α) (k : Nat) (v : α) : SMap α :=
  match m with
  | [] => [(k, v)]
  | (j, w) :: r => if k < j then (k, v) :: (j, w) :: r else if k = j then (k, v) :: r else (j, w) :: mapSet r k v

/-- Remove a key. -/
def mapErase {α : Type} (m : SMap α) (k : Nat) : SMap α :=
  match m with
  | [] => []
  | (j, w) :: r => if j = k then r else (j, w) :: mapErase r k

/-- Keys rise strictly. -/
def mapSorted {α : Type} (m : SMap α) : Bool :=
  match m with
  | (j, _) :: (k, w) :: r => decide (j < k) && mapSorted ((k, w) :: r)
  | _ => true

/-- A set of numbers as a rising list: add one. -/
def setAdd (m : List Nat) (k : Nat) : List Nat :=
  match m with
  | [] => [k]
  | j :: r => if k < j then k :: j :: r else if k = j then j :: r else j :: setAdd r k

/-- Remove one number of a set. -/
def setDel (m : List Nat) (k : Nat) : List Nat :=
  match m with
  | [] => []
  | j :: r => if j = k then r else j :: setDel r k

/-- Numbers rise strictly. -/
def setSorted (m : List Nat) : Bool :=
  match m with
  | j :: k :: r => decide (j < k) && setSorted (k :: r)
  | _ => true

end Sys2Proof.Machine
end

