-- ==== Sys2Proof/Machine/State.lean ====
section
/-! DEFINITION. The whole state of one FN940 package as plain data, and the state right after power-on.

INVENTORY.md lists every field with the rule that names it and its reset value. -/

namespace Sys2Proof.Machine

/-- Bytes by address in canonical form: addresses rise strictly and no listed byte is 0, which is what an unlisted address reads
(DESIGN CHOICE, log 3). -/
abbrev Memory := List Host.Cell

/-- The canonical form of a memory. -/
def Memory.wf (m : Memory) : Bool := mapSorted m && m.all fun p => p.2 != 0#8

/-- A general register: 128 bits and the tag outside them (R49, R51). -/
structure Reg where
  bits : W128
  tag : Bool
deriving DecidableEq, Repr, Inhabited

/-- A fixed-latency write that has not landed, with the issue cycles left (R67). -/
structure Pending where
  reg : BitVec 5
  val : W64
  left : Nat
deriving DecidableEq, Repr, Inhabited

/-- The tag of a v, m or a register: the extent of each level in it, 0 for a level it lacks (R199). -/
structure LiftTag where
  e1 : Nat
  e2 : Nat
  e3 : Nat
deriving DecidableEq, Repr, Inhabited

/-- A vector register: its tag and its instance copies, one for an untagged register (R55, R199). -/
structure VReg where
  tag : LiftTag
  copies : List (BitVec 4096)
deriving DecidableEq, Repr, Inhabited

/-- A tensor-map register: its image, the tag of BASE and its lift tag (R56, R199). -/
structure MapReg where
  img : BitVec 512
  capTag : Bool
  lift : LiftTag
deriving DecidableEq, Repr, Inhabited

/-- A token: outstanding operations, and the error record of R166. -/
structure Token where
  count : Nat
  err : Bool
  code : Nat
  val : W64
deriving DecidableEq, Repr, Inhabited

/-- A bound stream: region, element size and the two running indices in elements (R172). -/
structure Stream where
  base : Nat
  len : Nat
  elog : Nat
  rd : Nat
  wr : Nat
deriving DecidableEq, Repr, Inhabited

/-- The states of a context's barrier (R237). -/
inductive BarState where
  | unset
  | idle
  | waiting
  | done
deriving DecidableEq, Repr, Inhabited

/-- A context's barrier: state, home core number and count (R236). -/
structure Barrier where
  st : BarState
  home : Nat
  count : Nat
deriving DecidableEq, Repr, Inhabited

/-- A fault of R74: cause code, CAPP and TRAPVAL. -/
structure Trap where
  code : Nat
  capp : Bool
  val : W64
deriving DecidableEq, Repr, Inhabited

/-- A pending deferred fault; a copy that faulted is named by its number (R164, R243). -/
structure Deferred where
  trap : Trap
  copy : Option Nat
deriving DecidableEq, Repr, Inhabited

/-- Who sent something: core number, context and the use of that context (R38). -/
structure Sender where
  core : Nat
  cx : Nat
  epoch : Nat
deriving DecidableEq, Repr, Inhabited

/-- Forms of message (R37, R41, R261). -/
inductive MsgKind where
  | msg
  | msgt
  | evtick
  | callat
  | error
deriving DecidableEq, Repr, Inhabited

/-- A message: sender, target core number, class, channel, payload, timestamp, sequence; for CALLAT the entry, the token and the
destination register (R37, R41, R42). `rolls` counts the rollbacks of its task (R45), and `room` is the core whose queue holds an entry for it (R37). -/
structure Msg where
  kind : MsgKind
  src : Sender
  dst : Nat
  cls : Nat
  chn : Nat
  payload : List W64
  ts : Nat
  seq : Nat
  entry : W64
  tok : Nat
  reg : BitVec 5
  call : Nat
  rolls : Nat
  room : Option Nat := none
deriving DecidableEq, Repr, Inhabited

/-- Where a store goes once its address is checked: cell memory of a core number, a physical address with the page's attributes, or
engine and system space (R102). -/
inductive Place where
  | cell (core off : Nat)
  | phys (pa : Nat) (uc : Bool) (key : Nat)
  | engine (off : Nat)
deriving DecidableEq, Repr, Inhabited

/-- What a store-buffer entry holds (R127, R239). A release scope marks STG with bit 25 set (R144). `patch` stores some bits of
bytes and keeps the others: for each byte a mask of the bits it keeps, and a value (R351). `split` is one such store whose bytes lie on two pages (R122). -/
inductive BufKind where
  | store (at_ : Place) (bytes : List Byte) (cap : Option Bool) (rel : Option Nat)
  | patch (at_ : Place) (l : List (Byte × Byte))
  | split (at_ : Place) (l : List (Byte × Byte)) (next : Place) (m : List (Byte × Byte))
  | msg (m : Msg)
  | arrive (n count home : Nat)
  | wing (op block : Nat) (filled : Option (SMap Byte))
deriving DecidableEq, Repr, Inhabited

/-- An entry of the store buffer with its context. -/
structure BufEntry where
  src : Sender
  kind : BufKind
deriving DecidableEq, Repr, Inhabited

/-- A RED issued and not yet performed (R374). `behind` counts the entries that had entered its core's store buffer before it, which tells it from
the REDs behind a release (R145). -/
structure Red where
  id : Nat
  behind : Nat
  src : Sender
  place : Place
  typ : Nat
  op : Nat
  val : W64
deriving DecidableEq, Repr, Inhabited

/-- One contiguous run of a copy: source address, the destination address at offset DOFF (an absolute mesh address for a mesh
destination), the distance from DOFF and the length in source bytes, and the target core number of a mesh destination (R162, R169). -/
structure Run where
  src : W64
  dst : W64
  slot : Nat
  len : Nat
  target : Nat
deriving DecidableEq, Repr, Inhabited

/-- The five copy instructions and the tile fetch, which a token also counts (R160, R192). -/
inductive CopyKind where
  | send
  | sends (stream : Nat)
  | spread
  | xget
  | xput
  | tfetch (slot : Nat)
deriving DecidableEq, Repr, Inhabited

/-- A piece in flight: its place in the order of emission, its part of a run, the bytes read, the scale-band part of each block (sequence,
scale, SPEC), its place in physical memory where the destination is global, the bytes a stream has taken, whether its writes were done
(R162, R171, R173). `band` marks a piece of a scale-carrying copy (R171). -/
structure Piece where
  ord : Nat
  run : Run
  data : List Byte
  scales : List (Nat × Nat × Nat)
  place : Option Place
  taken : Nat
  done : Bool
  band : Bool := false
deriving DecidableEq, Repr, Inhabited

/-- A copy in flight: pusher, token, all its runs, those not yet started, the pieces in flight, the formats of its source banks, the formats read at
receiving banks (by 16 * target + bank), the targets that refused it, whether it carries scales, the address space, whether a stream took
an element, a fault that stopped it, and the error its token completes with (R160 to R173). `ragged` holds bytes that wait for the others of their aligned
destination word, by target and offset or by physical address (R163). -/
structure Copy where
  id : Nat
  src : Sender
  tok : Nat
  kind : CopyKind
  all : List Run
  runs : List Run
  flying : List Piece
  srcFmts : SMap Nat
  dstFmts : SMap Nat
  failed : List Nat
  scaled : Bool
  queue : Nat
  begun : Bool
  fault : Option Trap
  err : Option Trap
  ragged : SMap Byte := []
deriving DecidableEq, Repr, Inhabited

/-- The part of an array operation that one member wing of the binding runs (R20, R21, R134): the sites of the wing, whether it has granted the part a
dispatch slot, and whether the part has completed. The rest is the saved progress of a part that was stopped (R136, R231): whether its first row
step had run, the destination rows written, whether it had set its flags, the number of the stop, the rows it reads as it uses them and as the stop
left them (by addressed sub-array * 512 + row), and by addressed sub-array the latches, the active columns that BPROW took before its first step, and
the columns whose further results are free values. -/
structure OpPart where
  wing : List Nat
  granted : Bool := false
  done : Bool := false
  begun : Bool := false
  rows : Nat := 0
  flagged : Bool := false
  mark : Nat := 0
  seen : SMap (BitVec 512) := []
  leftAs : SMap (BitVec 512) := []
  latch : SMap (BitVec 512) := []
  mask : SMap (BitVec 512) := []
  loose : SMap (BitVec 512) := []
deriving DecidableEq, Repr, Inhabited

/-- An array operation with its captured operands (R133, R230) and its parts on the member wings that it addresses. BPLD and BPST are `checked` once
their addresses passed and BPLD has read its elements. Before the grant of the last slot `cols` is empty; from the grant on it names the active columns,
from the checks on (`passed`) with the cell offset of the element of each, and in a checked BPLD with the element itself (R221, R222); `out` holds the
elements that a BPLD has read so far, and those that the completed parts of a BPST have read. -/
structure ArrayOp where
  id : Nat
  src : Sender
  instr : Instr
  d : W64
  a : W64
  b : W64
  map : MapReg
  parts : List OpPart
  checked : Bool
  cols : SMap Nat
  out : SMap Int
  passed : Bool := false
deriving DecidableEq, Repr, Inhabited

/-- A vector or matrix operation dispatched to a wing and not yet complete (R18, R23). -/
structure WingMark where
  src : Sender
  site : Nat
  granted : Bool
  isMatrix : Bool
deriving DecidableEq, Repr, Inhabited

/-- An effect held by a speculative task or a twinned pair, in program order (R44, R258). `shares` marks a store that shares the entry of
an earlier one of its STV (R388). -/
inductive Effect where
  | buf (k : BufKind) (shares : Bool)
  | copy (c : Copy)
  | red (r : Red)
  | array (op : ArrayOp)
  | push (port : Nat) (word : W64)
  | launchPush (bytes : List Byte)
deriving DecidableEq, Repr, Inhabited

/-- One entry of a read set: a 64-byte block of the core's cell memory, or a row group of a member wing, named by its sites (R44, R225). -/
inductive ReadEntry where
  | block (n : Nat)
  | group (wing : List Nat) (g : Nat)
deriving DecidableEq, Repr, Inhabited

/-- A cached translation: address space, page base and size, the leaf entry (R112, R113). -/
structure TlbEntry where
  asid : Nat
  va : Nat
  size : Nat
  pa : Nat
  pte : W64
deriving DecidableEq, Repr, Inhabited

/-- The task a helper runs (R40, R42, R44). `opening` is the number of the array operation at the head of `held` while the wing has yet to check its
addresses (R230). `full` tells that its share or its read set was full: it stalls until it is no longer speculative (R44). `fault` is the fault that it stalls
at, with the TRAPPC that it will have (R248); `used` holds the translations that its held stores and REDs have used (R113). -/
structure Task where
  msg : Msg
  ordered : Bool
  first : Bool
  committing : Bool
  finished : Bool
  waitCommit : Bool
  reads : List ReadEntry
  held : List Effect
  opening : Option Nat
  full : Bool := false
  fault : Option (Trap × W64) := none
  used : List TlbEntry := []
deriving DecidableEq, Repr, Inhabited

/-- What a helper context is (R35). -/
inductive Status where
  | free
  | live
  | joinable
  | task
deriving DecidableEq, Repr, Inhabited

/-- The latch of a GUARD between its parcel and the guarded instruction (R60); `unread` when its register raises STALLCNT, which comes behind the faults
of the guarded parcels (R75). -/
inductive GuardLatch where
  | none
  | pass
  | suppress
  | unread (r : Nat)
deriving DecidableEq, Repr, Inhabited

/-- What an issued instruction waits for before it can retire (R127, R177, R193, R222, R238). `stores` holds the buffer entries that an
instruction of several stores has not placed yet, and the instance and fault it ends with; `tlbi` what must be behind it (R113): the
number of buffer entries by core, of REDs, and by twice the core the pieces started, with the fetches beside them; `hjoin` the
helper and the use of it (R35); `part` how far an instruction of many elements has come: its instance, the values read for it, and the inputs
of a pair taken by then (R122, R205, R256); `arrayOk` and `array` name an array operation. -/
inductive Wait where
  | bwait (n : Nat)
  | broken (t : Trap)
  | blease (port : Nat)
  | leased (port : Nat)
  | bfree (port : Nat)
  | stores (rest : List (W64 × Bool × BufKind)) (fin : Option (Nat × Trap))
  | array (op : Nat)
  | arrayOk (op : Nat)
  | part (m : Nat) (vals : List Nat) (fed len : Nat)
  | bpsync (n : Nat)
  | tlbi (left : SMap Nat) (reds : Nat) (pieces : SMap Nat)
  | arrayFault (t : Trap)
  | mlease
  | hjoin (h epoch : Nat)
deriving DecidableEq, Repr, Inhabited

/-- One accumulator tile: its elements, flags and the lift tag of the register it last served (R49, R100, R199). -/
structure Tile where
  els : SMap W64
  ov : Bool
  nv : Bool
  tag : LiftTag
deriving DecidableEq, Repr, Inhabited

/-- What a matrix instruction keeps while it is under way, over a stall or over a fault part-way (R204, R205, R209): the tag of its accumulator as it found it,
the accumulator's copies that its instances may yet read, by combination over that tag, the bytes and scales of an untagged B as far as they are read and
whether that is all, and the instances that have completed. -/
structure MatWork where
  lift : LiftTag
  tiles : SMap (List Tile)
  b : List Nat
  whole : Bool
  done : List Nat
deriving DecidableEq, Repr, Inhabited

/-- A register that awaits a CALLAT deposit (R41). -/
structure Await where
  call : Nat
  reg : BitVec 5
  tok : Nat
  callee : Nat
deriving DecidableEq, Repr, Inhabited

/-- One context (R35, R49, R57). `resume` is the instance at which a widened instruction resumes; `resuming` is 2 while an ERET retires and 1 until
the instruction it resumes at has retired (R205, R244). `doing` is the work of a matrix instruction under way, and `kept` that of a widened one which
faulted part-way (R204, R209).
`stalled` tells that its last turn ended in a stall (R70, log 64). `fetched` holds parcels fetched ahead, by half their address, with the key ID of
their page (R126, log 62), and `pause` after how many elements the next instruction of many elements lets others go on (R122, log 63): both are the
model's own. `delayed` tells that an access of its instruction has waited for a bank lease (R158, R159), and `lag` counts the issue cycles in which
it has had a fixed-latency write pending without a break (R70, log 64). `issued` is the instruction under way, with whether a GUARD stands before it: it is
not fetched again. `gathering` tells that it is a VGATH part-way through its elements, a wing operation that has been dispatched (R18). -/
structure Ctx where
  status : Status
  epoch : Nat
  starter : Nat
  pc : W64
  pcc : W128
  guard : GuardLatch
  c : Vector Reg 32
  v : Vector VReg 16
  m : Vector MapReg 16
  k : Vector Token 8
  s : Vector (Option Stream) 8
  bar : Vector Barrier 8
  pending : List Pending
  awaiting : List Await
  shape : BitVec 10
  lmask : W64
  ldepth : Nat
  lframe : LiftTag
  masks : List W64
  tstamp : BitVec 48
  rngs : BitVec 32
  chksb : Bool
  trapcause : W64
  trappc : W64
  trapval : W64
  trapvec : W64
  energy : W64
  handler : Bool
  deferred : List Deferred
  resume : Nat
  resuming : Nat
  faulting : Option Nat
  wake : BitVec 6
  idling : Option (Option W64)
  leaseAgain : Bool
  waiting : Option Wait
  kept : Option MatWork
  doing : Option MatWork
  task : Option Task
  nextCall : Nat
  stalled : Bool
  fetched : SMap (Nat × Nat)
  pause : Option Nat
  delayed : Bool
  lag : Nat
  issued : Option (Instr × Bool)
  gathering : Bool
deriving DecidableEq, Repr, Inhabited

/-- The launch resident on a core (R32, R34). -/
structure Resident where
  id : Nat
  queue : Nat
  base : Nat
  count : Nat
  monarch : Nat
  arg : Reg
  chry : W64
  saved : Bool
deriving DecidableEq, Repr, Inhabited

/-- A counted arrival at a barrier home, and an open phase (R238). -/
structure Phase where
  count : Nat
  arrived : List Sender
deriving DecidableEq, Repr, Inhabited

/-- Restart point of a twinned core: its context, cell memory, granule tags and bank formats (R258, R259). -/
structure TwinPoint where
  ctx : Ctx
  cell : Memory
  tags : List Nat
  bfmt : SMap Nat
deriving DecidableEq, Repr, Inhabited

/-- Traffic that arrived for a twinned pair, with its sender, and takes effect at a checkpoint (R256). -/
inductive Kept where
  | store (src : Sender) (off : Nat) (bytes : List Byte) (cap : Option Bool)
  | patch (src : Sender) (off : Nat) (l : List (Byte × Byte))
  | msg (m : Msg)
  | elem (src : Sender) (stream : Nat) (bytes : List Byte)
deriving DecidableEq, Repr, Inhabited

/-- A CALLAT value that a pair takes when so many instructions of the interval have retired (R256); `none` when the call failed. -/
structure Land where
  after : Nat
  call : Nat
  val : Option W64
deriving DecidableEq, Repr, Inhabited

/-- The twinning state of one core of a pair (R255 to R259). `feed` holds the inputs taken by the primary in the interval, `fed` how many
the core itself has taken; `lands` and `landed` do the same for CALLAT values.
`released` are the effects of an agreed interval that have not all entered the store buffer. -/
structure Twin where
  partner : Nat
  primary : Bool
  retrying : Bool
  retired : Nat
  total : Nat
  undo : Nat
  crc : W64
  point : TwinPoint
  held : List Effect
  kept : List Kept
  feed : List W128
  fed : Nat
  lands : List Land
  landed : Nat
  due : Bool
  released : List Effect
deriving DecidableEq, Repr, Inhabited

/-- A BPST that holds the tail of the store buffer until it has reserved its blocks, with the data of those already filled (R128). -/
structure TailHold where
  op : Nat
  src : Sender
  blocks : List (Nat × Option (SMap Byte))
deriving DecidableEq, Repr, Inhabited

/-- One logical core; `epochs` numbers the uses of its contexts: `bindDrain` lists the contexts whose BIND waits (R18): its
contexts, cell memory, task unit, store buffer and ports (R35 to R46, R106, R127). -/
structure Core where
  ctxs : SMap Ctx
  cell : Memory
  tags : List Nat
  bfmt : SMap Nat
  launch : Option Resident
  launchId : BitVec 32
  instar : BitVec 6
  stages : BitVec 7
  epochs : Nat
  classes : SMap W64
  chans : SMap W64
  senderLast : SMap Nat
  queues : SMap (List Msg)
  reserved : SMap Nat
  lastGrant : SMap Nat
  buf : List BufEntry
  left : Nat
  tail : Option TailHold
  seqOut : SMap Nat
  scaleOut : SMap Nat
  scaleIn : SMap Nat
  barHome : SMap Phase
  copies : List Copy
  nextCopy : Nat
  nextPiece : Nat
  ops : List ArrayOp
  nextOp : Nat
  marks : List WingMark
  bindDrain : List Nat
  twinState : BitVec 2
  twinPartner : Nat
  twin : Option Twin
  isSealed : Bool
deriving DecidableEq, Repr, Inhabited

/-- Which parts of a wing repair data names usable (R15). -/
inductive Health where
  | whole
  | halfA
  | halfB
  | dead
deriving DecidableEq, Repr, Inhabited

/-- The matrix lease of a wing (R24, R194). -/
structure MLease where
  holder : Sender
  used : Nat
deriving DecidableEq, Repr, Inhabited

/-- One wing (R14, R210). Rows are numbered sub-array * 512 + row; `order` lists the array operations it has granted and that have not completed,
by core and number, oldest first (R134). -/
structure Wing where
  health : Health
  grantPtr : Nat
  leasePtr : Nat
  lease : Option MLease
  leaseWait : List Sender
  acc : Vector Tile 8
  rows : SMap (BitVec 512)
  latch : SMap (BitVec 512)
  badRows : List Nat
  order : List (Nat × Nat)
  pins : SMap (List Nat)
deriving DecidableEq, Repr, Inhabited

/-- The binding and the micro-TLB of a front, and the binding that repair data assigns it at reset (R16, R113). -/
structure Front where
  bind : W64
  tlb : List TlbEntry
  repair : W64
deriving DecidableEq, Repr, Inhabited

/-- One physical cluster: TLB, the performance state requested and the one that the host requested last (R58), the state that a thermal hold imposes,
its power and test data (R25, R113, R265, R270 to R273). -/
structure Cluster where
  tlb : List TlbEntry
  request : BitVec 3
  requestHost : BitVec 3
  current : BitVec 3
  imposed : BitVec 3
  hold : BitVec 3
  target : Option (BitVec 3)
  before : BitVec 3
  budget : Nat
  drawn : Nat
  throttled : Bool
  periods : Nat
  suspect : Bool
  mark : Option (W64 × W64)
deriving DecidableEq, Repr, Inhabited

/-- A descriptor accepted or rejected and not yet passed by QHEAD; `pushed` when it came over e15 (R27, R29). -/
structure Slot where
  desc : List W64
  id : Nat
  code : Nat
  pushed : Option Sender
deriving DecidableEq, Repr, Inhabited

/-- One launch queue (R27). -/
structure Queue where
  qbase : W64
  qsize : BitVec 5
  qhead : BitVec 32
  qtail : BitVec 32
  qprio : BitVec 3
  qstat : BitVec 40
  qdone : W64
  halted : Bool
  slots : List Slot
  pendingAt : Option Nat
deriving DecidableEq, Repr, Inhabited

/-- A launch flooded and not complete (R30 to R34). -/
structure Launch where
  id : Nat
  queue : Nat
  prio : Nat
  desc : List W64
  doneOn : List Nat
  sealedSeen : Bool
  saved : Bool
  pendingAt : Option Nat
deriving DecidableEq, Repr, Inhabited

/-- What pre-emption keeps of one core beside the bytes of the chrysalis area, and its contexts as they were when their records were written
(R250). -/
structure SavedCore where
  number : Nat
  core : Core
  hasLift : Bool
  first : SMap Ctx
  mark : Nat
  results : SMap (List W64)
deriving DecidableEq, Repr, Inhabited

/-- A launch saved by pre-emption, with the wings saved by core number (R249, R250). -/
structure SavedLaunch where
  id : Nat
  cores : List SavedCore
  wings : List (Nat × Wing)
deriving DecidableEq, Repr, Inhabited

/-- Something on its way to a core (R38, R107, R238). -/
inductive Cargo where
  | store (off : Nat) (bytes : List Byte) (cap : Option Bool)
  | patch (off : Nat) (l : List (Byte × Byte))
  | msg (m : Msg)
  | arrive (n count : Nat)
deriving DecidableEq, Repr, Inhabited

/-- A store, message or barrier arrival under way; `inDie` tells that it takes its place in the die order of its sender (R138). -/
structure Flight where
  src : Sender
  dst : Nat
  cargo : Cargo
  inDie : Bool
deriving DecidableEq, Repr, Inhabited

/-- A refusal on its way back to its sender: the fault and what it ends (R38, R41, R238). -/
structure Refused where
  dst : Sender
  trap : Trap
  call : Option Nat
  bar : Option Nat
deriving DecidableEq, Repr, Inhabited

/-- A CALLAT value, or its failure, on its way to the caller (R41). -/
structure Deposit where
  dst : Sender
  call : Nat
  val : Option W64
  callee : Nat
deriving DecidableEq, Repr, Inhabited

/-- A barrier completion on its way (R238). -/
structure Completion where
  dst : Sender
  bar : Nat
  wide : Option Nat
deriving DecidableEq, Repr, Inhabited

/-- A bank lease or a request for one: its port, per row the physical addresses of its 1 KiB segments in ascending bank order, its units in
that order and how many of them it has taken, the vector buffers by bank, the command words waiting, the command that takes data words
(with the words so far, and whether it met a command error), and the results (R177 to R183). -/
structure Lease where
  id : Nat
  holder : Sender
  port : Nat
  isAll : Bool
  micros : Nat
  rows : List (List Nat)
  units : List Nat
  took : Nat
  granted : Bool
  expired : Bool
  since : W64
  allMode : Bool
  bank : Nat
  vbufs : SMap (SMap (BitVec 16))
  words : List W64
  current : Option (W64 × List W64 × Bool)
  results : List W64
deriving DecidableEq, Repr, Inhabited

/-- A descriptor pushed on e15 and not yet read by the engine, and a result not yet popped (R27, R176). -/
structure LaunchPush where
  src : Sender
  desc : List W64
deriving DecidableEq, Repr, Inhabited

/-- Result words of e15 by context (R27). `waits` tells that the descriptor has been accepted and has yet to flood: its status is still to come (R29). -/
structure LaunchResult where
  src : Sender
  word : W64
  waits : Bool
deriving DecidableEq, Repr, Inhabited

/-- A reduce-state line: the die whose L2 holds it, the line address, the key ID recorded with it, type, operation and partials by byte offset
(R114, R120). -/
structure ReduceLine where
  die : Nat
  key : Nat
  line : Nat
  typ : Nat
  op : Nat
  parts : SMap W64
deriving DecidableEq, Repr, Inhabited

/-- What a sector was last written under: a key ID and its keys at that time (R114). -/
structure KeyMark where
  id : Nat
  key : PageKey
deriving DecidableEq, Repr, Inhabited

/-- A poisoned L2 line's sector: the number of its record, IV or UE, and the key ID of the access that found it; `none` when a store or a merge left
the sector without good bytes (R114, R115, log 7). -/
structure Poison where
  rec_ : Nat
  iv : Bool
  key : Option Nat
deriving DecidableEq, Repr, Inhabited

/-- A far-way word: owned or shared, its bytes, the key ID of its page, its granule's tag as this die sees it, the time of its last store
(R105, R114, R119, R147). -/
structure FarWord where
  owned : Bool
  data : W64
  key : Nat
  tag : Bool
  since : W64
deriving DecidableEq, Repr, Inhabited

/-- What ran where, for the record of a failed cluster test (R265): a core, its physical cluster, its launch, from when and until when, and for a
twinned core the numbers of its pair's primary and secondary and the cluster of its partner. -/
structure Ran where
  core : Nat
  cluster : Nat
  launch : Nat
  pair : Option (Nat × Nat × Nat)
  since : W64
  stop : Option W64
deriving DecidableEq, Repr, Inhabited

/-- A Boltex port: whether a partner is attached, its active lanes, its bits of LINKp (R278, R279). -/
structure Link where
  attached : Bool
  lanes : Nat
  degraded : Bool
  down : Bool
deriving DecidableEq, Repr, Inhabited

/-- One error record of 64 bytes as eight doublewords (R281). -/
structure ErrRecord where
  num : Nat
  dwords : List W64
deriving DecidableEq, Repr, Inhabited

/-- A response over the DOE mailbox (R282). -/
inductive SpdmReply where
  | version (major minor : Nat)
  | capabilities (list : List Nat)
  | algorithms (asym hash : Nat)
  | digests (digest : Nat)
  | certificate (bytes : List Byte)
  | challenge (nonce digest sig : Nat)
  | measurements (blocks : List Nat)
  | error (code : Nat)
deriving DecidableEq, Repr, Inhabited

/-- The SPDM session and the firmware state of the management controller (R282). -/
structure Spdm where
  versionDone : Bool
  capsDone : Bool
  algsDone : Bool
  replies : List SpdmReply
deriving DecidableEq, Repr, Inhabited

/-- Why the model stops. -/
inductive Fault where
  /-- An event names an agent the package does not have (a core above 1,023, a site above 1,087), an access over
  more than a doubleword or a lane count no port has. Raised by event meanings on ill-formed operands; safe: the spec has no such event (log 5). -/
  | noSuchAgent
deriving DecidableEq, Repr, Inhabited

/-- Why the model gives no meaning. -/
inductive Refusal where
  /-- The instruction has no meaning yet. Raised by Dispatch only; safe. -/
  | notModelled (mnemonic : String)
deriving DecidableEq, Repr, Inhabited

/-- Global memory, its caches and physical errors (R105, R114 to R120). -/
structure GlobalMem where
  hbm : Memory
  hbmTags : List Nat
  host : Memory
  sectorKey : SMap KeyMark
  badSectors : List Nat
  poisoned : SMap Poison
  keys : SMap PageKey
  far : SMap (SMap FarWord)
  reduce : List ReduceLine
  l2ways : Vector (BitVec 12) 4
  hbmtop : W64
  troot : Vector W64 16
deriving DecidableEq, Repr, Inhabited

/-- Power, time, links and management (R269 to R282). `capPeakHost` and `capAvgHost` are the host's values of the caps (R58). `draws` holds what each
die has drawn in the last grant periods, in nanojoules, the latest first; `ran` what ran where; `hostData` what the host read last (R153); `thermals`
counts thermal holds; `spare` holds what each die has drawn in this period beside its clusters. `told` lists what the completions of launches have
told the host: the launch ID, and that a core was sealed (R264). -/
structure Mgmt where
  time : W64
  timeSlew : Nat
  slewFaster : Bool
  aligned : Bool
  capPeak : BitVec 11
  capAvg : BitVec 11
  capPeakHost : BitVec 11
  capAvgHost : BitVec 11
  capPeakNow : Nat
  capAvgNow : Nat
  draws : List (List Nat)
  ran : List Ran
  thermals : Nat
  hostData : W64
  enovh : W64
  enpkg : W64
  spare : Vector Nat 4
  pwrnow : W64
  pwrlim : BitVec 2
  mgcfg : Bool
  diectl : Vector Bool 4
  diePending : Vector Bool 4
  parked : Vector Bool 4
  unparking : Vector Bool 4
  preq : BitVec 34
  pstat : BitVec 9
  rechead : W64
  records : SMap ErrRecord
  oob : List ErrRecord
  links : Vector Link 16
  outbound : List (Nat × Nat)
  msix : List Nat
  told : List (Nat × Bool)
  recovery : Bool
  spdm : Spdm
deriving DecidableEq, Repr, Inhabited

/-- The package. `cur`, `agenda` and `tick` order the agents' steps and are the model's own (log 1). -/
structure State where
  cur : CtxId
  agenda : List Turn
  tick : Nat
  device : Nat
  coreTable : SMap (BitVec 16)
  fronts : SMap Front
  wings : SMap Wing
  cores : SMap Core
  clusters : SMap Cluster
  queues : SMap Queue
  lastFlood : Nat
  nextLaunch : Nat
  pendOrder : Nat
  launches : List Launch
  saved : List SavedLaunch
  flights : List Flight
  refused : List Refused
  deposits : List Deposit
  completions : List Completion
  reds : List Red
  nextRed : Nat
  leases : List Lease
  nextLease : Nat
  launchPushes : List LaunchPush
  launchResults : List LaunchResult
  debugHalt : List (Nat × CtxId)
  mem : GlobalMem
  mg : Mgmt
deriving DecidableEq, Repr, Inhabited

/-- The null capability (R50). -/
def regNull : Reg := ⟨0, false⟩

/-- No level (R199). -/
def tagNone : LiftTag := ⟨0, 0, 0⟩

/-- A vector register at flood: 0 and untagged (R32, R35). -/
def vregReset : VReg := ⟨tagNone, [0]⟩

/-- A map register at flood: 0 and untagged (R32, R35). -/
def mapRegReset : MapReg := ⟨0, false, tagNone⟩

/-- A complete token (R32). -/
def tokenReset : Token := ⟨0, false, 0, 0⟩

/-- The code capability of R54, selector 12: base 0, top 0xC000_0000_0000_0000, R and X. Exponent 39, mantissas 0 and 0xC000_0000_0000_0000 / 2^39. -/
def codeRoot : W128 := BitVec.ofNat 128 (2 ^ 127 + 2 ^ 125 + 39 * 2 ^ 114 + 0x1800000 * 2 ^ 89)

/-- The reset value of RNGS (R58). -/
def rngsReset (corenum cx : Nat) : BitVec 32 := 0x2545F491#32 ^^^ BitVec.ofNat 32 (corenum * 16) ^^^ BitVec.ofNat 32 cx

/-- A context of core number `corenum` as R35 and R57 leave it. -/
def ctxReset (corenum cx : Nat) : Ctx where
  status := .free
  epoch := 0
  starter := 0
  pc := 0
  pcc := codeRoot
  guard := .none
  c := Vector.replicate 32 regNull
  v := Vector.replicate 16 vregReset
  m := Vector.replicate 16 mapRegReset
  k := Vector.replicate 8 tokenReset
  s := Vector.replicate 8 none
  bar := Vector.replicate 8 ⟨.unset, 0, 0⟩
  pending := []
  awaiting := []
  shape := 0x0F7
  lmask := BitVec.allOnes 64
  ldepth := 0
  lframe := tagNone
  masks := []
  tstamp := 0
  rngs := rngsReset corenum cx
  chksb := false
  trapcause := 0
  trappc := 0
  trapval := 0
  trapvec := 0
  energy := 0
  handler := false
  deferred := []
  resume := 0
  resuming := 0
  faulting := none
  wake := 0
  idling := none
  leaseAgain := false
  waiting := none
  kept := none
  doing := none
  task := none
  nextCall := 0
  stalled := false
  fetched := []
  pause := none
  delayed := false
  lag := 0
  issued := none
  gathering := false

/-- A core with no launch resident (R30, R34, R57). -/
def coreReset : Core where
  ctxs := []
  cell := []
  tags := []
  bfmt := []
  launch := none
  launchId := 0
  instar := 0
  stages := 0
  epochs := 0
  classes := []
  chans := []
  senderLast := []
  queues := []
  reserved := []
  lastGrant := []
  buf := []
  left := 0
  tail := none
  seqOut := []
  scaleOut := []
  scaleIn := []
  barHome := []
  copies := []
  nextCopy := 0
  nextPiece := 0
  ops := []
  nextOp := 0
  marks := []
  bindDrain := []
  twinState := 0
  twinPartner := 0
  twin := none
  isSealed := false

/-- An accumulator tile of zeros (DESIGN CHOICE, log 4). -/
def tileReset : Tile := ⟨[], false, false, tagNone⟩

/-- A whole wing at power-on (R15, R23, R24; contents log 4). -/
def wingReset : Wing where
  health := .whole
  grantPtr := 8
  leasePtr := 8
  lease := none
  leaseWait := []
  acc := Vector.replicate 8 tileReset
  rows := []
  latch := []
  badRows := []
  order := []
  pins := []

/-- A front at power-on: MODE 0 with MEM0 = 4 (R16). -/
def frontReset : Front := ⟨0x400, [], 0x400⟩

/-- A cluster at power-on: P0 (R57, R271). -/
def clusterReset : Cluster where
  tlb := []
  request := 0
  requestHost := 0
  current := 0
  imposed := 0
  hold := 0
  target := none
  before := 0
  budget := 0
  drawn := 0
  throttled := false
  periods := 0
  suspect := false
  mark := none

/-- A launch queue at power-on (R27). -/
def queueReset : Queue := ⟨0, 0, 0, 0, 0, 0, 0, false, [], none⟩

/-- The core-table entry of a new part: VALID, logical row on the same physical row (R12). -/
def coreTableReset (core : Nat) : BitVec 16 := BitVec.ofNat 16 (0x8000 + core % 256 / 16 * 16 + core % 16)

/-- The package right after power-on. -/
def State.reset : State where
  cur := ⟨0, 0⟩
  agenda := []
  tick := 0
  device := 0
  coreTable := []
  fronts := []
  wings := []
  cores := []
  clusters := []
  queues := []
  lastFlood := 15
  nextLaunch := 1
  pendOrder := 0
  launches := []
  saved := []
  flights := []
  refused := []
  deposits := []
  completions := []
  reds := []
  nextRed := 0
  leases := []
  nextLease := 0
  launchPushes := []
  launchResults := []
  debugHalt := []
  mem :=
    { hbm := [], hbmTags := [], host := [], sectorKey := [], badSectors := [], poisoned := [], keys := [], far := [], reduce := [],
      l2ways := Vector.replicate 4 0, hbmtop := 0x5000000000, troot := Vector.replicate 16 0 }
  mg :=
    { time := 0, timeSlew := 0, slewFaster := false, aligned := false, capPeak := 850, capAvg := 850, capPeakHost := 850,
      capAvgHost := 850, capPeakNow := 850, capAvgNow := 850,
      draws := [], ran := [], thermals := 0, hostData := 0, enovh := 0, enpkg := 0, spare := Vector.replicate 4 0, pwrnow := 0, pwrlim := 0, mgcfg := false,
      diectl := Vector.replicate 4 false, diePending := Vector.replicate 4 false, parked := Vector.replicate 4 false,
      unparking := Vector.replicate 4 false, preq := 0, pstat := 0, rechead := 0, records := [], oob := [],
      links := Vector.replicate 16 ⟨false, 0, false, true⟩, outbound := [], msix := [], told := [], recovery := false,
      spdm := ⟨false, false, false, []⟩ }

end Sys2Proof.Machine
end

