-- ==== Sys2Proof/Machine/Access.lean ====
section
/-! DEFINITION. Reading and writing the parts of the state, and the geometry of the package (R8 to R12, R26). -/

namespace Sys2Proof.Machine

/-- Bits [hi:lo] of a doubleword as a number (R2). -/
def bits (w : W64) (hi lo : Nat) : Nat := w.toNat / 2 ^ lo % 2 ^ (hi + 1 - lo)

/-- One bit of a doubleword. -/
def bitAt (w : W64) (n : Nat) : Bool := w.toNat / 2 ^ n % 2 == 1

/-- sx(x, n) of R4 as an exact integer. -/
def sxInt (x n : Nat) : Int := if x % 2 ^ n < 2 ^ (n - 1) then (x % 2 ^ n : Nat) else (x % 2 ^ n : Nat) - (2 ^ n : Nat)

/-- An exact integer narrowed to a doubleword, modulo 2^64. -/
def toW (i : Int) : W64 := BitVec.ofInt 64 i

/-- A number narrowed to a doubleword. -/
def natW (n : Nat) : W64 := BitVec.ofNat 64 n

/-- Update the element at one index of a list. -/
def listSet {α : Type} (l : List α) (n : Nat) (a : α) : List α :=
  match l with
  | [] => []
  | b :: r => match n with
    | 0 => a :: r
    | k + 1 => b :: listSet r k a

/-- Remove the element at one index. -/
def listDel {α : Type} (l : List α) (n : Nat) : List α :=
  match l with
  | [] => []
  | b :: r => match n with
    | 0 => r
    | k + 1 => b :: listDel r k

/-- The element of a register file at a number. -/
def vecGet {α : Type} {n : Nat} (v : Vector α n) (i : Nat) (d : α) : α := (v[i]?).getD d

/-- Write one element of a register file. -/
def vecSet {α : Type} {n : Nat} (v : Vector α n) (i : Nat) (a : α) : Vector α n := v.setIfInBounds i a

/-- Change one element of a register file. -/
def vecModify {α : Type} {n : Nat} (v : Vector α n) (i : Nat) (f : α → α) : Vector α n :=
  match v[i]? with
  | some a => v.setIfInBounds i (f a)
  | none => v

/-- The die of a core of the package. -/
def dieOf (c : Nat) : Nat := c / 256

/-- The logical x coordinate of a core (R9). -/
def coreX (c : Nat) : Nat := c / 256 % 2 * 16 + c % 16

/-- The logical y coordinate of a core (R9). -/
def coreY (c : Nat) : Nat := c / 512 * 16 + c % 256 / 16

/-- The core at logical coordinates (R9). -/
def coreAt (x y : Nat) : Nat := (y / 16 * 2 + x / 16) * 256 + y % 16 * 16 + x % 16

/-- The logical cluster of a core, numbered die * 16 + cluster within the die (R10). -/
def logicalCluster (c : Nat) : Nat := c / 256 * 16 + coreY c % 16 / 4 * 4 + coreX c % 16 / 4

/-- The physical cluster of a site (R11). -/
def clusterOf (site : Nat) : Nat := site / 272 * 16 + min (site % 272 / 16 / 4) 3 * 4 + site % 16 / 4

/-- The 22-bit number of a core of the package (R26). -/
def coreNum (s : State) (c : Nat) : Nat := s.device * 1024 + c

/-- The core-table entry of a core (R12). -/
def tableEntry (s : State) (c : Nat) : BitVec 16 := mapGetD s.coreTable c (coreTableReset c)

/-- The site a core-table entry names on a die. -/
def entrySite (die : Nat) (e : BitVec 16) : Nat := die * 272 + e.toNat / 16 % 32 * 16 + e.toNat % 16

/-- The site of a logical core (R11, R12). -/
def siteOf (s : State) (c : Nat) : Nat := entrySite (dieOf c) (tableEntry s c)

/-- A core is absent when its entry is not VALID or its die is parked (R26). -/
def absent (s : State) (c : Nat) : Bool :=
  (tableEntry s c).toNat / 2 ^ 15 == 0 || vecGet s.mg.parked (dieOf c) false

/-- The core of this package that a 22-bit number names, if it lies on this device. -/
def localCore (s : State) (num : Nat) : Option Nat := if num / 1024 = s.device then some (num % 1024) else none

/-- A core. -/
def getCore (s : State) (c : Nat) : Core := mapGetD s.cores c coreReset

/-- Replace a core. -/
def putCore (s : State) (c : Nat) (k : Core) : State := { s with cores := mapSet s.cores c k }

/-- Change a core. -/
def onCore (s : State) (c : Nat) (f : Core → Core) : State := putCore s c (f (getCore s c))

/-- A context. -/
def getCtx (s : State) (id : CtxId) : Ctx := mapGetD (getCore s id.core).ctxs id.cx (ctxReset (coreNum s id.core) id.cx)

/-- Replace a context. -/
def putCtx (s : State) (id : CtxId) (x : Ctx) : State := onCore s id.core fun k => { k with ctxs := mapSet k.ctxs id.cx x }

/-- Change a context. -/
def onCtx (s : State) (id : CtxId) (f : Ctx → Ctx) : State := putCtx s id (f (getCtx s id))

/-- The executing context. -/
def curCtx (s : State) : Ctx := getCtx s s.cur

/-- The executing core. -/
def curCore (s : State) : Core := getCore s s.cur.core

/-- Change the executing context. -/
def onCur (s : State) (f : Ctx → Ctx) : State := onCtx s s.cur f

/-- The executing context as a sender. -/
def senderOf (s : State) (id : CtxId) : Sender := ⟨coreNum s id.core, id.cx, (getCtx s id).epoch⟩

/-- The context is in use and has not executed DONE (R35). -/
def alive (x : Ctx) : Bool := x.status == .live || (x.status == .task && !((x.task.map fun t => t.finished).getD false))

/-- The context that a sender names, while that use of it lasts (R38). -/
def findSender (s : State) (f : Sender) : Option CtxId :=
  match localCore s f.core with
  | some c => if (getCtx s ⟨c, f.cx⟩).epoch = f.epoch && alive (getCtx s ⟨c, f.cx⟩) then some ⟨c, f.cx⟩ else none
  | none => none

/-- The context that a sender names, from its start until its helper is free again: a finished task that waits for its commit too. -/
def findUse (s : State) (f : Sender) : Option CtxId :=
  match localCore s f.core with
  | some c => if (getCtx s ⟨c, f.cx⟩).epoch = f.epoch && (getCtx s ⟨c, f.cx⟩).status != .free then some ⟨c, f.cx⟩ else none
  | none => none

/-- The saved record of a context is that of a sender (R250). -/
def savedUse (k : SavedCore) (f : Sender) : Bool :=
  k.number == f.core && match mapGet k.core.ctxs f.cx with
    | some x => x.epoch == f.epoch && alive x
    | none => false

/-- A sender's context is in use, on its core or saved (R250). -/
def inUse (s : State) (f : Sender) : Bool := (findSender s f).isSome || s.saved.any fun v => v.cores.any fun k => savedUse k f

/-- The state with the context that a sender names as the executing one: what acts for it acts on its core. -/
def asContext (s : State) (c : Nat) (f : Sender) : State := { s with cur := ⟨c, f.cx⟩ }

/-- A front. -/
def getFront (s : State) (site : Nat) : Front := mapGetD s.fronts site frontReset

/-- Replace a front. -/
def putFront (s : State) (site : Nat) (f : Front) : State := { s with fronts := mapSet s.fronts site f }

/-- A wing. -/
def getWing (s : State) (site : Nat) : Wing := mapGetD s.wings site wingReset

/-- Replace a wing. -/
def putWing (s : State) (site : Nat) (w : Wing) : State := { s with wings := mapSet s.wings site w }

/-- Change a wing. -/
def onWing (s : State) (site : Nat) (f : Wing → Wing) : State := putWing s site (f (getWing s site))

/-- A cluster. -/
def getCluster (s : State) (n : Nat) : Cluster := mapGetD s.clusters n clusterReset

/-- Replace a cluster. -/
def putCluster (s : State) (n : Nat) (k : Cluster) : State := { s with clusters := mapSet s.clusters n k }

/-- A core's cluster has stopped its clocks: what reaches the core waits for the wake (R273). A core of a parked die is absent instead (R274). -/
def asleep (s : State) (c : Nat) : Bool := (getCluster s (clusterOf (siteOf s c))).current == 5 && !absent s c

/-- A launch queue. -/
def getQueue (s : State) (q : Nat) : Queue := mapGetD s.queues q queueReset

/-- Replace a launch queue. -/
def putQueue (s : State) (q : Nat) (k : Queue) : State := { s with queues := mapSet s.queues q k }

/-- A channel queue of a core (R37). -/
def chanQueue (k : Core) (n : Nat) : List Msg := mapGetD k.queues n []

/-- A core is free: its control context has ended, no helper is in use, its channel queues are empty (R30). A sealed core is not free
(R264). -/
def coreFree (s : State) (c : Nat) : Bool :=
  let k := getCore s c
  !k.isSealed && k.ctxs.all (fun p => p.2.status == .free) && k.queues.all (fun p => p.2.isEmpty)

/-- A launch is resident: one was flooded, has not completed on the core, and is not saved (R34, R38, R252). -/
def resident (s : State) (c : Nat) : Bool :=
  match (getCore s c).launch with
  | some l => !l.saved && !coreFree s c && !(getCore s c).isSealed
  | none => false

/-- Refusals take effect at a core that is absent, sealed or without a resident launch (R38, R107, R263). -/
def reachable (s : State) (num : Nat) : Bool :=
  match localCore s num with
  | some c => !absent s c && !(getCore s c).isSealed
  | none => false

/-- What ran on a core ends now (R265). -/
def noteStop (s : State) (c : Nat) : State :=
  let close := fun r : Ran => if r.core = c && r.stop.isNone then { r with stop := some s.mg.time } else r
  { s with mg := { s.mg with ran := s.mg.ran.map close } }

/-- What runs on a core from now on (R265). -/
def noteCore (s : State) (c : Nat) : State :=
  let k := getCore s c
  let z := noteStop s c
  match k.launch with
  | none => z
  | some l =>
    let pair := k.twin.map fun t =>
      (coreNum s (if t.primary then c else t.partner), coreNum s (if t.primary then t.partner else c), clusterOf (siteOf s t.partner))
    { z with mg := { z.mg with ran := z.mg.ran ++ [⟨c, clusterOf (siteOf s c), l.id, pair, s.mg.time, none⟩] } }

/-- The extents of the open levels as the LFRAME register shows them (R57). -/
def frameWord (t : LiftTag) : Nat := t.e1 % 128 + t.e2 % 128 * 2 ^ 8 + t.e3 % 128 * 2 ^ 16

/-- The byte list of a doubleword's low `n` bytes, little-endian (R2). -/
def toBytes (v n : Nat) : List Byte :=
  match n with
  | 0 => []
  | k + 1 => BitVec.ofNat 8 v :: toBytes (v / 256) k

/-- The number that bytes hold, little-endian (R2). -/
def ofBytes (l : List Byte) : Nat :=
  match l with
  | [] => 0
  | b :: r => b.toNat + 256 * ofBytes r

/-- One byte of a memory; an unlisted address reads 0 (log 3). -/
def memRead (m : Memory) (a : Nat) : Byte := mapGetD m a 0

/-- Write one byte in canonical form: 0 removes the entry. -/
def memWrite (m : Memory) (a : Nat) (b : Byte) : Memory := if b = 0 then mapErase m a else mapSet m a b

/-- `n` bytes from address `a` upwards. -/
def memReads (m : Memory) (a n : Nat) : List Byte :=
  match n with
  | 0 => []
  | k + 1 => memRead m a :: memReads m (a + 1) k

/-- Write bytes from address `a` upwards. -/
def memWrites (m : Memory) (a : Nat) (l : List Byte) : Memory :=
  match l with
  | [] => m
  | b :: r => memWrites (memWrite m a b) (a + 1) r

/-- Clear the tags of every granule that bytes `a` to `a + n - 1` touch (R105). -/
def clearTags (t : List Nat) (a n : Nat) : List Nat := t.filter fun g => !(decide (a < g * 16 + 16) && decide (g * 16 < a + n))

/-- Set or clear one granule's tag. -/
def putTag (t : List Nat) (g : Nat) (b : Bool) : List Nat := if b then setAdd t g else setDel t g

end Sys2Proof.Machine
end

