-- ==== Sys2Proof/Machine/Aes.lean ====
section
/-! DEFINITION. The memory cipher of R114: AES-256-XTS over a 64-byte sector, and AES-256-CMAC for its integrity tag.

R114 names both; AES itself is FIPS 197, XTS IEEE 1619 and the order of its two keys, of bytes and of tweaks theirs (PRESUMED, log 6). -/

namespace Sys2Proof.Machine

/-- Multiplication by x in the field of AES. -/
def aesDouble (a : Nat) : Nat := (if a < 128 then 2 * a else (2 * a) ^^^ 0x11B) % 256

/-- Multiplication in the field of AES, over the low `n` bits of `b`. -/
def aesMul (a b n : Nat) : Nat :=
  match n with
  | 0 => 0
  | k + 1 => (if b % 2 = 1 then a else 0) ^^^ aesMul (aesDouble a) (b / 2) k

/-- Repeated squaring: the product of a^(2^1) to a^(2^n). -/
def aesPow (a n : Nat) : Nat :=
  match n with
  | 0 => 1
  | k + 1 => aesMul (aesMul a a 8) (aesPow (aesMul a a 8) k) 8

/-- The inverse in the field of AES, a^254; 0 for 0. -/
def aesInv (a : Nat) : Nat := aesPow a 7

/-- A byte rotated left. -/
def rotl8 (a n : Nat) : Nat := (a * 2 ^ n % 256) ^^^ (a / 2 ^ (8 - n))

/-- The S-box. -/
def aesSub (a : Nat) : Nat :=
  let b := aesInv a
  b ^^^ rotl8 b 1 ^^^ rotl8 b 2 ^^^ rotl8 b 3 ^^^ rotl8 b 4 ^^^ 0x63

/-- The inverse S-box. -/
def aesUnsub (a : Nat) : Nat := aesInv (rotl8 a 1 ^^^ rotl8 a 3 ^^^ rotl8 a 6 ^^^ 0x05)

/-- Bytes combined by exclusive or. -/
def xorBytes (a b : List Nat) : List Nat := List.zipWith (· ^^^ ·) a b

/-- The expanded key, latest word first: `w` holds the words so far, `i` their number. -/
def aesWords (w : List (List Nat)) (i rcon n : Nat) : List (List Nat) :=
  match n with
  | 0 => w
  | k + 1 =>
    let t := w.headD []
    let t := if i % 8 = 0 then xorBytes ((t.drop 1 ++ t.take 1).map aesSub) [rcon, 0, 0, 0] else if i % 8 = 4 then t.map aesSub else t
    aesWords (xorBytes (w.getD 7 []) t :: w) (i + 1) (if i % 8 = 0 then aesDouble rcon else rcon) k

/-- Cut bytes into groups. -/
def cutBytes {α : Type} (l : List α) (n k : Nat) : List (List α) :=
  match k with
  | 0 => []
  | j + 1 => l.take n :: cutBytes (l.drop n) n j

/-- The 15 round keys of a 32-byte key. -/
def aesKeys (key : List Nat) : List (List Nat) := cutBytes (aesWords (cutBytes key 4 8).reverse 8 1 52).reverse.flatten 16 15

/-- The rows of the state shifted; `back` undoes it. Byte 4c + r is row r of column c. -/
def aesShift (s : List Nat) (back : Bool) : List Nat :=
  (List.range 16).map fun j => s.getD (((if back then j / 4 + 4 - j % 4 else j / 4 + j % 4) % 4) * 4 + j % 4) 0

/-- The columns of the state mixed by the coefficients `m`. -/
def aesMix (s m : List Nat) : List Nat :=
  (List.range 16).map fun j =>
    (List.range 4).foldl (fun a k => a ^^^ aesMul (s.getD (j / 4 * 4 + k) 0) (m.getD ((k + 4 - j % 4) % 4) 0) 8) 0

/-- The rounds of encryption; the last one mixes no columns. -/
def aesRounds (s : List Nat) (ks : List (List Nat)) : List Nat :=
  match ks with
  | [] => s
  | [k] => xorBytes (aesShift (s.map aesSub) false) k
  | k :: r => aesRounds (xorBytes (aesMix (aesShift (s.map aesSub) false) [2, 3, 1, 1]) k) r

/-- The rounds of decryption, with the round keys from the last. -/
def aesUnrounds (s : List Nat) (ks : List (List Nat)) : List Nat :=
  match ks with
  | [] => s
  | [k] => xorBytes ((aesShift s true).map aesUnsub) k
  | k :: r => aesUnrounds (aesMix (xorBytes ((aesShift s true).map aesUnsub) k) [14, 11, 13, 9]) r

/-- AES-256 of one block under expanded keys. -/
def aesBlock (ks : List (List Nat)) (p : List Nat) : List Nat := aesRounds (xorBytes p (ks.headD [])) ks.tail

/-- Its inverse. -/
def aesUnblock (ks : List (List Nat)) (c : List Nat) : List Nat := aesUnrounds (xorBytes c (ks.reverse.headD [])) ks.reverse.tail

/-- Bytes of a number, little-endian (R2). -/
def numBytes (v n : Nat) : List Nat := (toBytes v n).map BitVec.toNat

/-- The tweak of the next block: multiplication by x in GF(2^128), little-endian. -/
def xtsNext (t : List Nat) : List Nat :=
  let v := ofBytes (t.map (BitVec.ofNat 8))
  numBytes ((2 * v % 2 ^ 128) ^^^ (if v < 2 ^ 127 then 0 else 0x87)) 16

/-- The blocks of a data unit under their tweaks, through `f`. -/
def xtsBlocks (f : List Nat → List Nat) (t : List Nat) (l : List (List Nat)) : List Nat :=
  match l with
  | [] => []
  | b :: r => xorBytes (f (xorBytes b t)) t ++ xtsBlocks f (xtsNext t) r

/-- The two halves of an XTS key: for data, then for the tweak. -/
def xtsHalves (key : BitVec 512) : List Nat × List Nat := (numBytes key.toNat 32, numBytes (key.toNat / 2 ^ 256) 32)

/-- A sector at physical address `p` through the cipher, forwards or back (R114): one data unit with the tweak p >> 6. -/
def xtsSector (key : BitVec 512) (p : Nat) (l : List Byte) (back : Bool) : List Byte :=
  let ks := aesKeys (xtsHalves key).1
  let t := aesBlock (aesKeys (xtsHalves key).2) (numBytes (p / 64) 16)
  (xtsBlocks (if back then aesUnblock ks else aesBlock ks) t (cutBytes (l.map BitVec.toNat) 16 4)).map (BitVec.ofNat 8)

/-- The next subkey of CMAC: multiplication by x in GF(2^128), big-endian. -/
def cmacNext (k : List Nat) : List Nat := (xtsNext k.reverse).reverse

/-- CBC-MAC over blocks. -/
def cmacChain (ks : List (List Nat)) (c : List Nat) (l : List (List Nat)) : List Nat :=
  match l with
  | [] => c
  | b :: r => cmacChain ks (aesBlock ks (xorBytes c b)) r

/-- The 56-bit integrity tag of a sector (R114): the first 56 bits of AES-256-CMAC over its 64 ciphertext bytes, its address as 8 bytes and
the key ID as 1 byte. -/
def sectorTag (key : BitVec 256) (p id : Nat) (cipher : List Byte) : List Nat :=
  let ks := aesKeys (numBytes key.toNat 32)
  let k2 := cmacNext (cmacNext (aesBlock ks (List.replicate 16 0)))
  let tail := numBytes p 8 ++ [id % 256, 0x80, 0, 0, 0, 0, 0, 0]
  (cmacChain ks (List.replicate 16 0) (cutBytes (cipher.map BitVec.toNat) 16 4 ++ [xorBytes tail k2])).take 7

end Sys2Proof.Machine
end

