-- ==== Sys2Proof/Machine/Legal.lean ====
section
/-! DEFINITION. The operand values each entry of the reference lists (R65): every other value raises ILLOP.

Only what the encoding itself shows is decided here; limits on register contents stand in the meanings. -/

namespace Sys2Proof.Machine

/-- bits(T) of R398 and R66; 0 for the codes 20 to 31, which are no type. -/
def typeBits (t : Nat) : Nat :=
  match t with
  | 0 => 4 | 1 => 6 | 2 => 6 | 3 => 8 | 4 => 8 | 5 => 4 | 6 => 4 | 7 => 8 | 8 => 8 | 9 => 16 | 10 => 16
  | 11 => 32 | 12 => 32 | 13 => 64 | 14 => 16 | 15 => 16 | 16 => 32 | 17 => 32 | 18 => 64 | 19 => 64 | _ => 0

/-- Type class F of R398: codes 9 to 13. -/
def isF (t : Nat) : Bool := 9 ≤ t && t ≤ 13

/-- Type class I of R398: codes 7, 8 and 14 to 19. -/
def isI (t : Nat) : Bool := t = 7 || t = 8 || (14 ≤ t && t ≤ 19)

/-- The types of FADD, FMUL, FFMA and FSET (R66): 9, 10, 12 and 13. -/
def isScalarF (t : Nat) : Bool := t = 9 || t = 10 || t = 12 || t = 13

/-- Size codes of a store: 0 to 3 and 7 (R72). -/
def storeSize (z : Nat) : Bool := z ≤ 3 || z = 7

/-- Bank lease ports e1 to e8 (R176). -/
def isBankPort (n : Nat) : Bool := 1 ≤ n && n ≤ 8

/-- Engine ports e1 to e8 and e15 (R176). -/
def isPort (n : Nat) : Bool := isBankPort n || n = 15

/-- The system-register numbers of R57. -/
def isSysReg (n : Nat) : Bool := n ≤ 0x19 || (0x20 ≤ n && n ≤ 0x2F)

/-- The encoded operand values that the instruction's reference entry lists (R65); for an event row, that its operands name
an agent the package has. -/
def legal (i : Instr) : Bool :=
  match i with
  | .add _ _ _ _ => true
  | .sub _ _ _ _ => true
  | .mul _ _ _ _ => true
  | .mulh _ _ _ _ => true
  | .mulhUi64 _ _ _ _ => true
  | .div _ _ _ _ => true
  | .divUi64 _ _ _ _ => true
  | .rem _ _ _ _ => true
  | .remUi64 _ _ _ _ => true
  | .and _ _ _ _ => true
  | .or _ _ _ _ => true
  | .xor _ _ _ _ => true
  | .shl _ _ _ _ => true
  | .shr _ _ _ _ => true
  | .sar _ _ _ _ => true
  | .min _ _ _ _ => true
  | .minUi64 _ _ _ _ => true
  | .max _ _ _ _ => true
  | .maxUi64 _ _ _ _ => true
  | .clz _ _ _ => true
  | .popc _ _ _ => true
  | .mov _ _ _ => true
  | .mov16 _ _ => true
  | .addi _ _ _ _ => true
  | .addi16 _ _ => true
  | .andi _ _ _ _ => true
  | .seti _ _ _ _ => true
  | .movi _ _ _ => true
  | .movh _ _ _ => true
  | .sel _ _ _ fn _ => fn.toNat ≤ 2
  | .set _ _ _ fn _ => fn.toNat ≤ 5
  | .bfx _ _ _ _ _ => true
  | .bfi _ _ _ _ => true
  | .cbnd _ _ _ _ => true
  | .cprm _ _ _ _ => true
  | .cinc _ _ _ _ => true
  | .cget _ a sel _ => sel.toNat ≤ 4 || (8 ≤ sel.toNat && sel.toNat ≤ 12 && a = 0)
  | .cclr _ _ _ => true
  | .br _ _ => true
  | .br16 _ => true
  | .brb _ _ _ _ _ => true
  | .brc _ _ _ _ _ => true
  | .jr _ _ _ => true
  | .call _ _ => true
  | .callat _ _ b _ _ => b.toNat ≤ 27
  | .nop _ => true
  | .nop16 => true
  | .done _ => true
  | .done16 => true
  | .ret _ => true
  | .ret16 => true
  | .brk _ => true
  | .brk16 => true
  | .eret _ => true
  | .idle _ _ _ => true
  | .tsget _ _ => true
  | .tshor _ _ => true
  | .bpsync _ => true
  | .lret _ => true
  | .start _ _ b _ => b.toNat ≤ 28
  | .hjoin _ _ _ => true
  | .msg _ a _ _ => a.toNat ≤ 28
  | .msgt _ a _ _ => a.toNat ≤ 27
  | .evtick _ _ _ _ => true
  | .binit _ _ _ _ => true
  | .barr _ _ => true
  | .bwait _ _ => true
  | .ld _ _ _ _ _ => true
  | .st _ _ sz _ _ => storeSize sz.toNat
  | .ldg _ _ _ _ _ _ _ => true
  | .stg _ _ sz _ _ _ _ => storeSize sz.toNat
  | .ldv _ _ _ => true
  | .ldvImg _ _ _ => true
  | .ldvStream _ _ t _ => t.toNat ≤ 19
  | .stv _ _ _ => true
  | .stvImg _ _ _ => true
  | .amo _ _ _ op _ _ => op.toNat ≤ 8
  | .cas _ _ _ _ _ => true
  | .gamo _ _ _ _ _ _ => true
  | .gcas _ _ _ _ _ _ => true
  | .red t _ _ op _ => t.toNat ≤ 5 && op.toNat ≤ 5 && (t.toNat ≤ 3 || op.toNat ≤ 2)
  | .fence _ _ => true
  | .send _ _ _ _ _ => true
  | .sends _ _ _ _ _ => true
  | .spread _ _ _ _ _ => true
  | .xget _ _ _ _ _ => true
  | .xput _ _ _ _ _ => true
  | .waitk lo hi _ => !(hi = 0 && lo = 0)
  | .pushe n _ _ => isPort n.toNat
  | .pope _ n _ => isPort n.toNat
  | .blease n _ _ _ _ => isBankPort n.toNat
  | .bfree n _ => isBankPort n.toNat
  | .sbind n _ _ z _ => z.toNat ≤ 9 && n.toNat ≤ 7
  | .sfree n _ => n.toNat ≤ 7
  | .fadd _ _ _ t _ => isScalarF t.toNat
  | .fmul _ _ _ t _ => isScalarF t.toNat
  | .ffma _ _ _ t _ => isScalarF t.toNat
  | .fcvt _ _ ts rnd td _ => (isScalarF td.toNat || (16 ≤ td.toNat && td.toNat ≤ 19 && ts.toNat ≤ 3)) && rnd.toNat ≤ 2
  | .fset _ _ _ t _ => isScalarF t.toNat
  | .vshape rows clo chi t _ => t.toNat ≤ 19 && (rows.toNat + 1) * (chi.toNat * 32 + clo.toNat + 1) * typeBits t.toNat ≤ 4096
  | .vadd _ m0 _ m1 _ m2 t _ => isF t.toNat && !(m1 = 1 && m0 = 1) && m2 = 0 || isI t.toNat && m1 = 0 && m0 = 0
  | .vsub _ m0 _ m1 _ m2 t _ => isF t.toNat && !(m1 = 1 && m0 = 1) && m2 = 0 || isI t.toNat && m1 = 0 && m0 = 0
  | .vmul _ m0 _ m1 _ m2 t _ => isF t.toNat && !(m1 = 1 && m0 = 1) && m2 = 0 || isI t.toNat && m1 = 0 && m0 = 0
  | .vfma _ m0 _ m1 _ m2 t _ => isF t.toNat && !(m1 = 1 && m0 = 1) && m2 = 0 || isI t.toNat && m1 = 0 && m0 = 0
  | .vmin _ _ _ t _ => isF t.toNat || isI t.toNat
  | .vmax _ _ _ t _ => isF t.toNat || isI t.toNat
  | .vabs _ _ m2 t _ => isI t.toNat || isF t.toNat && m2 = 0
  | .vsqrt _ m0 _ m1 t _ => isF t.toNat && !(m1 = 1 && m0 = 1)
  | .vrsq _ m0 _ m1 t _ => isF t.toNat && !(m1 = 1 && m0 = 1)
  | .vexp2 _ m0 _ m1 t _ => isF t.toNat && !(m1 = 1 && m0 = 1)
  | .vrcp _ m0 _ m1 t _ => isF t.toNat && !(m1 = 1 && m0 = 1)
  | .vcvt _ m0 _ m1 ts td _ => td.toNat ≤ 19 && ts.toNat ≤ 19 && !(m1 = 1 && m0 = 1)
  | .vqnt _ m0 _ m1 _ _ t _ => t.toNat ≤ 4 && !(m1 = 1 && m0 = 1)
  | .vdq _ m0 _ m1 _ _ t _ => t.toNat ≤ 4 && !(m1 = 1 && m0 = 1)
  | .vand _ _ _ t _ => t.toNat ≤ 19
  | .vor _ _ _ t _ => t.toNat ≤ 19
  | .vxor _ _ _ t _ => t.toNat ≤ 19
  | .vshl _ _ _ _ t _ => isI t.toNat
  | .vshr _ _ _ t _ => isI t.toNat
  | .vsel _ _ _ t _ => t.toNat ≤ 19
  | .vcmp _ m0 _ m1 _ m2 t _ => (isF t.toNat || isI t.toNat) && m2.toNat * 4 + m1.toNat * 2 + m0.toNat ≤ 5
  | .vred _ m0 _ m1 op axis t _ => axis.toNat ≤ 2 && (isF t.toNat && op.toNat ≤ 2 && (if op = 0 then !(m1 = 1 && m0 = 1) else m1 = 0 && m0 = 0) || isI t.toNat && op.toNat ≤ 5 && m1 = 0 && m0 = 0)
  | .vbcst _ _ t _ => t.toNat ≤ 19
  | .vmov _ _ t _ => t.toNat ≤ 19
  | .vscan _ m0 _ m1 _ m2 t _ => isF t.toNat && !(m1 = 1 && m0 = 1) && m2 = 0 || isI t.toNat && m1 = 0 && m0 = 0
  | .vtrn _ _ t _ => t.toNat ≤ 19
  | .vgath _ _ _ t _ => 7 ≤ t.toNat && t.toNat ≤ 13
  | .lift _ _ _ => true
  | .lidx _ _ t _ => isI t.toNat
  | .lany _ _ t _ => t.toNat ≤ 19
  | .lall _ _ t _ => t.toNat ≤ 19
  | .mlease _ => true
  | .mrel _ => true
  | .mma _ _ _ _ => true
  | .mmas _ _ _ _ _ _ => true
  | .mzero _ _ => true
  | .mrda _ _ _ t _ => 7 ≤ t.toNat && t.toNat ≤ 19
  | .mwra _ _ _ t _ => 7 ≤ t.toNat && t.toNat ≤ 19
  | .tfetch _ _ _ _ => true
  | .tunpin _ _ => true
  | .bpld _ _ es pat _ => pat.toNat ≤ 2 && es.toNat ≤ 2
  | .bpst _ _ es _ => es.toNat ≤ 2
  | .bpadd _ _ _ _ _ => true
  | .bpsub _ _ _ _ _ => true
  | .bpmul _ _ _ _ _ => true
  | .bpmacc _ _ _ _ => true
  | .bpand _ _ _ fn _ => fn.toNat ≤ 4
  | .bpcmp _ _ _ cond _ => cond.toNat ≤ 5
  | .bpsel _ _ _ _ => true
  | .bpset _ _ _ => true
  | .bpcopy _ _ _ _ => true
  | .bpdecay _ _ => true
  | .bprow _ _ _ f _ _ => f.toNat ≤ 7
  | .trstep _ _ _ _ => true
  | .csrr _ i _ => isSysReg i.toNat
  | .csrw _ i _ => isSysReg i.toNat
  | .trap i _ => i.toNat ≤ 1022
  | .trapSeal _ => true
  | .tlbiAll _ => true
  | .tlbiAs _ _ => true
  | .tlbiVa _ _ _ => true
  | .bind _ _ => true
  | .twin _ _ _ => true
  | .untwin _ => true
  | .guardT _ _ => true
  | .guardF _ _ => true
  | .powerOn => true
  | .registerWrite _ _ => true
  | .qsizeWrite _ _ => true
  | .qtailWrite _ _ => true
  | .e15LaunchPush _ => true
  | .flood => true
  | .launchComplete core => core < 1024
  | .messageArrival _ => true
  | .evtickArrival _ => true
  | .callatArrival _ => true
  | .refusalReturn _ => true
  | .deferredFaultEntry core cx => core < 1024 && cx < 11
  | .taskDispatch core => core < 1024
  | .taskCommitBegin core => core < 1024
  | .callatDeposit _ => true
  | .storeBufferDrain core => core < 1024
  | .remoteStoreArrival _ => true
  | .redPerform _ => true
  | .ownedWordTimeout die _ => die < 4
  | .copyPieceStart core _ => core < 1024
  | .copyPieceArrival core _ _ => core < 1024
  | .copyPieceComplete core _ _ => core < 1024
  | .streamDelivery core _ _ => core < 1024
  | .bankLeaseGrant _ => true
  | .mode _ => true
  | .vbw _ => true
  | .vbl _ => true
  | .dot _ => true
  | .wrw _ => true
  | .bankCommandError _ => true
  | .bankLeaseExpiry _ => true
  | .wingDispatchGrant site => site < 1088
  | .matrixLeaseGrant site => site < 1088
  | .matrixLeaseCountEnd site => site < 1088
  | .matrixLeaseIdleTimeout site => site < 1088
  | .arrayOpComplete site _ => site < 1088
  | .tfetchComplete core _ => core < 1024
  | .barrierArrival _ => true
  | .barrierCompletion _ => true
  | .preemptRequest _ _ => true
  | .launchRestore _ => true
  | .debugSingleStep _ core cx => core < 1024 && cx < 11
  | .twinIntervalEnd core => core < 1024
  | .internalUeDetected core => core < 1024
  | .coreTableRemap core px py => core < 1024 && px < 16 && py < 17
  | .clusterSuspect cluster _ _ => cluster < 64
  | .thermalMigration core px py => core < 1024 && px < 16 && py < 17
  | .grantPeriod _ _ => true
  | .throttleStateLower cluster => cluster < 64
  | .pstateHandover cluster => cluster < 64
  | .p5Wake cluster => cluster < 64
  | .diectlWrite _ _ => true
  | .diePark _ => true
  | .pwrlimClear _ => true
  | .l2waysWrite _ _ => true
  | .patrolScrub _ => true
  | .hostMemoryAccess _ _ n _ => n = 1 || n = 2 || n = 4 || n = 8
  | .keyLoad key _ => key ≠ 0
  | .linkLaneFailure _ => true
  | .linkDown _ => true
  | .linkFlitLost _ core _ => core < 1024
  | .timeCorrection _ _ _ => true
  | .firmwareImageCheck _ => true
  | .getVersion => true
  | .getCapabilities => true
  | .negotiateAlgorithms _ _ => true
  | .getDigests => true
  | .getCertificate _ _ => true
  | .challenge _ => true
  | .getMeasurements _ => true
  | .timeReached core cx => core < 1024 && cx < 11
  | .wingOperationComplete site _ => site < 1088
  | .portTrained _ lanes => lanes = 16 || lanes = 8
  | .clusterMarkCleared cluster => cluster < 64
  | .dieUnparkComplete _ => true

end Sys2Proof.Machine
end

