-- ==== Sys2Proof/Decode.lean ====
section
/-! DEFINITION. Decoding and encoding, by the layouts of R63 and R64 and the opcode map of R71 to R73.

The decoder takes bytes and answers the instruction and its length, or refuses by name. It tests every bit that the table fixes;
a field value the instruction's entry does not list is kept and refused by `Machine.legal` (R65), so that ILLOP is raised in one place.
The encoder is written from the same layouts. -/

namespace Sys2Proof

/-- Why bytes are no instruction. -/
inductive DecodeError where
  /-- Fewer bytes than the instruction has. -/
  | truncated
  /-- A 16-bit parcel that R64 does not assign (the all-zero parcel among them). -/
  | unassignedParcel
  /-- An opcode or function code that R71 or R73 leaves out, or a fixed field with another value (R65). -/
  | unassignedWord
deriving DecidableEq, Repr, Inhabited

/-- Bits [lo + n - 1 : lo] of a word. -/
def fld (w lo n : Nat) : BitVec n := BitVec.ofNat n (w / 2 ^ lo)

/-- The same bits as a number, for the fields that select. -/
def fldN (w lo n : Nat) : Nat := w / 2 ^ lo % 2 ^ n

/-- The 16-bit parcels of R64. -/
def decode16 (w : Nat) : Except DecodeError Instr :=
  match fldN w 0 5 with
  | 0x1 => .ok (.br16 (fld w 5 11))
  | 0x4 => .ok (.guardT (fld w 5 5) (fld w 10 6))
  | 0x8 => .ok (.guardF (fld w 5 5) (fld w 10 6))
  | 0xC => if fldN w 15 1 = 0 then .ok (.mov16 (fld w 5 5) (fld w 10 5)) else .error .unassignedParcel
  | 0x10 => .ok (.addi16 (fld w 5 5) (fld w 10 6))
  | 0x14 => if fldN w 5 11 = 0 then .ok .nop16 else if fldN w 5 11 = 1 then .ok .done16 else if fldN w 5 11 = 2 then .ok .ret16 else if fldN w 5 11 = 3 then .ok .brk16 else .error .unassignedParcel
  | _ => .error .unassignedParcel

/-- Opcode 0x00 selects by fn (R73). -/
def decodeAlu (w : Nat) : Except DecodeError Instr :=
  match fldN w 27 5 with
  | 0 => .ok (.add (fld w 12 5) (fld w 17 5) (fld w 22 5) (fld w 2 3))
  | 1 => .ok (.sub (fld w 12 5) (fld w 17 5) (fld w 22 5) (fld w 2 3))
  | 2 => .ok (.mul (fld w 12 5) (fld w 17 5) (fld w 22 5) (fld w 2 3))
  | 3 => .ok (.mulh (fld w 12 5) (fld w 17 5) (fld w 22 5) (fld w 2 3))
  | 4 => .ok (.mulhUi64 (fld w 12 5) (fld w 17 5) (fld w 22 5) (fld w 2 3))
  | 5 => .ok (.div (fld w 12 5) (fld w 17 5) (fld w 22 5) (fld w 2 3))
  | 6 => .ok (.divUi64 (fld w 12 5) (fld w 17 5) (fld w 22 5) (fld w 2 3))
  | 7 => .ok (.rem (fld w 12 5) (fld w 17 5) (fld w 22 5) (fld w 2 3))
  | 8 => .ok (.remUi64 (fld w 12 5) (fld w 17 5) (fld w 22 5) (fld w 2 3))
  | 9 => .ok (.and (fld w 12 5) (fld w 17 5) (fld w 22 5) (fld w 2 3))
  | 10 => .ok (.or (fld w 12 5) (fld w 17 5) (fld w 22 5) (fld w 2 3))
  | 11 => .ok (.xor (fld w 12 5) (fld w 17 5) (fld w 22 5) (fld w 2 3))
  | 12 => .ok (.shl (fld w 12 5) (fld w 17 5) (fld w 22 5) (fld w 2 3))
  | 13 => .ok (.shr (fld w 12 5) (fld w 17 5) (fld w 22 5) (fld w 2 3))
  | 14 => .ok (.sar (fld w 12 5) (fld w 17 5) (fld w 22 5) (fld w 2 3))
  | 15 => .ok (.min (fld w 12 5) (fld w 17 5) (fld w 22 5) (fld w 2 3))
  | 16 => .ok (.minUi64 (fld w 12 5) (fld w 17 5) (fld w 22 5) (fld w 2 3))
  | 17 => .ok (.max (fld w 12 5) (fld w 17 5) (fld w 22 5) (fld w 2 3))
  | 18 => .ok (.maxUi64 (fld w 12 5) (fld w 17 5) (fld w 22 5) (fld w 2 3))
  | 19 => if fldN w 22 5 = 0 then .ok (.clz (fld w 12 5) (fld w 17 5) (fld w 2 3)) else .error .unassignedWord
  | 20 => if fldN w 22 5 = 0 then .ok (.popc (fld w 12 5) (fld w 17 5) (fld w 2 3)) else .error .unassignedWord
  | 21 => if fldN w 22 5 = 0 then .ok (.mov (fld w 12 5) (fld w 17 5) (fld w 2 3)) else .error .unassignedWord
  | _ => .error .unassignedWord

/-- Opcode 0x16 selects by fn (R73). -/
def decodeMisc (w : Nat) : Except DecodeError Instr :=
  match fldN w 27 5 with
  | 0 => if fldN w 12 15 = 0 then .ok (.nop (fld w 2 3)) else .error .unassignedWord
  | 1 => if fldN w 12 15 = 0 then .ok (.done (fld w 2 3)) else .error .unassignedWord
  | 2 => if fldN w 12 15 = 0 then .ok (.ret (fld w 2 3)) else .error .unassignedWord
  | 3 => if fldN w 12 15 = 0 then .ok (.brk (fld w 2 3)) else .error .unassignedWord
  | 4 => if fldN w 12 15 = 0 then .ok (.eret (fld w 2 3)) else .error .unassignedWord
  | 5 => if fldN w 22 5 = 0 then .ok (.idle (fld w 12 5) (fld w 17 5) (fld w 2 3)) else .error .unassignedWord
  | 6 => if fldN w 17 10 = 0 then .ok (.tsget (fld w 12 5) (fld w 2 3)) else .error .unassignedWord
  | 7 => if fldN w 17 10 = 0 then .ok (.tshor (fld w 12 5) (fld w 2 3)) else .error .unassignedWord
  | 8 => if fldN w 12 15 = 0 then .ok (.bpsync (fld w 2 3)) else .error .unassignedWord
  | 9 => if fldN w 12 15 = 0 then .ok (.lret (fld w 2 3)) else .error .unassignedWord
  | _ => .error .unassignedWord

/-- Opcodes 0x00 to 0x0F of R71. -/
def decodeRow0 (w : Nat) : Except DecodeError Instr :=
  match fldN w 5 4 with
  | 0 => decodeAlu w
  | 1 => .ok (.addi (fld w 12 5) (fld w 17 5) (fld w 22 10) (fld w 2 3))
  | 2 => .ok (.andi (fld w 12 5) (fld w 17 5) (fld w 22 10) (fld w 2 3))
  | 3 => .ok (.seti (fld w 12 5) (fld w 17 5) (fld w 22 10) (fld w 2 3))
  | 4 => .ok (.movi (fld w 12 5) (fld w 17 15) (fld w 2 3))
  | 5 => .ok (.movh (fld w 12 5) (fld w 17 15) (fld w 2 3))
  | 6 => .ok (.sel (fld w 12 5) (fld w 17 5) (fld w 22 5) (fld w 27 5) (fld w 2 3))
  | 7 => .ok (.set (fld w 12 5) (fld w 17 5) (fld w 22 5) (fld w 27 5) (fld w 2 3))
  | 8 => if fldN w 28 4 = 0 then .ok (.bfx (fld w 12 5) (fld w 17 5) (fld w 22 5) (fld w 27 1) (fld w 2 3)) else .error .unassignedWord
  | 9 => if fldN w 27 5 = 0 then .ok (.bfi (fld w 12 5) (fld w 17 5) (fld w 22 5) (fld w 2 3)) else .error .unassignedWord
  | 10 => if fldN w 27 5 = 0 then .ok (.cbnd (fld w 12 5) (fld w 17 5) (fld w 22 5) (fld w 2 3)) else .error .unassignedWord
  | 11 => if fldN w 27 5 = 0 then .ok (.cprm (fld w 12 5) (fld w 17 5) (fld w 22 5) (fld w 2 3)) else .error .unassignedWord
  | 12 => if fldN w 27 5 = 0 then .ok (.cinc (fld w 12 5) (fld w 17 5) (fld w 22 5) (fld w 2 3)) else .error .unassignedWord
  | 13 => .ok (.cget (fld w 12 5) (fld w 17 5) (fld w 22 10) (fld w 2 3))
  | 14 => if fldN w 22 10 = 0 then .ok (.cclr (fld w 12 5) (fld w 17 5) (fld w 2 3)) else .error .unassignedWord
  | _ => .error .unassignedWord

/-- Opcodes 0x10 to 0x1F of R71. -/
def decodeRow1 (w : Nat) : Except DecodeError Instr :=
  match fldN w 5 4 with
  | 0 => .ok (.br (fld w 12 20) (fld w 2 3))
  | 1 => .ok (.brb (fld w 12 5) (fld w 17 6) (fld w 23 1) (fld w 24 8) (fld w 2 3))
  | 2 => .ok (.brc (fld w 12 5) (fld w 17 5) (fld w 22 2) (fld w 24 8) (fld w 2 3))
  | 3 => if fldN w 22 10 = 0 then .ok (.jr (fld w 12 5) (fld w 17 5) (fld w 2 3)) else .error .unassignedWord
  | 4 => .ok (.call (fld w 12 20) (fld w 2 3))
  | 5 => if fldN w 30 2 = 0 then .ok (.callat (fld w 12 5) (fld w 17 5) (fld w 22 5) (fld w 27 3) (fld w 2 3)) else .error .unassignedWord
  | 6 => decodeMisc w
  | 7 => if fldN w 27 5 = 0 then .ok (.start (fld w 12 5) (fld w 17 5) (fld w 22 5) (fld w 2 3)) else .error .unassignedWord
  | 8 => if fldN w 22 10 = 0 then .ok (.hjoin (fld w 12 5) (fld w 17 5) (fld w 2 3)) else .error .unassignedWord
  | 9 => .ok (.msg (fld w 12 5) (fld w 17 5) (fld w 22 10) (fld w 2 3))
  | 10 => .ok (.msgt (fld w 12 5) (fld w 17 5) (fld w 22 10) (fld w 2 3))
  | 11 => if fldN w 26 6 = 0 then .ok (.evtick (fld w 12 5) (fld w 17 5) (fld w 22 4) (fld w 2 3)) else .error .unassignedWord
  | 12 => if fldN w 15 2 = 0 ∧ fldN w 27 5 = 0 then .ok (.binit (fld w 12 3) (fld w 17 5) (fld w 22 5) (fld w 2 3)) else .error .unassignedWord
  | 13 => if fldN w 15 17 = 0 then .ok (.barr (fld w 12 3) (fld w 2 3)) else .error .unassignedWord
  | 14 => if fldN w 15 17 = 0 then .ok (.bwait (fld w 12 3) (fld w 2 3)) else .error .unassignedWord
  | _ => .error .unassignedWord

/-- Opcodes 0x20 to 0x2F of R71. -/
def decodeRow2 (w : Nat) : Except DecodeError Instr :=
  match fldN w 5 4 with
  | 0 => .ok (.ld (fld w 12 5) (fld w 17 5) (fld w 22 3) (fld w 25 7) (fld w 2 3))
  | 1 => .ok (.st (fld w 12 5) (fld w 17 5) (fld w 22 3) (fld w 25 7) (fld w 2 3))
  | 2 => .ok (.ldg (fld w 12 5) (fld w 17 5) (fld w 22 3) (fld w 25 1) (fld w 26 2) (fld w 28 4) (fld w 2 3))
  | 3 => .ok (.stg (fld w 12 5) (fld w 17 5) (fld w 22 3) (fld w 25 1) (fld w 26 2) (fld w 28 4) (fld w 2 3))
  | 4 => if fldN w 16 1 = 0 ∧ fldN w 21 11 = 0 then .ok (.ldv (fld w 12 4) (fld w 17 4) (fld w 2 3)) else if fldN w 21 11 = 16 then .ok (.ldvImg (fld w 12 5) (fld w 17 4) (fld w 2 3)) else if fldN w 16 1 = 0 ∧ fldN w 20 7 = 64 then .ok (.ldvStream (fld w 12 4) (fld w 17 3) (fld w 27 5) (fld w 2 3)) else .error .unassignedWord
  | 5 => if fldN w 16 1 = 0 ∧ fldN w 21 11 = 0 then .ok (.stv (fld w 12 4) (fld w 17 4) (fld w 2 3)) else if fldN w 21 11 = 16 then .ok (.stvImg (fld w 12 5) (fld w 17 4) (fld w 2 3)) else .error .unassignedWord
  | 6 => .ok (.amo (fld w 12 5) (fld w 17 5) (fld w 22 5) (fld w 27 4) (fld w 31 1) (fld w 2 3))
  | 7 => if fldN w 27 4 = 0 then .ok (.cas (fld w 12 5) (fld w 17 5) (fld w 22 5) (fld w 31 1) (fld w 2 3)) else .error .unassignedWord
  | 8 => .ok (.gamo (fld w 12 5) (fld w 17 5) (fld w 22 5) (fld w 27 3) (fld w 30 2) (fld w 2 3))
  | 9 => if fldN w 27 2 = 0 then .ok (.gcas (fld w 12 5) (fld w 17 5) (fld w 22 5) (fld w 29 1) (fld w 30 2) (fld w 2 3)) else .error .unassignedWord
  | 10 => if fldN w 15 2 = 0 ∧ fldN w 30 2 = 0 then .ok (.red (fld w 12 3) (fld w 17 5) (fld w 22 5) (fld w 27 3) (fld w 2 3)) else .error .unassignedWord
  | 11 => if fldN w 12 15 = 0 ∧ fldN w 29 3 = 0 then .ok (.fence (fld w 27 2) (fld w 2 3)) else .error .unassignedWord
  | 12 => if fldN w 30 2 = 0 then .ok (.send (fld w 12 5) (fld w 17 5) (fld w 22 5) (fld w 27 3) (fld w 2 3)) else .error .unassignedWord
  | 13 => if fldN w 30 2 = 0 then .ok (.sends (fld w 12 5) (fld w 17 5) (fld w 22 5) (fld w 27 3) (fld w 2 3)) else .error .unassignedWord
  | 14 => if fldN w 30 2 = 0 then .ok (.spread (fld w 12 5) (fld w 17 5) (fld w 22 5) (fld w 27 3) (fld w 2 3)) else .error .unassignedWord
  | 15 => if fldN w 30 2 = 0 then .ok (.xget (fld w 12 5) (fld w 17 5) (fld w 22 5) (fld w 27 3) (fld w 2 3)) else .error .unassignedWord
  | _ => .error .unassignedWord

/-- Opcodes 0x30 to 0x3F of R71. -/
def decodeRow3 (w : Nat) : Except DecodeError Instr :=
  match fldN w 5 4 with
  | 0 => if fldN w 30 2 = 0 then .ok (.xput (fld w 12 5) (fld w 17 5) (fld w 22 5) (fld w 27 3) (fld w 2 3)) else .error .unassignedWord
  | 1 => if fldN w 20 12 = 0 then .ok (.waitk (fld w 12 5) (fld w 17 3) (fld w 2 3)) else .error .unassignedWord
  | 2 => if fldN w 22 10 = 0 then .ok (.pushe (fld w 12 5) (fld w 17 5) (fld w 2 3)) else .error .unassignedWord
  | 3 => if fldN w 22 10 = 0 then .ok (.pope (fld w 12 5) (fld w 17 5) (fld w 2 3)) else .error .unassignedWord
  | 4 => if fldN w 28 4 = 0 then .ok (.blease (fld w 12 5) (fld w 17 5) (fld w 22 5) (fld w 27 1) (fld w 2 3)) else .error .unassignedWord
  | 5 => if fldN w 17 15 = 0 then .ok (.bfree (fld w 12 5) (fld w 2 3)) else .error .unassignedWord
  | 6 => if fldN w 31 1 = 0 then .ok (.sbind (fld w 12 5) (fld w 17 5) (fld w 22 5) (fld w 27 4) (fld w 2 3)) else .error .unassignedWord
  | 7 => if fldN w 17 15 = 0 then .ok (.sfree (fld w 12 5) (fld w 2 3)) else .error .unassignedWord
  | 8 => .ok (.fadd (fld w 12 5) (fld w 17 5) (fld w 22 5) (fld w 27 5) (fld w 2 3))
  | 9 => .ok (.fmul (fld w 12 5) (fld w 17 5) (fld w 22 5) (fld w 27 5) (fld w 2 3))
  | 10 => .ok (.ffma (fld w 12 5) (fld w 17 5) (fld w 22 5) (fld w 27 5) (fld w 2 3))
  | 11 => .ok (.fcvt (fld w 12 5) (fld w 17 5) (fld w 22 3) (fld w 25 2) (fld w 27 5) (fld w 2 3))
  | 12 => .ok (.fset (fld w 12 5) (fld w 17 5) (fld w 22 5) (fld w 27 5) (fld w 2 3))
  | _ => .error .unassignedWord

/-- Opcodes 0x40 to 0x4F of R71. -/
def decodeRow4 (w : Nat) : Except DecodeError Instr :=
  match fldN w 5 4 with
  | 0 => if fldN w 16 1 = 0 ∧ fldN w 23 4 = 0 then .ok (.vshape (fld w 12 4) (fld w 17 5) (fld w 22 1) (fld w 27 5) (fld w 2 3)) else .error .unassignedWord
  | 1 => .ok (.vadd (fld w 12 4) (fld w 16 1) (fld w 17 4) (fld w 21 1) (fld w 22 4) (fld w 26 1) (fld w 27 5) (fld w 2 3))
  | 2 => .ok (.vsub (fld w 12 4) (fld w 16 1) (fld w 17 4) (fld w 21 1) (fld w 22 4) (fld w 26 1) (fld w 27 5) (fld w 2 3))
  | 3 => .ok (.vmul (fld w 12 4) (fld w 16 1) (fld w 17 4) (fld w 21 1) (fld w 22 4) (fld w 26 1) (fld w 27 5) (fld w 2 3))
  | 4 => .ok (.vfma (fld w 12 4) (fld w 16 1) (fld w 17 4) (fld w 21 1) (fld w 22 4) (fld w 26 1) (fld w 27 5) (fld w 2 3))
  | 5 => if fldN w 16 1 = 0 ∧ fldN w 21 1 = 0 ∧ fldN w 26 1 = 0 then .ok (.vmin (fld w 12 4) (fld w 17 4) (fld w 22 4) (fld w 27 5) (fld w 2 3)) else .error .unassignedWord
  | 6 => if fldN w 16 1 = 0 ∧ fldN w 21 1 = 0 ∧ fldN w 26 1 = 0 then .ok (.vmax (fld w 12 4) (fld w 17 4) (fld w 22 4) (fld w 27 5) (fld w 2 3)) else .error .unassignedWord
  | 7 => if fldN w 16 1 = 0 ∧ fldN w 21 5 = 0 then .ok (.vabs (fld w 12 4) (fld w 17 4) (fld w 26 1) (fld w 27 5) (fld w 2 3)) else .error .unassignedWord
  | 8 => if fldN w 22 5 = 0 then .ok (.vsqrt (fld w 12 4) (fld w 16 1) (fld w 17 4) (fld w 21 1) (fld w 27 5) (fld w 2 3)) else .error .unassignedWord
  | 9 => if fldN w 22 5 = 0 then .ok (.vrsq (fld w 12 4) (fld w 16 1) (fld w 17 4) (fld w 21 1) (fld w 27 5) (fld w 2 3)) else .error .unassignedWord
  | 10 => if fldN w 22 5 = 0 then .ok (.vexp2 (fld w 12 4) (fld w 16 1) (fld w 17 4) (fld w 21 1) (fld w 27 5) (fld w 2 3)) else .error .unassignedWord
  | 11 => if fldN w 22 5 = 0 then .ok (.vrcp (fld w 12 4) (fld w 16 1) (fld w 17 4) (fld w 21 1) (fld w 27 5) (fld w 2 3)) else .error .unassignedWord
  | 12 => .ok (.vcvt (fld w 12 4) (fld w 16 1) (fld w 17 4) (fld w 21 1) (fld w 22 5) (fld w 27 5) (fld w 2 3))
  | 13 => .ok (.vqnt (fld w 12 4) (fld w 16 1) (fld w 17 4) (fld w 21 1) (fld w 22 4) (fld w 26 1) (fld w 27 5) (fld w 2 3))
  | 14 => .ok (.vdq (fld w 12 4) (fld w 16 1) (fld w 17 4) (fld w 21 1) (fld w 22 4) (fld w 26 1) (fld w 27 5) (fld w 2 3))
  | 15 => if fldN w 16 1 = 0 ∧ fldN w 21 1 = 0 ∧ fldN w 26 1 = 0 then .ok (.vand (fld w 12 4) (fld w 17 4) (fld w 22 4) (fld w 27 5) (fld w 2 3)) else .error .unassignedWord
  | _ => .error .unassignedWord

/-- Opcodes 0x50 to 0x5F of R71. -/
def decodeRow5 (w : Nat) : Except DecodeError Instr :=
  match fldN w 5 4 with
  | 0 => if fldN w 16 1 = 0 ∧ fldN w 21 1 = 0 ∧ fldN w 26 1 = 0 then .ok (.vor (fld w 12 4) (fld w 17 4) (fld w 22 4) (fld w 27 5) (fld w 2 3)) else .error .unassignedWord
  | 1 => if fldN w 16 1 = 0 ∧ fldN w 21 1 = 0 ∧ fldN w 26 1 = 0 then .ok (.vxor (fld w 12 4) (fld w 17 4) (fld w 22 4) (fld w 27 5) (fld w 2 3)) else .error .unassignedWord
  | 2 => if fldN w 16 1 = 0 ∧ fldN w 21 1 = 0 then .ok (.vshl (fld w 12 4) (fld w 17 4) (fld w 22 4) (fld w 26 1) (fld w 27 5) (fld w 2 3)) else .error .unassignedWord
  | 3 => if fldN w 16 1 = 0 ∧ fldN w 21 1 = 0 ∧ fldN w 26 1 = 0 then .ok (.vshr (fld w 12 4) (fld w 17 4) (fld w 22 4) (fld w 27 5) (fld w 2 3)) else .error .unassignedWord
  | 4 => if fldN w 16 1 = 0 ∧ fldN w 21 1 = 0 ∧ fldN w 26 1 = 0 then .ok (.vsel (fld w 12 4) (fld w 17 4) (fld w 22 4) (fld w 27 5) (fld w 2 3)) else .error .unassignedWord
  | 5 => .ok (.vcmp (fld w 12 4) (fld w 16 1) (fld w 17 4) (fld w 21 1) (fld w 22 4) (fld w 26 1) (fld w 27 5) (fld w 2 3))
  | 6 => .ok (.vred (fld w 12 4) (fld w 16 1) (fld w 17 4) (fld w 21 1) (fld w 22 3) (fld w 25 2) (fld w 27 5) (fld w 2 3))
  | 7 => if fldN w 16 1 = 0 ∧ fldN w 22 5 = 0 then .ok (.vbcst (fld w 12 4) (fld w 17 5) (fld w 27 5) (fld w 2 3)) else .error .unassignedWord
  | 8 => if fldN w 16 1 = 0 ∧ fldN w 21 6 = 0 then .ok (.vmov (fld w 12 4) (fld w 17 4) (fld w 27 5) (fld w 2 3)) else .error .unassignedWord
  | 9 => .ok (.vscan (fld w 12 4) (fld w 16 1) (fld w 17 4) (fld w 21 1) (fld w 22 4) (fld w 26 1) (fld w 27 5) (fld w 2 3))
  | 10 => if fldN w 16 1 = 0 ∧ fldN w 21 6 = 0 then .ok (.vtrn (fld w 12 4) (fld w 17 4) (fld w 27 5) (fld w 2 3)) else .error .unassignedWord
  | 11 => if fldN w 16 1 = 0 ∧ fldN w 21 1 = 0 ∧ fldN w 26 1 = 0 then .ok (.vgath (fld w 12 4) (fld w 17 4) (fld w 22 4) (fld w 27 5) (fld w 2 3)) else .error .unassignedWord
  | 12 => if fldN w 12 5 = 0 ∧ fldN w 27 5 = 0 then .ok (.lift (fld w 17 5) (fld w 22 5) (fld w 2 3)) else .error .unassignedWord
  | 13 => if fldN w 16 1 = 0 ∧ fldN w 22 5 = 0 then .ok (.lidx (fld w 12 4) (fld w 17 5) (fld w 27 5) (fld w 2 3)) else .error .unassignedWord
  | 14 => if fldN w 21 6 = 0 then .ok (.lany (fld w 12 5) (fld w 17 4) (fld w 27 5) (fld w 2 3)) else .error .unassignedWord
  | 15 => if fldN w 21 6 = 0 then .ok (.lall (fld w 12 5) (fld w 17 4) (fld w 27 5) (fld w 2 3)) else .error .unassignedWord
  | _ => .error .unassignedWord

/-- Opcodes 0x60 to 0x6F of R71. -/
def decodeRow6 (w : Nat) : Except DecodeError Instr :=
  match fldN w 5 4 with
  | 0 => if fldN w 12 20 = 0 then .ok (.mlease (fld w 2 3)) else .error .unassignedWord
  | 1 => if fldN w 12 20 = 0 then .ok (.mrel (fld w 2 3)) else .error .unassignedWord
  | 2 => if fldN w 15 2 = 0 ∧ fldN w 25 7 = 0 then .ok (.mma (fld w 12 3) (fld w 17 4) (fld w 21 4) (fld w 2 3)) else .error .unassignedWord
  | 3 => .ok (.mmas (fld w 12 3) (fld w 15 2) (fld w 17 4) (fld w 21 4) (fld w 25 7) (fld w 2 3))
  | 4 => if fldN w 15 17 = 0 then .ok (.mzero (fld w 12 3) (fld w 2 3)) else .error .unassignedWord
  | 5 => if fldN w 16 1 = 0 ∧ fldN w 20 2 = 0 then .ok (.mrda (fld w 12 4) (fld w 17 3) (fld w 22 5) (fld w 27 5) (fld w 2 3)) else .error .unassignedWord
  | 6 => if fldN w 15 2 = 0 ∧ fldN w 21 1 = 0 then .ok (.mwra (fld w 12 3) (fld w 17 4) (fld w 22 5) (fld w 27 5) (fld w 2 3)) else .error .unassignedWord
  | 7 => if fldN w 15 2 = 0 ∧ fldN w 24 8 = 0 then .ok (.tfetch (fld w 12 3) (fld w 17 4) (fld w 21 3) (fld w 2 3)) else .error .unassignedWord
  | 8 => if fldN w 15 17 = 0 then .ok (.tunpin (fld w 12 3) (fld w 2 3)) else .error .unassignedWord
  | 9 => if fldN w 21 4 = 0 ∧ fldN w 30 2 = 0 then .ok (.bpld (fld w 12 5) (fld w 17 4) (fld w 25 2) (fld w 27 3) (fld w 2 3)) else .error .unassignedWord
  | 10 => if fldN w 21 4 = 0 ∧ fldN w 27 5 = 0 then .ok (.bpst (fld w 12 5) (fld w 17 4) (fld w 25 2) (fld w 2 3)) else .error .unassignedWord
  | 11 => if fldN w 28 4 = 0 then .ok (.bpadd (fld w 12 5) (fld w 17 5) (fld w 22 5) (fld w 27 1) (fld w 2 3)) else .error .unassignedWord
  | 12 => if fldN w 28 4 = 0 then .ok (.bpsub (fld w 12 5) (fld w 17 5) (fld w 22 5) (fld w 27 1) (fld w 2 3)) else .error .unassignedWord
  | 13 => if fldN w 28 4 = 0 then .ok (.bpmul (fld w 12 5) (fld w 17 5) (fld w 22 5) (fld w 27 1) (fld w 2 3)) else .error .unassignedWord
  | 14 => if fldN w 27 5 = 0 then .ok (.bpmacc (fld w 12 5) (fld w 17 5) (fld w 22 5) (fld w 2 3)) else .error .unassignedWord
  | 15 => if fldN w 30 2 = 0 then .ok (.bpand (fld w 12 5) (fld w 17 5) (fld w 22 5) (fld w 27 3) (fld w 2 3)) else .error .unassignedWord
  | _ => .error .unassignedWord

/-- Opcodes 0x70 to 0x7F of R71. -/
def decodeRow7 (w : Nat) : Except DecodeError Instr :=
  match fldN w 5 4 with
  | 0 => if fldN w 30 2 = 0 then .ok (.bpcmp (fld w 12 5) (fld w 17 5) (fld w 22 5) (fld w 27 3) (fld w 2 3)) else .error .unassignedWord
  | 1 => if fldN w 27 5 = 0 then .ok (.bpsel (fld w 12 5) (fld w 17 5) (fld w 22 5) (fld w 2 3)) else .error .unassignedWord
  | 2 => if fldN w 17 5 = 0 ∧ fldN w 27 5 = 0 then .ok (.bpset (fld w 12 5) (fld w 22 5) (fld w 2 3)) else .error .unassignedWord
  | 3 => if fldN w 22 5 = 0 ∧ fldN w 28 4 = 0 then .ok (.bpcopy (fld w 12 5) (fld w 17 5) (fld w 27 1) (fld w 2 3)) else .error .unassignedWord
  | 4 => if fldN w 17 15 = 0 then .ok (.bpdecay (fld w 12 5) (fld w 2 3)) else .error .unassignedWord
  | 5 => .ok (.bprow (fld w 12 5) (fld w 17 5) (fld w 22 5) (fld w 27 4) (fld w 31 1) (fld w 2 3))
  | 6 => if fldN w 27 5 = 0 then .ok (.trstep (fld w 12 5) (fld w 17 5) (fld w 22 5) (fld w 2 3)) else .error .unassignedWord
  | 7 => if fldN w 17 5 = 0 then .ok (.csrr (fld w 12 5) (fld w 22 10) (fld w 2 3)) else .error .unassignedWord
  | 8 => if fldN w 12 5 = 0 then .ok (.csrw (fld w 17 5) (fld w 22 10) (fld w 2 3)) else .error .unassignedWord
  | 9 => if fldN w 12 20 = 1047552 then .ok (.trapSeal (fld w 2 3)) else if fldN w 12 10 = 0 then .ok (.trap (fld w 22 10) (fld w 2 3)) else .error .unassignedWord
  | 10 => if fldN w 12 20 = 0 then .ok (.tlbiAll (fld w 2 3)) else if fldN w 12 5 = 0 ∧ fldN w 22 10 = 32 then .ok (.tlbiAs (fld w 17 5) (fld w 2 3)) else if fldN w 12 5 = 0 ∧ fldN w 27 5 = 2 then .ok (.tlbiVa (fld w 17 5) (fld w 22 5) (fld w 2 3)) else .error .unassignedWord
  | 11 => if fldN w 12 5 = 0 ∧ fldN w 22 10 = 0 then .ok (.bind (fld w 17 5) (fld w 2 3)) else .error .unassignedWord
  | 12 => if fldN w 22 10 = 0 then .ok (.twin (fld w 12 5) (fld w 17 5) (fld w 2 3)) else .error .unassignedWord
  | 13 => if fldN w 12 20 = 0 then .ok (.untwin (fld w 2 3)) else .error .unassignedWord
  | _ => .error .unassignedWord

/-- A 32-bit word (R63), by its opcode. -/
def decode32 (w : Nat) : Except DecodeError Instr :=
  match fldN w 9 3 with
  | 0 => decodeRow0 w
  | 1 => decodeRow1 w
  | 2 => decodeRow2 w
  | 3 => decodeRow3 w
  | 4 => decodeRow4 w
  | 5 => decodeRow5 w
  | 6 => decodeRow6 w
  | _ => decodeRow7 w

/-- Two bytes as a parcel, little-endian (R2). -/
def parcel (b0 b1 : Byte) : Nat := b0.toNat + 256 * b1.toNat

/-- A parcel whose bits [1:0] are 11 is the low parcel of a 32-bit instruction (R62). -/
def isLong (p : Nat) : Bool := p % 4 = 3

/-- The instruction at the head of a byte list, and its length in bytes. Total: bytes that are no instruction are refused by name. -/
def decode (bytes : List Byte) : Except DecodeError (Instr × Nat) :=
  match bytes with
  | b0 :: b1 :: rest =>
    if isLong (parcel b0 b1) then
      match rest with
      | b2 :: b3 :: _ => (decode32 (parcel b0 b1 + 65536 * parcel b2 b3)).map (·, 4)
      | _ => .error .truncated
    else (decode16 (parcel b0 b1)).map (·, 2)
  | _ => .error .truncated

/-- The word of an RRR-like 32-bit instruction from its fixed bits; every operand field is added at its place. -/
def put (lo : Nat) {n : Nat} (v : BitVec n) : Nat := v.toNat * 2 ^ lo

/-- The instruction's word as a number and its length in bytes (R63, R64, the table); an event row has no word. -/
def encode (i : Instr) : Option (Nat × Nat) :=
  match i with
  | .add d a b y => some (0x3 + put 12 d + put 17 a + put 22 b + put 2 y, 4)
  | .sub d a b y => some (0x8000003 + put 12 d + put 17 a + put 22 b + put 2 y, 4)
  | .mul d a b y => some (0x10000003 + put 12 d + put 17 a + put 22 b + put 2 y, 4)
  | .mulh d a b y => some (0x18000003 + put 12 d + put 17 a + put 22 b + put 2 y, 4)
  | .mulhUi64 d a b y => some (0x20000003 + put 12 d + put 17 a + put 22 b + put 2 y, 4)
  | .div d a b y => some (0x28000003 + put 12 d + put 17 a + put 22 b + put 2 y, 4)
  | .divUi64 d a b y => some (0x30000003 + put 12 d + put 17 a + put 22 b + put 2 y, 4)
  | .rem d a b y => some (0x38000003 + put 12 d + put 17 a + put 22 b + put 2 y, 4)
  | .remUi64 d a b y => some (0x40000003 + put 12 d + put 17 a + put 22 b + put 2 y, 4)
  | .and d a b y => some (0x48000003 + put 12 d + put 17 a + put 22 b + put 2 y, 4)
  | .or d a b y => some (0x50000003 + put 12 d + put 17 a + put 22 b + put 2 y, 4)
  | .xor d a b y => some (0x58000003 + put 12 d + put 17 a + put 22 b + put 2 y, 4)
  | .shl d a b y => some (0x60000003 + put 12 d + put 17 a + put 22 b + put 2 y, 4)
  | .shr d a b y => some (0x68000003 + put 12 d + put 17 a + put 22 b + put 2 y, 4)
  | .sar d a b y => some (0x70000003 + put 12 d + put 17 a + put 22 b + put 2 y, 4)
  | .min d a b y => some (0x78000003 + put 12 d + put 17 a + put 22 b + put 2 y, 4)
  | .minUi64 d a b y => some (0x80000003 + put 12 d + put 17 a + put 22 b + put 2 y, 4)
  | .max d a b y => some (0x88000003 + put 12 d + put 17 a + put 22 b + put 2 y, 4)
  | .maxUi64 d a b y => some (0x90000003 + put 12 d + put 17 a + put 22 b + put 2 y, 4)
  | .clz d a y => some (0x98000003 + put 12 d + put 17 a + put 2 y, 4)
  | .popc d a y => some (0xA0000003 + put 12 d + put 17 a + put 2 y, 4)
  | .mov d a y => some (0xA8000003 + put 12 d + put 17 a + put 2 y, 4)
  | .mov16 d a => some (0xC + put 5 d + put 10 a, 2)
  | .addi d a i y => some (0x23 + put 12 d + put 17 a + put 22 i + put 2 y, 4)
  | .addi16 d i => some (0x10 + put 5 d + put 10 i, 2)
  | .andi d a i y => some (0x43 + put 12 d + put 17 a + put 22 i + put 2 y, 4)
  | .seti d a i y => some (0x63 + put 12 d + put 17 a + put 22 i + put 2 y, 4)
  | .movi d i y => some (0x83 + put 12 d + put 17 i + put 2 y, 4)
  | .movh d i y => some (0xA3 + put 12 d + put 17 i + put 2 y, 4)
  | .sel d a b fn y => some (0xC3 + put 12 d + put 17 a + put 22 b + put 27 fn + put 2 y, 4)
  | .set d a b fn y => some (0xE3 + put 12 d + put 17 a + put 22 b + put 27 fn + put 2 y, 4)
  | .bfx d a b sg y => some (0x103 + put 12 d + put 17 a + put 22 b + put 27 sg + put 2 y, 4)
  | .bfi d a b y => some (0x123 + put 12 d + put 17 a + put 22 b + put 2 y, 4)
  | .cbnd d a b y => some (0x143 + put 12 d + put 17 a + put 22 b + put 2 y, 4)
  | .cprm d a b y => some (0x163 + put 12 d + put 17 a + put 22 b + put 2 y, 4)
  | .cinc d a b y => some (0x183 + put 12 d + put 17 a + put 22 b + put 2 y, 4)
  | .cget d a sel y => some (0x1A3 + put 12 d + put 17 a + put 22 sel + put 2 y, 4)
  | .cclr d a y => some (0x1C3 + put 12 d + put 17 a + put 2 y, 4)
  | .br off y => some (0x203 + put 12 off + put 2 y, 4)
  | .br16 off => some (0x1 + put 5 off, 2)
  | .brb a bit sense off y => some (0x223 + put 12 a + put 17 bit + put 23 sense + put 24 off + put 2 y, 4)
  | .brc a b cond off y => some (0x243 + put 12 a + put 17 b + put 22 cond + put 24 off + put 2 y, 4)
  | .jr d a y => some (0x263 + put 12 d + put 17 a + put 2 y, 4)
  | .call off y => some (0x283 + put 12 off + put 2 y, 4)
  | .callat d a b k y => some (0x2A3 + put 12 d + put 17 a + put 22 b + put 27 k + put 2 y, 4)
  | .nop y => some (0x2C3 + put 2 y, 4)
  | .nop16 => some (0x14, 2)
  | .done y => some (0x80002C3 + put 2 y, 4)
  | .done16 => some (0x34, 2)
  | .ret y => some (0x100002C3 + put 2 y, 4)
  | .ret16 => some (0x54, 2)
  | .brk y => some (0x180002C3 + put 2 y, 4)
  | .brk16 => some (0x74, 2)
  | .eret y => some (0x200002C3 + put 2 y, 4)
  | .idle d a y => some (0x280002C3 + put 12 d + put 17 a + put 2 y, 4)
  | .tsget d y => some (0x300002C3 + put 12 d + put 2 y, 4)
  | .tshor d y => some (0x380002C3 + put 12 d + put 2 y, 4)
  | .bpsync y => some (0x400002C3 + put 2 y, 4)
  | .lret y => some (0x480002C3 + put 2 y, 4)
  | .start d a b y => some (0x2E3 + put 12 d + put 17 a + put 22 b + put 2 y, 4)
  | .hjoin d a y => some (0x303 + put 12 d + put 17 a + put 2 y, 4)
  | .msg d a i y => some (0x323 + put 12 d + put 17 a + put 22 i + put 2 y, 4)
  | .msgt d a i y => some (0x343 + put 12 d + put 17 a + put 22 i + put 2 y, 4)
  | .evtick d a chn y => some (0x363 + put 12 d + put 17 a + put 22 chn + put 2 y, 4)
  | .binit n a b y => some (0x383 + put 12 n + put 17 a + put 22 b + put 2 y, 4)
  | .barr n y => some (0x3A3 + put 12 n + put 2 y, 4)
  | .bwait n y => some (0x3C3 + put 12 n + put 2 y, 4)
  | .ld d a sz off y => some (0x403 + put 12 d + put 17 a + put 22 sz + put 25 off + put 2 y, 4)
  | .st d a sz off y => some (0x423 + put 12 d + put 17 a + put 22 sz + put 25 off + put 2 y, 4)
  | .ldg d a sz acq sc off y => some (0x443 + put 12 d + put 17 a + put 22 sz + put 25 acq + put 26 sc + put 28 off + put 2 y, 4)
  | .stg d a sz rel sc off y => some (0x463 + put 12 d + put 17 a + put 22 sz + put 25 rel + put 26 sc + put 28 off + put 2 y, 4)
  | .ldv d m y => some (0x483 + put 12 d + put 17 m + put 2 y, 4)
  | .ldvImg d m y => some (0x2000483 + put 12 d + put 17 m + put 2 y, 4)
  | .ldvStream d n t y => some (0x4000483 + put 12 d + put 17 n + put 27 t + put 2 y, 4)
  | .stv d m y => some (0x4A3 + put 12 d + put 17 m + put 2 y, 4)
  | .stvImg d m y => some (0x20004A3 + put 12 d + put 17 m + put 2 y, 4)
  | .amo d a b op w64 y => some (0x4C3 + put 12 d + put 17 a + put 22 b + put 27 op + put 31 w64 + put 2 y, 4)
  | .cas d a b w64 y => some (0x4E3 + put 12 d + put 17 a + put 22 b + put 31 w64 + put 2 y, 4)
  | .gamo d a b op sc y => some (0x503 + put 12 d + put 17 a + put 22 b + put 27 op + put 30 sc + put 2 y, 4)
  | .gcas d a b w64 sc y => some (0x523 + put 12 d + put 17 a + put 22 b + put 29 w64 + put 30 sc + put 2 y, 4)
  | .red t a b op y => some (0x543 + put 12 t + put 17 a + put 22 b + put 27 op + put 2 y, 4)
  | .fence sc y => some (0x563 + put 27 sc + put 2 y, 4)
  | .send d a b k y => some (0x583 + put 12 d + put 17 a + put 22 b + put 27 k + put 2 y, 4)
  | .sends d a b k y => some (0x5A3 + put 12 d + put 17 a + put 22 b + put 27 k + put 2 y, 4)
  | .spread d a b k y => some (0x5C3 + put 12 d + put 17 a + put 22 b + put 27 k + put 2 y, 4)
  | .xget d a b k y => some (0x5E3 + put 12 d + put 17 a + put 22 b + put 27 k + put 2 y, 4)
  | .xput d a b k y => some (0x603 + put 12 d + put 17 a + put 22 b + put 27 k + put 2 y, 4)
  | .waitk lo hi y => some (0x623 + put 12 lo + put 17 hi + put 2 y, 4)
  | .pushe n a y => some (0x643 + put 12 n + put 17 a + put 2 y, 4)
  | .pope d n y => some (0x663 + put 12 d + put 17 n + put 2 y, 4)
  | .blease n a b all y => some (0x683 + put 12 n + put 17 a + put 22 b + put 27 all + put 2 y, 4)
  | .bfree n y => some (0x6A3 + put 12 n + put 2 y, 4)
  | .sbind n a b z y => some (0x6C3 + put 12 n + put 17 a + put 22 b + put 27 z + put 2 y, 4)
  | .sfree n y => some (0x6E3 + put 12 n + put 2 y, 4)
  | .fadd d a b t y => some (0x703 + put 12 d + put 17 a + put 22 b + put 27 t + put 2 y, 4)
  | .fmul d a b t y => some (0x723 + put 12 d + put 17 a + put 22 b + put 27 t + put 2 y, 4)
  | .ffma d a b t y => some (0x743 + put 12 d + put 17 a + put 22 b + put 27 t + put 2 y, 4)
  | .fcvt d a ts rnd td y => some (0x763 + put 12 d + put 17 a + put 22 ts + put 25 rnd + put 27 td + put 2 y, 4)
  | .fset d a b t y => some (0x783 + put 12 d + put 17 a + put 22 b + put 27 t + put 2 y, 4)
  | .vshape rows clo chi t y => some (0x803 + put 12 rows + put 17 clo + put 22 chi + put 27 t + put 2 y, 4)
  | .vadd d m0 a m1 b m2 t y => some (0x823 + put 12 d + put 16 m0 + put 17 a + put 21 m1 + put 22 b + put 26 m2 + put 27 t + put 2 y, 4)
  | .vsub d m0 a m1 b m2 t y => some (0x843 + put 12 d + put 16 m0 + put 17 a + put 21 m1 + put 22 b + put 26 m2 + put 27 t + put 2 y, 4)
  | .vmul d m0 a m1 b m2 t y => some (0x863 + put 12 d + put 16 m0 + put 17 a + put 21 m1 + put 22 b + put 26 m2 + put 27 t + put 2 y, 4)
  | .vfma d m0 a m1 b m2 t y => some (0x883 + put 12 d + put 16 m0 + put 17 a + put 21 m1 + put 22 b + put 26 m2 + put 27 t + put 2 y, 4)
  | .vmin d a b t y => some (0x8A3 + put 12 d + put 17 a + put 22 b + put 27 t + put 2 y, 4)
  | .vmax d a b t y => some (0x8C3 + put 12 d + put 17 a + put 22 b + put 27 t + put 2 y, 4)
  | .vabs d a m2 t y => some (0x8E3 + put 12 d + put 17 a + put 26 m2 + put 27 t + put 2 y, 4)
  | .vsqrt d m0 a m1 t y => some (0x903 + put 12 d + put 16 m0 + put 17 a + put 21 m1 + put 27 t + put 2 y, 4)
  | .vrsq d m0 a m1 t y => some (0x923 + put 12 d + put 16 m0 + put 17 a + put 21 m1 + put 27 t + put 2 y, 4)
  | .vexp2 d m0 a m1 t y => some (0x943 + put 12 d + put 16 m0 + put 17 a + put 21 m1 + put 27 t + put 2 y, 4)
  | .vrcp d m0 a m1 t y => some (0x963 + put 12 d + put 16 m0 + put 17 a + put 21 m1 + put 27 t + put 2 y, 4)
  | .vcvt d m0 a m1 ts td y => some (0x983 + put 12 d + put 16 m0 + put 17 a + put 21 m1 + put 22 ts + put 27 td + put 2 y, 4)
  | .vqnt d m0 a m1 b m2 t y => some (0x9A3 + put 12 d + put 16 m0 + put 17 a + put 21 m1 + put 22 b + put 26 m2 + put 27 t + put 2 y, 4)
  | .vdq d m0 a m1 b m2 t y => some (0x9C3 + put 12 d + put 16 m0 + put 17 a + put 21 m1 + put 22 b + put 26 m2 + put 27 t + put 2 y, 4)
  | .vand d a b t y => some (0x9E3 + put 12 d + put 17 a + put 22 b + put 27 t + put 2 y, 4)
  | .vor d a b t y => some (0xA03 + put 12 d + put 17 a + put 22 b + put 27 t + put 2 y, 4)
  | .vxor d a b t y => some (0xA23 + put 12 d + put 17 a + put 22 b + put 27 t + put 2 y, 4)
  | .vshl d a b m2 t y => some (0xA43 + put 12 d + put 17 a + put 22 b + put 26 m2 + put 27 t + put 2 y, 4)
  | .vshr d a b t y => some (0xA63 + put 12 d + put 17 a + put 22 b + put 27 t + put 2 y, 4)
  | .vsel d a b t y => some (0xA83 + put 12 d + put 17 a + put 22 b + put 27 t + put 2 y, 4)
  | .vcmp d m0 a m1 b m2 t y => some (0xAA3 + put 12 d + put 16 m0 + put 17 a + put 21 m1 + put 22 b + put 26 m2 + put 27 t + put 2 y, 4)
  | .vred d m0 a m1 op axis t y => some (0xAC3 + put 12 d + put 16 m0 + put 17 a + put 21 m1 + put 22 op + put 25 axis + put 27 t + put 2 y, 4)
  | .vbcst d a t y => some (0xAE3 + put 12 d + put 17 a + put 27 t + put 2 y, 4)
  | .vmov d a t y => some (0xB03 + put 12 d + put 17 a + put 27 t + put 2 y, 4)
  | .vscan d m0 a m1 b m2 t y => some (0xB23 + put 12 d + put 16 m0 + put 17 a + put 21 m1 + put 22 b + put 26 m2 + put 27 t + put 2 y, 4)
  | .vtrn d a t y => some (0xB43 + put 12 d + put 17 a + put 27 t + put 2 y, 4)
  | .vgath d a b t y => some (0xB63 + put 12 d + put 17 a + put 22 b + put 27 t + put 2 y, 4)
  | .lift a b y => some (0xB83 + put 17 a + put 22 b + put 2 y, 4)
  | .lidx d lvl t y => some (0xBA3 + put 12 d + put 17 lvl + put 27 t + put 2 y, 4)
  | .lany d a t y => some (0xBC3 + put 12 d + put 17 a + put 27 t + put 2 y, 4)
  | .lall d a t y => some (0xBE3 + put 12 d + put 17 a + put 27 t + put 2 y, 4)
  | .mlease y => some (0xC03 + put 2 y, 4)
  | .mrel y => some (0xC23 + put 2 y, 4)
  | .mma d a b y => some (0xC43 + put 12 d + put 17 a + put 21 b + put 2 y, 4)
  | .mmas d ehi a b elo y => some (0xC63 + put 12 d + put 15 ehi + put 17 a + put 21 b + put 25 elo + put 2 y, 4)
  | .mzero d y => some (0xC83 + put 12 d + put 2 y, 4)
  | .mrda d a b t y => some (0xCA3 + put 12 d + put 17 a + put 22 b + put 27 t + put 2 y, 4)
  | .mwra d a b t y => some (0xCC3 + put 12 d + put 17 a + put 22 b + put 27 t + put 2 y, 4)
  | .tfetch slot m k y => some (0xCE3 + put 12 slot + put 17 m + put 21 k + put 2 y, 4)
  | .tunpin slot y => some (0xD03 + put 12 slot + put 2 y, 4)
  | .bpld d m es pat y => some (0xD23 + put 12 d + put 17 m + put 25 es + put 27 pat + put 2 y, 4)
  | .bpst d m es y => some (0xD43 + put 12 d + put 17 m + put 25 es + put 2 y, 4)
  | .bpadd d a b sat y => some (0xD63 + put 12 d + put 17 a + put 22 b + put 27 sat + put 2 y, 4)
  | .bpsub d a b sat y => some (0xD83 + put 12 d + put 17 a + put 22 b + put 27 sat + put 2 y, 4)
  | .bpmul d a b sat y => some (0xDA3 + put 12 d + put 17 a + put 22 b + put 27 sat + put 2 y, 4)
  | .bpmacc d a b y => some (0xDC3 + put 12 d + put 17 a + put 22 b + put 2 y, 4)
  | .bpand d a b fn y => some (0xDE3 + put 12 d + put 17 a + put 22 b + put 27 fn + put 2 y, 4)
  | .bpcmp d a b cond y => some (0xE03 + put 12 d + put 17 a + put 22 b + put 27 cond + put 2 y, 4)
  | .bpsel d a b y => some (0xE23 + put 12 d + put 17 a + put 22 b + put 2 y, 4)
  | .bpset d b y => some (0xE43 + put 12 d + put 22 b + put 2 y, 4)
  | .bpcopy d a sat y => some (0xE63 + put 12 d + put 17 a + put 27 sat + put 2 y, 4)
  | .bpdecay d y => some (0xE83 + put 12 d + put 2 y, 4)
  | .bprow d a b f keep y => some (0xEA3 + put 12 d + put 17 a + put 22 b + put 27 f + put 31 keep + put 2 y, 4)
  | .trstep d a b y => some (0xEC3 + put 12 d + put 17 a + put 22 b + put 2 y, 4)
  | .csrr d i y => some (0xEE3 + put 12 d + put 22 i + put 2 y, 4)
  | .csrw a i y => some (0xF03 + put 17 a + put 22 i + put 2 y, 4)
  | .trap i y => some (0xF23 + put 22 i + put 2 y, 4)
  | .trapSeal y => some (0xFFC00F23 + put 2 y, 4)
  | .tlbiAll y => some (0xF43 + put 2 y, 4)
  | .tlbiAs a y => some (0x8000F43 + put 17 a + put 2 y, 4)
  | .tlbiVa a b y => some (0x10000F43 + put 17 a + put 22 b + put 2 y, 4)
  | .bind a y => some (0xF63 + put 17 a + put 2 y, 4)
  | .twin d a y => some (0xF83 + put 12 d + put 17 a + put 2 y, 4)
  | .untwin y => some (0xFA3 + put 2 y, 4)
  | .guardT a bit => some (0x4 + put 5 a + put 10 bit, 2)
  | .guardF a bit => some (0x8 + put 5 a + put 10 bit, 2)
  | .powerOn => none
  | .registerWrite _ _ => none
  | .qsizeWrite _ _ => none
  | .qtailWrite _ _ => none
  | .e15LaunchPush _ => none
  | .flood => none
  | .launchComplete _ => none
  | .messageArrival _ => none
  | .evtickArrival _ => none
  | .callatArrival _ => none
  | .refusalReturn _ => none
  | .deferredFaultEntry _ _ => none
  | .taskDispatch _ => none
  | .taskCommitBegin _ => none
  | .callatDeposit _ => none
  | .storeBufferDrain _ => none
  | .remoteStoreArrival _ => none
  | .redPerform _ => none
  | .ownedWordTimeout _ _ => none
  | .copyPieceStart _ _ => none
  | .copyPieceArrival _ _ _ => none
  | .copyPieceComplete _ _ _ => none
  | .streamDelivery _ _ _ => none
  | .bankLeaseGrant _ => none
  | .mode _ => none
  | .vbw _ => none
  | .vbl _ => none
  | .dot _ => none
  | .wrw _ => none
  | .bankCommandError _ => none
  | .bankLeaseExpiry _ => none
  | .wingDispatchGrant _ => none
  | .matrixLeaseGrant _ => none
  | .matrixLeaseCountEnd _ => none
  | .matrixLeaseIdleTimeout _ => none
  | .arrayOpComplete _ _ => none
  | .tfetchComplete _ _ => none
  | .barrierArrival _ => none
  | .barrierCompletion _ => none
  | .preemptRequest _ _ => none
  | .launchRestore _ => none
  | .debugSingleStep _ _ _ => none
  | .twinIntervalEnd _ => none
  | .internalUeDetected _ => none
  | .coreTableRemap _ _ _ => none
  | .clusterSuspect _ _ _ => none
  | .thermalMigration _ _ _ => none
  | .grantPeriod _ _ => none
  | .throttleStateLower _ => none
  | .pstateHandover _ => none
  | .p5Wake _ => none
  | .diectlWrite _ _ => none
  | .diePark _ => none
  | .pwrlimClear _ => none
  | .l2waysWrite _ _ => none
  | .patrolScrub _ => none
  | .hostMemoryAccess _ _ _ _ => none
  | .keyLoad _ _ => none
  | .linkLaneFailure _ => none
  | .linkDown _ => none
  | .linkFlitLost _ _ _ => none
  | .timeCorrection _ _ _ => none
  | .firmwareImageCheck _ => none
  | .getVersion => none
  | .getCapabilities => none
  | .negotiateAlgorithms _ _ => none
  | .getDigests => none
  | .getCertificate _ _ => none
  | .challenge _ => none
  | .getMeasurements _ => none
  | .timeReached _ _ => none
  | .wingOperationComplete _ _ => none
  | .portTrained _ _ => none
  | .clusterMarkCleared _ => none
  | .dieUnparkComplete _ => none

/-- The bytes of a word of `len` bytes, least significant first (R2). -/
def wordBytes (w len : Nat) : List Byte :=
  (List.range len).map fun k => BitVec.ofNat 8 (w / 256 ^ k)

/-- The instruction itself, zero-extended, as TRAPVAL of ILLOP holds it (R74). -/
def Instr.word (i : Instr) : Nat := ((encode i).map (·.1)).getD 0

/-- The length of the instruction in bytes; 0 for an event row. -/
def Instr.len (i : Instr) : Nat := ((encode i).map (·.2)).getD 0

/-- The instruction the decoder reads from a word numbered as the opcode table numbers bits: bit 0 is the least significant bit of the first
parcel. The bits above `nbits` are 0 up to the longest instruction, 32 bits. -/
def decodeTableWord (nbits w : Nat) : Option Instr :=
  match decode (wordBytes (w % 2 ^ nbits) 4) with
  | .ok (i, _) => some i
  | .error _ => none

end Sys2Proof
end

