-- ==== Sys2Proof/Machine/Contain.lean ====
section
/-! DEFINITION. Error records, error messages, the end of a context and the sealing of a core (R34, R243, R261 to R264, R281). -/

namespace Sys2Proof.Machine

/-- Cause codes of R74. -/
def cILLOP : Nat := 1
/-- ALIGN. -/
def cALIGN : Nat := 2
/-- PAGE. -/
def cPAGE : Nat := 3
/-- PERM. -/
def cPERM : Nat := 4
/-- CAPB. -/
def cCAPB : Nat := 5
/-- CAPT. -/
def cCAPT : Nat := 6
/-- REMOTELD. -/
def cREMOTELD : Nat := 7
/-- STALLCNT. -/
def cSTALLCNT : Nat := 8
/-- AXOVF. -/
def cAXOVF : Nat := 9
/-- SCALEPAIR. -/
def cSCALEPAIR : Nat := 10
/-- ORDER. -/
def cORDER : Nat := 11
/-- LEASE. -/
def cLEASE : Nat := 12
/-- BINDF. -/
def cBINDF : Nat := 13
/-- MSGERR. -/
def cMSGERR : Nat := 14
/-- UE. -/
def cUE : Nat := 15
/-- IV. -/
def cIV : Nat := 16
/-- BREAK. -/
def cBREAK : Nat := 17
/-- SWTRAP. -/
def cSWTRAP : Nat := 18

/-- MSGERR naming a target core number (R38). -/
def msgErr (num : Nat) : Trap := ⟨cMSGERR, false, natW num⟩

/-- Write the next error record and raise vector 16; the management controller keeps it out of band (R280, R281). `extra` holds dwords 4
to 6. -/
def putRecord (s : State) (typ cause : Nat) (loc : Nat) (core launch : Nat) (extra : List W64) : State :=
  let n := s.mg.rechead
  let d : List W64 := [natW (n.toNat % 2 ^ 32 * 2 ^ 32 + cause * 2 ^ 8 + typ), s.mg.time, natW loc, natW (core * 2 ^ 32 + launch),
    extra.getD 0 0, extra.getD 1 0, extra.getD 2 0, 0]
  { s with mg := { s.mg with
      rechead := n + 1
      records := mapSet s.mg.records (n.toNat % 16384) ⟨n.toNat, d⟩
      oob := s.mg.oob ++ [⟨n.toNat, d⟩]
      msix := s.mg.msix ++ [16] } }

/-- Continuation records of up to 14 words of 32 bits each (R281). -/
def putContinuation (s : State) (ids : List Nat) : State :=
  let n := s.mg.rechead
  let w := fun (j : Nat) => natW (ids.getD (2 * j) 0 + ids.getD (2 * j + 1) 0 * 2 ^ 32)
  let d : List W64 := [natW (n.toNat % 2 ^ 32 * 2 ^ 32 + 15), w 0, w 1, w 2, w 3, w 4, w 5, w 6]
  { s with mg := { s.mg with
      rechead := n + 1
      records := mapSet s.mg.records (n.toNat % 16384) ⟨n.toNat, d⟩
      oob := s.mg.oob ++ [⟨n.toNat, d⟩]
      msix := s.mg.msix ++ [16] } }

/-- The location of a site as LOC holds it (R281). -/
def siteLoc (site : Nat) : Nat := site / 272 * 2 ^ 12 + site % 272 / 16 * 2 ^ 4 + site % 16

/-- Launch ID of the launch on a core, or 0 (R281). -/
def launchOn (s : State) (c : Nat) : Nat := ((getCore s c).launch.map (·.id)).getD 0

/-- An error message on its way to a core number (R261). `cls` is 63 at the monarch and 62 elsewhere. `recNo` is `none` when no record was
written. -/
def sendError (s : State) (dst cls kind cause cx : Nat) (affected : Nat) (recNo : Option Nat) (launch : Nat) : State :=
  let p : List W64 := [natW (kind + cause * 2 ^ 8 + cx * 2 ^ 16), natW affected, match recNo with | some n => natW n | none => BitVec.allOnes 64,
    natW launch]
  let m : Msg := ⟨.error, ⟨affected, cx, 0⟩, dst, cls, 14, p, 0, 0, 0, 0, 0, 0, 0, none⟩
  { s with flights := s.flights ++ [⟨⟨affected, cx, 0⟩, dst, .msg m, false⟩] }

/-- Raise wake-event bits of a context (R47). -/
def wakeCtx (s : State) (id : CtxId) (bit : Nat) : State := onCtx s id fun x => { x with wake := x.wake ||| BitVec.ofNat 6 (2 ^ bit) }

/-- Raise one wake-event bit of every context in use on a core (R47 bit 0). -/
def wakeAll (s : State) (c bit : Nat) : State :=
  onCore s c fun k => { k with ctxs := k.ctxs.map fun p =>
    (p.1, if p.2.status == .free then p.2 else { p.2 with wake := p.2.wake ||| BitVec.ofNat 6 (2 ^ bit) }) }

/-- Change a context by something that comes from outside it: in a pair, at the restart point too (R258, R259). -/
def onBoth (s : State) (id : CtxId) (g : Ctx → Ctx) : State :=
  onCore (onCtx s id g) id.core fun k => { k with twin := k.twin.map fun t => { t with point := { t.point with ctx := g t.point.ctx } } }

/-- Change the saved record of the context that a sender names, and the restart point with it when its core is one of a pair (R250, R259). -/
def onSaved (s : State) (f : Sender) (g : Ctx → Ctx) : State :=
  let change := fun k : SavedCore =>
    if savedUse k f then { k with core := { k.core with
      ctxs := k.core.ctxs.map fun p => if p.1 = f.cx then (p.1, g p.2) else p
      twin := k.core.twin.map fun t => { t with point := { t.point with ctx := g t.point.ctx } } } }
    else k
  { s with saved := s.saved.map fun v => { v with cores := v.cores.map change } }

/-- The twinning state of the saved core of a sender, with the context of the partner's core as a sender (R250, R255). -/
def savedTwin (s : State) (f : Sender) : Option (Twin × Sender) :=
  let all := s.saved.flatMap fun v => v.cores
  match all.find? fun k => savedUse k f with
  | none => none
  | some k => k.core.twin.map fun t =>
    let n := coreNum s t.partner
    (t, ⟨n, 0, ((all.find? fun q => q.number = n).bind fun q => (mapGet q.core.ctxs 0).map fun x => x.epoch).getD 0⟩)

/-- Change the context that a sender names, on its core or in its saved record (R41, R250); one that has ended takes nothing (R38). -/
def onUse (s : State) (f : Sender) (g : Ctx → Ctx) : State :=
  match findSender s f with
  | some id => onBoth s id g
  | none => onSaved s f g

/-- Energy counts on the ENERGY of the context that a sender names, on its core or in its saved record: a use that has ended goes on counting there, since
ENERGY stays with the context (R276). -/
def addEnergy (s : State) (f : Sender) (nj : Nat) : State :=
  let add := fun x : Ctx => { x with energy := x.energy + natW nj }
  let kept := s.saved.any fun v => v.cores.any fun k => k.number = f.core && match mapGet k.core.ctxs f.cx with
    | some x => x.epoch = f.epoch
    | none => false
  let change := fun k : SavedCore =>
    if k.number = f.core then { k with core := { k.core with
      ctxs := k.core.ctxs.map fun p => if p.1 = f.cx then (p.1, add p.2) else p
      twin := k.core.twin.map fun t => { t with point := { t.point with ctx := add t.point.ctx } } } }
    else k
  if kept then { s with saved := s.saved.map fun v => { v with cores := v.cores.map change } }
  else match localCore s f.core with
    | some c => onBoth s ⟨c, f.cx⟩ add
    | none => s

/-- Change the partner of the context that a sender names, if it is one of a pair, be the pair running or saved (R250, R256). -/
def onPartner (s : State) (f : Sender) (g : Ctx → Ctx) : State :=
  match findSender s f with
  | some id => (match (getCore s id.core).twin with
    | some t => onBoth s ⟨t.partner, 0⟩ g
    | none => s)
  | none => match savedTwin s f with
    | some t => onSaved s t.2 g
    | none => s

/-- Change the context that a sender names, and in a pair its partner too. -/
def onPair (s : State) (f : Sender) (g : Ctx → Ctx) : State := onUse (onPartner s f g) f g

/-- The sender's core is the secondary of a pair, running or saved (R250, R255). -/
def ofSecondary (s : State) (f : Sender) : Bool :=
  match findSender s f with
  | some id => (getCore s id.core).twin.any fun t => !t.primary
  | none => (savedTwin s f).any fun t => !t.1.primary

/-- A barrier of a context is idle again (R238). -/
def idleBar (n : Nat) (x : Ctx) : Ctx := { x with bar := vecModify x.bar n fun b => { b with st := .idle } }

/-- Put a fault among the pending deferred faults of the context that a sender names (R38). In a pair the primary takes what either core is to take
(R256). -/
def deferTo (s : State) (f : Sender) (t : Trap) (copy : Option Nat) : State :=
  let g := match findSender s f with
    | some id => (match (getCore s id.core).twin with
      | some w => if w.primary then f else senderOf s ⟨w.partner, 0⟩
      | none => f)
    | none => (match savedTwin s f with
      | some t => if t.1.primary then f else t.2
      | none => f)
  onUse s g fun x => { x with deferred := x.deferred ++ [⟨t, copy⟩] }

/-- Charge one operation to a token of a context (R166). -/
def tokenAdd (x : Ctx) (n : Nat) : Ctx := { x with k := vecModify x.k n fun t => { t with count := t.count + 1 } }

/-- Take one operation off a token, with the error record of R166 when there is one; a token that becomes complete is wake event 1. -/
def tokenDone (x : Ctx) (n : Nat) (err : Option Trap) : Ctx :=
  let old := (vecGet x.k n tokenReset).count
  let y := { x with k := vecModify x.k n fun t =>
    match err with
    | some e => ⟨t.count - 1, true, e.code, e.val⟩
    | none => { t with count := t.count - 1 } }
  if old == 1 then { y with wake := y.wake ||| 2 } else y

/-- Complete an operation on a sender's token. Both cores of a pair charge their tokens alike, and what completes for the primary completes for both
(R166, R256). -/
def tokenDoneFor (s : State) (f : Sender) (n : Nat) (err : Option Trap) : State :=
  if ofSecondary s f then s
  else onUse (onPartner s f fun x => { tokenDone x n err with wake := x.wake }) f fun x => tokenDone x n err

/-- A CALLAT value or its failure on its way to the caller (R41). -/
def sendDeposit (s : State) (m : Msg) (callee : Nat) (v : Option W64) : State :=
  { s with deposits := s.deposits ++ [⟨m.src, m.call, v, callee⟩] }

/-- What a context loses when it ends: lift state, streams, tokens, barriers, pending deposits, deferred faults and handler mode
(R194, R206, R331). -/
def ctxOver (x : Ctx) (st : Status) : Ctx :=
  { x with
    status := st
    guard := .none
    pending := []
    lag := 0
    delayed := false
    awaiting := []
    k := Vector.replicate 8 tokenReset
    s := Vector.replicate 8 none
    bar := Vector.replicate 8 ⟨.unset, 0, 0⟩
    ldepth := 0
    lframe := tagNone
    masks := []
    lmask := BitVec.allOnes 64
    deferred := []
    handler := false
    waiting := none
    idling := none
    leaseAgain := false
    kept := none
    doing := none
    issued := none
    gathering := false
    resume := 0
    resuming := 0
    faulting := none }

/-- A matrix lease that a context holds or asks for ends (R194). -/
def dropLeases (s : State) (f : Sender) : State :=
  { s with wings := s.wings.map fun p =>
    (p.1, { p.2 with
      lease := match p.2.lease with
        | some l => if l.holder = f then none else some l
        | none => none
      leaseWait := p.2.leaseWait.filter fun h => !(h = f) }) }

/-- Copies of a core with nothing left to do complete: their tokens lose the operation (R162, R166). -/
def finishCopies (s : State) (c : Nat) : State :=
  let spent := fun q : Copy => q.runs.isEmpty && q.flying.isEmpty && q.fault.isNone
  let l := (getCore s c).copies.filter spent
  let s := onCore s c fun k => { k with copies := k.copies.filter fun q => !spent q }
  l.foldl (fun s q => tokenDoneFor s q.src q.tok q.err) s

/-- Suspended faulting copies of a context that ends are abandoned (R164, R331). -/
def dropFaulting (s : State) (c : Nat) (f : Sender) : State :=
  finishCopies (onCore s c fun k => { k with copies := k.copies.map fun q =>
    if q.src = f && q.fault.isSome then { q with fault := none, runs := [], err := q.fault } else q }) c

/-- The context of a core whose stream a SENDS feeds: the lowest-numbered one that binds it (log 13). -/
def streamOwner (s : State) (c n : Nat) : Option Nat :=
  ((getCore s c).ctxs.find? fun x => alive x.2 && (vecGet x.2.s n none).isSome).map (·.1)

/-- A stream goes away: the SENDS that have delivered an element to it deliver nothing more, and their tokens complete (R383). -/
def stopStream (s : State) (num n : Nat) : State :=
  let stop := fun q : Copy =>
    if q.begun && q.kind == .sends n && q.all.any (fun r => r.target = num) then
      { q with runs := [], flying := q.flying.map fun p => { p with done := true } }
    else q
  { s with cores := s.cores.map fun p => (p.1, { p.2 with copies := p.2.copies.map stop }) }

/-- One stream of a context is unbound: what a SENDS has partly delivered to it is discarded (R175, R383). -/
def freeStream (s : State) (id : CtxId) (n : Nat) : State :=
  let s := if streamOwner s id.core n = some id.cx then stopStream s (coreNum s id.core) n else s
  onCtx s id fun x => { x with s := vecSet x.s n none }

/-- Every stream of a context that ends is unbound (R331). -/
def freeStreams (s : State) (id : CtxId) : State :=
  (List.range 8).foldl (fun s n => if (vecGet (getCtx s id).s n none).isSome then freeStream s id n else s) s

/-- Set a context free, joinable or finished with its last value c1 (R35, R41, R243). `v` is the c1 that a joinable helper or a callee
returns; `none` for a context that failed. Wake event 3 goes to the context that started the helper by its number: when that context has ended and is in
use again, the new use takes it (DESIGN CHOICE, log 68: R47 is silent there). -/
def endContext (s : State) (id : CtxId) (v : Option Reg) : State :=
  let x := getCtx s id
  let me := senderOf s id
  let s := freeStreams (dropFaulting (dropLeases s me) id.core me) id
  if id.cx = 0 then onCtx s id fun x => ctxOver x .free
  else match x.status, x.task with
    | .task, some t =>
      let s := if t.msg.kind == .callat then sendDeposit s t.msg (coreNum s id.core) (v.map fun r => r.bits.setWidth 64) else s
      onCtx s id fun x => { ctxOver x .free with task := none }
    | .live, _ =>
      let s := onCtx s id fun x => { ctxOver x .joinable with c := x.c.set 1 (v.getD regNull) }
      wakeCtx s ⟨id.core, x.starter⟩ 3
    | _, _ => s

/-- The 22-bit number of the monarch of the launch on a core. -/
def monarchOf (s : State) (c : Nat) : Option Nat := (getCore s c).launch.map (·.monarch)

/-- An error message to the monarch (R261); a monarch that is itself affected sends and receives none (R264). -/
def tellMonarch (s : State) (c kind cause cx : Nat) (recNo : Option Nat) : State :=
  match monarchOf s c with
  | some m => if m = coreNum s c && kind != 2 then s else sendError s m 63 kind cause cx (coreNum s c) recNo (launchOn s c)
  | none => s

/-- A failed context (R243): it ends, and the monarch receives kind 2. -/
def failContext (s : State) (id : CtxId) (cause : Nat) (recNo : Option Nat) : State :=
  endContext (tellMonarch s id.core 2 cause id.cx recNo) id none

/-- The contexts of discarded phases of a home return to idle and take MSGERR, precisely when they stall in BWAIT and deferred otherwise (R238). -/
def discardPhases (s : State) (home : Nat) (l : SMap Phase) : State :=
  l.foldl (fun s p => p.2.arrived.foldl (fun s f => onUse (onPair s f (idleBar p.1)) f fun x =>
    if x.waiting = some (.bwait p.1) then { x with waiting := some (.broken (msgErr home)) }
    else { x with deferred := x.deferred ++ [(⟨msgErr home, none⟩ : Deferred)] }) s) s

/-- Discard the open phases at a barrier home that `bad` selects (R238). -/
def breakPhases (s : State) (home : Nat) (bad : Phase → Bool) : State :=
  match localCore s home with
  | none => s
  | some c =>
    let ph := (getCore s c).barHome.filter fun p => bad p.2
    discardPhases (onCore s c fun k => { k with barHome := k.barHome.filter fun p => !bad p.2 }) home ph

/-- The same at the home that a saved launch keeps (R250, R263). -/
def breakSavedPhases (s : State) (home : Nat) (bad : Phase → Bool) : State :=
  let ph := s.saved.flatMap fun v => v.cores.flatMap fun k => if k.number = home then k.core.barHome.filter fun p => bad p.2 else []
  let drop := fun k : SavedCore =>
    if k.number = home then { k with core := { k.core with barHome := k.core.barHome.filter fun p => !bad p.2 } } else k
  discardPhases { s with saved := s.saved.map fun v => { v with cores := v.cores.map drop } } home ph

/-- COUNT of a launch descriptor (R28). -/
def dCount (d : List W64) : Nat := bits (d.getD 1 0) 54 32
/-- BASE of a launch descriptor (R28). -/
def dBase (d : List W64) : Nat := bits (d.getD 1 0) 21 0
/-- The cores of a launch, as cores of the package. -/
def dCores (d : List W64) : List Nat := (List.range (dCount d)).map fun n => dBase d % 1024 + n

/-- A launch has completed on every core: QDONE, the host's interrupt, and whether a core was sealed (R34, R264, R280). -/
def finishLaunch (s : State) (id : Nat) : State :=
  match s.launches.find? fun l => l.id = id with
  | none => s
  | some l =>
    if (dCores l.desc).all fun c => l.doneOn.contains (coreNum s c) then
      let q := getQueue s l.queue
      let s := putQueue s l.queue { q with qdone := q.qdone + 1 }
      { s with
        launches := s.launches.filter fun k => k.id != id
        mg := { s.mg with msix := s.mg.msix ++ [l.queue], told := s.mg.told ++ [(id, l.sealedSeen)] } }
    else s

/-- The identity that a core keeps for a launch saved from it (R249, R252). -/
def savedIdentity (s : State) (c : Nat) : Option Resident :=
  (s.saved.flatMap fun v => v.cores.filter fun k => k.number = coreNum s c).findSome? fun k => k.core.launch.map fun l => { l with saved := true }

/-- The launch of a core completes on it when the core has become free (R34, R238): its routine table is cleared and open phases at its home are
discarded. -/
def completeCore (s : State) (c : Nat) : State :=
  match (getCore s c).launch with
  | none => s
  | some l =>
    if (getCore s c).isSealed || l.saved || !coreFree s c then s
    else
      let num := coreNum s c
      let s := noteStop (breakPhases s num (fun _ => true)) c
      let s := onCore s c fun k => { k with classes := [], chans := [], launch := savedIdentity s c }
      finishLaunch { s with launches := s.launches.map fun k => if k.id = l.id then { k with doneOn := setAdd k.doneOn num } else k } l.id

/-- Bound sender numbers of a channel entry (R36); counts 5 to 7 bind none. -/
def boundSenders (k : Core) (chn : Nat) : List Nat :=
  let d0 := mapGetD k.chans (chn * 4) 0
  let d1 := mapGetD k.chans (chn * 4 + 1) 0
  let d2 := mapGetD k.chans (chn * 4 + 2) 0
  let n := bits d0 6 4
  ([bits d1 21 0, bits d1 53 32, bits d2 21 0, bits d2 53 32]).take (if n ≤ 4 then n else 0)

/-- Channel carries ordered messages (R36); channel 15 ignores the bit. -/
def chanOrd (k : Core) (chn : Nat) : Bool := chn != 15 && bitAt (mapGetD k.chans (chn * 4) 0) 3

/-- Channel priority (R36). -/
def chanPrio (k : Core) (chn : Nat) : Nat := bits (mapGetD k.chans (chn * 4) 0) 2 0

/-- The places at which a core binds a sender. -/
def bindsAt (k : Core) (num : Nat) : List Nat :=
  (List.range 16).flatMap fun chn => (List.range (boundSenders k chn).length).filterMap fun j =>
    if (boundSenders k chn).getD j 0 = num then some (chn * 4 + j) else none

/-- A core treats a sealed sender's last timestamp as 0xFFFF_FFFF_FFFF (R263). -/
def unbind (k : Core) (num : Nat) : Core := { k with senderLast := (bindsAt k num).foldl (fun m h => mapSet m h (2 ^ 48 - 1)) k.senderLast }

/-- A core with a call outstanding at the sealed core. -/
def callsOut (k : Core) (num : Nat) : Bool := k.ctxs.any fun p => p.2.status != .free && p.2.awaiting.any fun a => a.callee = num

/-- Complete with error every call of a context that is outstanding at the sealed core (R41, R263). -/
def breakCtx (num : Nat) (x : Ctx) : Ctx :=
  if x.status == .free then x
  else (x.awaiting.filter fun a => a.callee = num).foldl (fun x a => tokenDone x a.tok (some (msgErr num)))
    { x with awaiting := x.awaiting.filter fun a => a.callee != num }

/-- The same of every context of a core, and of the restart point of a pair, to which a rollback returns (R258, R259). -/
def breakCalls (k : Core) (num : Nat) : Core :=
  { k with
    ctxs := k.ctxs.map fun p => (p.1, breakCtx num p.2)
    twin := k.twin.map fun t => { t with point := { t.point with ctx := breakCtx num t.point.ctx } } }

/-- What the sealing of a core does to another one: as a bound sender, and as the callee of a call; for each the other core receives kind 1 (R263). A
secondary shows itself through its primary alone (R255). -/
def sealSeen (s : State) (num cause cx recNo : Nat) (dst launch : Nat) (k : Core) : State :=
  let tell := fun (s : State) (b : Bool) =>
    if b && (k.twin.all fun t => t.primary) then sendError s dst 62 1 cause cx num (some recNo) launch else s
  tell (tell s (k.launch.isSome && !(bindsAt k num).isEmpty)) (callsOut k num)

/-- A core of the package sees the sealing of another. The launch ID of its message is that of its own launch (DESIGN CHOICE, log 88: R261 does not say
whose launch it is when the sealed core is of another). -/
def sealSeenBy (s : State) (num cause cx recNo : Nat) (c : Nat) : State :=
  let k := getCore s c
  onCore (sealSeen s num cause cx recNo (coreNum s c) (launchOn s c) k) c fun k => breakCalls (if k.launch.isSome then unbind k num else k) num

/-- A core of a saved launch sees it too (R250, R263). -/
def sealSeenSaved (s : State) (num cause cx recNo : Nat) : State :=
  let all := s.saved.flatMap fun v => v.cores.map fun k => (v.id, k)
  let s := all.foldl (fun s p => sealSeen s num cause cx recNo p.2.number p.1 p.2.core) s
  { s with saved := s.saved.map fun v => { v with cores := v.cores.map fun k => { k with core := breakCalls (unbind k.core num) num } } }

/-- A context of a sealed core: its held effects and the stores that its instruction has not placed are discarded (R263). -/
def sealCtx (x : Ctx) : Ctx :=
  { x with
    task := x.task.map fun t => { t with held := [], reads := [], opening := none }
    waiting := match x.waiting with
      | some (.stores _ _) => none
      | w => w }

/-- Seal one core into the cocoon state (R263, R264): record of type 3 or 5, every effect of R263 in this step. `kind` is 1, or 3 for a twin
pair; `cx` is the context whose instruction or fault seals it, 0 for none (R261). -/
def sealCore (s : State) (c cause cx kind : Nat) : State :=
  let num := coreNum s c
  let k := getCore s c
  let recNo := s.mg.rechead.toNat
  let s := putRecord s (if kind = 3 then 5 else 3) cause (siteLoc (siteOf s c)) num (launchOn s c) []
  let returned := k.queues.flatMap fun p => p.2.filterMap fun m =>
    if m.kind == .error then none
    else some { dst := m.src, trap := msgErr num, call := if m.kind == .callat then some m.call else none, bar := none : Refused }
  let s := onCore s c fun k => { k with
    isSealed := true
    buf := []
    left := k.left + k.buf.length
    tail := none
    queues := []
    reserved := []
    ops := []
    marks := []
    ctxs := k.ctxs.map fun p => (p.1, sealCtx p.2)
    copies := k.copies.filterMap fun q => if q.flying.isEmpty then none else some { q with runs := [] } }
  let s := { s with
    refused := s.refused ++ returned
    wings := s.wings.map fun p => (p.1, { p.2 with order := p.2.order.filter fun o => o.1 != c })
    launches := s.launches.map fun l =>
      if some l.id = (k.launch.map (·.id)) then { l with doneOn := setAdd l.doneOn num, sealedSeen := true } else l }
  let all := List.range 1024
  let present := all.filter fun d => (mapGet s.cores d).isSome
  let s := sealSeenSaved (present.foldl (fun s d => sealSeenBy s num cause cx recNo d) s) num cause cx recNo
  let s := noteStop (breakSavedPhases (breakPhases s num (fun _ => true)) num (fun _ => true)) c
  let joined := fun p : Phase => p.arrived.any fun f => f.core = num
  let s := present.foldl (fun s d => breakPhases s (coreNum s d) joined) s
  let s := ((s.saved.flatMap fun v => v.cores).map fun k => k.number).foldl (fun s n => breakSavedPhases s n joined) s
  match k.launch with
  | some l => if l.monarch = num then s else sendError s l.monarch 63 kind cause cx num (some recNo) l.id
  | none => s

/-- Send a refusal back (R38). -/
def refuse (s : State) (m : Msg) (t : Trap) : State :=
  { s with refused := s.refused ++ [⟨m.src, t, if m.kind == .callat then some m.call else none, none⟩] }

/-- Traffic that a failed pair had kept is refused (R259, R263). -/
def refuseKept (s : State) (num : Nat) (k : Kept) : State :=
  let no := fun (f : Sender) => { s with refused := s.refused ++ [⟨f, msgErr num, none, none⟩] }
  match k with
  | .store f _ _ _ => no f
  | .patch f _ _ => no f
  | .elem f _ _ => no f
  | .msg m => if m.kind == .error then s else refuse s m (msgErr num)

/-- Seal a core; in a pair its partner with it, and what the pair had kept is refused (R259, R263). -/
def sealPair (s : State) (c cause cx : Nat) : State :=
  match (getCore s c).twin with
  | some t =>
    let p := if t.primary then c else t.partner
    let kept := ((getCore s p).twin.map fun w => w.kept).getD []
    let mark := fun k : Core => { k with twinState := 3, twin := none }
    let s := onCore (onCore s c mark) t.partner mark
    kept.foldl (fun s k => refuseKept s (coreNum s p) k) (sealCore (sealCore s c cause cx 3) t.partner cause cx 3)
  | none => sealCore s c cause cx 1

end Sys2Proof.Machine
end

