-- ==== Sys2Proof/Machine/Ops.lean ====
section
/-! DEFINITION. Issuing an instruction: registers, stall counts and the checking scoreboard, taking a trap, returning from one
(R53, R59 to R61, R65, R67 to R70, R242 to R245, R248). -/

namespace Sys2Proof.Machine

/-- How an instruction's body stops short: a synchronous fault, the trap of TRAP or BRK that resumes behind it (R244), or a stall. -/
inductive Stop where
  | trap (t : Trap)
  | trapNext (t : Trap)
  | stall
deriving DecidableEq, Repr, Inhabited

/-- The body of a meaning: it changes the state and may stop. -/
abbrev M := EStateM Stop State

/-- Raise a synchronous fault. -/
def fault {α : Type} (code : Nat) (val : W64) : M α := throw (.trap ⟨code, false, val⟩)

/-- Raise a PERM fault of a capability's permission bits (R74). -/
def faultCap {α : Type} (val : W64) : M α := throw (.trap ⟨cPERM, true, val⟩)

/-- Stall: the instruction is tried again at the context's next turn. -/
def stall {α : Type} : M α := throw .stall

/-- Stall unless a condition holds. -/
def await_ (b : Bool) : M Unit := if b then pure () else stall

/-- Raise a fault when a condition holds. -/
def faultIf (b : Bool) (code : Nat) (val : W64) : M Unit := if b then fault code val else pure ()

/-- A general register; c0 reads as the null capability (R50). -/
def readReg (x : Ctx) (r : BitVec 5) : Reg := if r = 0 then regNull else vecGet x.c r.toNat regNull

/-- A write that has landed: it discards pending writes to the register (R67). A write to c0 is discarded (R50). -/
def setReg (x : Ctx) (r : BitVec 5) (v : Reg) : Ctx :=
  { x with c := if r = 0 then x.c else vecSet x.c r.toNat v, pending := x.pending.filter fun p => p.reg != r }

/-- Data form: the value in bits [63:0], zeros above, tag 0 (R53). -/
def dataReg (v : W64) : Reg := ⟨v.setWidth 128, false⟩

/-- X(c) of R283. -/
def regData (r : Reg) : W64 := r.bits.setWidth 64

/-- A write of latency `l` issues: pending writes to the register that would land no earlier are discarded (R67). Behind a GUARD the distances
still count from the GUARD, one issue cycle back. -/
def setLate (x : Ctx) (r : BitVec 5) (l : Nat) (v : W64) : Ctx :=
  let n := if x.guard = .none then l else l + 1
  if r = 0 then x else { x with pending := (x.pending.filter fun p => p.reg != r || p.left < n) ++ [⟨r, v, n⟩] }

/-- Land one pending write. -/
def landOne (x : Ctx) (p : Pending) : Ctx := if p.reg = 0 then x else { x with c := vecSet x.c p.reg.toNat (dataReg p.val) }

/-- `n` issue cycles pass: writes whose distance is reached land in program order (R67). -/
def advance (x : Ctx) (n : Nat) : Ctx :=
  let due := x.pending.filter fun p => p.left ≤ n
  { due.foldl landOne x with pending := (x.pending.filter fun p => n < p.left).map fun p => { p with left := p.left - n } }

/-- The writes that land within `n` issue cycles are in their registers; the others wait on. -/
def landDue (x : Ctx) (n : Nat) : Ctx :=
  { (x.pending.filter fun p => p.left ≤ n).foldl landOne x with pending := x.pending.filter fun p => n < p.left }

/-- Every pending write lands (R70). -/
def landAll (x : Ctx) : Ctx := { x.pending.foldl landOne x with pending := [], lag := 0 }

/-- A context can be stopped from outside here, as far as its fixed-latency writes are concerned: none is pending, or its front holds it for seven cycles
at most and they land (R70; log 64). -/
def landsNow (x : Ctx) : Bool := x.pending.isEmpty || x.stalled || decide (7 ≤ x.lag)

/-- The pending writes of the named registers land, as a wait for them leaves it (R61, R64). -/
def landRegs (x : Ctx) (l : List (BitVec 5)) : Ctx :=
  { (x.pending.filter fun p => l.contains p.reg).foldl landOne x with pending := x.pending.filter fun p => !l.contains p.reg }

/-- The lowest register of `l` that makes the checking scoreboard raise STALLCNT (R41, R69). The instruction waits for the pending writes of `late`
instead (R61, R64, R69). A register that awaits a CALLAT deposit raises it for wing-dispatched instructions too (DESIGN CHOICE, log 22: R41 speaks of any
instruction, R69 has wing-dispatched operations raise none). -/
def scoreboardHit (x : Ctx) (l late : List (BitVec 5)) : Option Nat :=
  if !x.chksb then none
  else ((l.filter fun r => r != 0 &&
      ((!late.contains r && x.pending.any fun p => p.reg = r) || x.awaiting.any fun a => a.reg = r)).map BitVec.toNat).min?

/-- The address of the executing instruction itself: behind its GUARD, if it has one (R60). -/
def instrPc (x : Ctx) : W64 := if x.guard = .none then x.pc else x.pc + 2

/-- NPC of R283 for an instruction of `len` bytes. -/
def nextPc (x : Ctx) (len : Nat) : W64 := instrPc x + natW len

/-- The task of a context is ordered and still speculative (R44). -/
def isSpec (x : Ctx) : Bool :=
  match x.task with
  | some t => t.ordered && !t.committing && x.status == .task
  | none => false

/-- A reserved entry that no one will fill drains without writing (R128). -/
def emptyKind (l : List Nat) (b : BufKind) : BufKind :=
  match b with
  | .wing op blk _ => if l.contains op then .wing op blk (some []) else b
  | _ => b

/-- Take array operations of a core away, with their places in the order of their wings: what they have reserved in the store buffer drains without
writing, and what they hold is discarded (R128, R222). -/
def dropOps (s : State) (c : Nat) (l : List Nat) : State :=
  if l.isEmpty then s
  else
    let mine := fun b : BufKind => match b with
      | .wing op _ _ => l.contains op
      | _ => false
    let free := fun e : Effect => match e with
      | .buf b _ => !mine b
      | _ => true
    let s := onCore s c fun k => { k with
      ops := k.ops.filter fun o => !l.contains o.id
      ctxs := k.ctxs.map fun p => (p.1, { p.2 with task := p.2.task.map fun t => { t with held := t.held.filter free } })
      twin := k.twin.map fun w => { w with held := w.held.filter free }
      buf := k.buf.map fun e => { e with kind := emptyKind l e.kind }
      tail := match k.tail with
        | some t => if l.contains t.op then none else some t
        | none => none }
    { s with wings := s.wings.map fun p => (p.1, { p.2 with order := p.2.order.filter fun o => !(o.1 = c && l.contains o.2) }) }

/-- Requests that an interrupted instruction leaves behind are withdrawn: it asks again when it is executed again. Its BIND waits no longer (R18). -/
def withdraw (s : State) (id : CtxId) : State :=
  let me := senderOf s id
  let s := onCore s id.core fun k => { k with bindDrain := setDel k.bindDrain id.cx }
  let lost := ((getCore s id.core).ops.filter fun o => !o.checked && o.src = me).map (·.id)
  let s := onCtx s id fun x => { x with task := x.task.map fun t => { t with opening := t.opening.filter fun n => !lost.contains n } }
  let s := dropOps s id.core lost
  { s with
    leases := s.leases.filter fun l => l.granted || !(l.holder = me)
    wings := s.wings.map fun p => (p.1, { p.2 with leaseWait := p.2.leaseWait.filter fun h => !(h = me) }) }

/-- TRAPCAUSE as R74 lays it out. -/
def causeWord (t : Trap) (defer : Bool) : W64 := natW (t.code + (if defer then 2 ^ 8 else 0) + (if t.capp then 2 ^ 9 else 0))

/-- A fault that would end the context of a pair while its interval holds something: the interval ends first, and the fault is met again behind the
checkpoint (R243, R258, DEDUCED, log 21). -/
def failsLate (s : State) (id : CtxId) (code : Nat) : Bool :=
  let x := getCtx s id
  (x.handler || x.trapvec == 0) && !(code == cUE || code == cIV) && match (getCore s id.core).twin with
    | some t => t.retired != 0 || !t.held.isEmpty
    | none => false

/-- The interval of a core of a pair is to end. -/
def endInterval (s : State) (c : Nat) : State := onCore s c fun k => { k with twin := k.twin.map fun w => { w with due := true } }

/-- TAKING A TRAP (R242): pending writes land, TRAPCAUSE, TRAPPC and TRAPVAL are written, handler mode is entered, execution continues at
TRAPVEC. In handler mode, or with TRAPVEC 0, the context fails instead, and UE or IV seals the core (R243, R263). -/
def takeTrap (s : State) (id : CtxId) (t : Trap) (defer : Bool) (pc : W64) : State :=
  let x := landAll (getCtx s id)
  if x.handler || x.trapvec = 0 then
    if t.code = cUE || t.code = cIV then sealPair s id.core t.code id.cx
    else if failsLate s id t.code then onCtx (endInterval s id.core) id fun x => { x with guard := .none, stalled := true }
    else failContext (withdraw (putCtx s id x) id) id t.code none
  else
    let s := withdraw s id
    let s := putCtx s id { x with
      trapcause := causeWord t defer
      trappc := pc
      trapval := t.val
      handler := true
      pc := x.trapvec
      guard := .none
      waiting := none
      doing := none
      issued := none
      gathering := false
      idling := none
      stalled := false
      delayed := false
      resuming := 0 }
    onCore s id.core fun k => { k with twin := k.twin.map fun w => { w with due := true, total := w.total + 1 } }

/-- A speculative task stalls at a fault, which it takes once it is no longer speculative (R248). -/
def keepFault (s : State) (t : Trap) (pc : W64) : State :=
  onCur s fun x => { x with
    guard := .none
    waiting := none
    doing := none
    issued := none
    gathering := false
    stalled := true
    task := x.task.map fun z => { z with fault := some (t, pc) } }

/-- A synchronous fault of the executing instruction: a speculative task stalls at it (R248). -/
def raiseSync (s : State) (t : Trap) (pc : W64) : State :=
  if isSpec (curCtx s) then keepFault (withdraw s s.cur) t pc else takeTrap s s.cur t false pc

/-- The fault that a context's task stalled at while it was speculative. -/
def keptFault (x : Ctx) : Option (Trap × W64) := x.task.bind fun t => t.fault

/-- The executing context's task is no longer speculative and takes the fault that it stalled at (R248). -/
def takeKept (s : State) (t : Trap) (pc : W64) : State :=
  takeTrap (onCur s fun x => { x with task := x.task.map fun z => { z with fault := none } }) s.cur t false pc

/-- The instruction retires: `n` issue cycles pass, one more for its GUARD, and the next instruction follows at `pc` (R60, R67). The resume instance of a
widened instruction that faulted stays while its trap is handled, and until the instruction at which ERET resumes has retired (R205). -/
def retire (s : State) (n : Nat) (pc : W64) : State :=
  onCur s fun x =>
    let m := if x.guard = .none then n else n + 1
    let y := advance x m
    { y with
      pc := pc
      lag := if y.pending.isEmpty then 0 else x.lag + m
      delayed := false
      guard := .none
      resume := if x.handler || x.resuming = 2 then x.resume else 0
      kept := if x.handler || x.resuming = 2 then x.kept else none
      doing := none
      issued := none
      gathering := false
      resuming := x.resuming - 1
      waiting := none
      idling := none
      stalled := false }

/-- One step of CRC-64 with the polynomial of R257, by one byte. -/
def crcByte (c : W64) (b : Nat) : W64 :=
  let c := c ^^^ natW (b * 2 ^ 56)
  (List.range 8).foldl (fun c _ => if c.msb then (c <<< 1) ^^^ 0x42F0E1EBA9EA3693 else c <<< 1) c

/-- Feed bytes into a fingerprint. -/
def crcFeed (c : W64) (l : List Byte) : W64 := l.foldl (fun c b => crcByte c b.toNat) c

/-- The value of a register's latest write, landed or not. -/
def latestReg (x : Ctx) (r : BitVec 5) : Reg :=
  match (x.pending.filter fun p => p.reg = r).getLast? with
  | some p => dataReg p.val
  | none => readReg x r

/-- A retired instruction of a twinned core counts, and feeds its general-register writes into the fingerprint (R257, R258). -/
def twinRetire (s : State) (writes : List (BitVec 5)) : State :=
  match (curCore s).twin with
  | none => s
  | some _ =>
    let x := curCtx s
    let l := (writes.filter fun r => r != 0).flatMap fun r =>
      [BitVec.ofNat 8 r.toNat] ++ toBytes (latestReg x r).bits.toNat 16 ++ [if (latestReg x r).tag then 1 else 0]
    onCore s s.cur.core fun k => { k with twin := k.twin.map fun t =>
      { t with crc := crcFeed t.crc l, retired := t.retired + 1, total := t.total + 1, due := t.due || decide (4096 ≤ t.retired + 1) } }

/-- An instruction that stalls takes no input of its pair beyond what it has kept: it takes the others anew when it is tried again (R256). -/
def unfeed (s s' : State) : State :=
  match (curCore s).twin with
  | none => s'
  | some t =>
    let p := match (curCtx s').waiting with
      | some (.part _ _ fed len) => (fed, len)
      | _ => (t.fed, t.feed.length)
    onCore s' s.cur.core fun k => { k with twin := k.twin.map fun w => { w with fed := p.1, feed := w.feed.take p.2 } }

/-- ILLOP of a body, if it raises it. -/
def illopOf {α : Type} (r : EStateM.Result Stop State α) : Option Trap :=
  match r with
  | .error (.trap t) _ => if t.code = cILLOP then some t else none
  | _ => none

/-- The registers that await a deposit hold 0, and pending writes have landed. -/
def otherRegs (x : Ctx) (l : List (BitVec 5)) : Ctx :=
  let y := landRegs x l
  { y with c := (y.awaiting.filter fun a => l.contains a.reg && a.reg != 0).foldl (fun c a => vecSet c a.reg.toNat regNull) y.c }

/-- What the checking scoreboard raises for register `r`: STALLCNT, unless the body raises ILLOP whatever the registers that are not ready hold: with
their older values and with the coming ones (R69, R75, log 23). -/
def stallTrap (body : M (Option W64)) (l : List (BitVec 5)) (r : Nat) (s : State) : Trap :=
  match illopOf (body s), illopOf (body (onCur s fun x => otherRegs x l)) with
  | some t, some _ => t
  | _, _ => ⟨cSTALLCNT, false, natW r⟩

/-- A context whose instruction stalls: one that has asked for something, or has had a part of its effect, is under way and is not fetched again. -/
def stallAt (i : Instr) (x : Ctx) : Ctx :=
  { x with
    guard := .none
    stalled := true
    issued := if x.waiting.isSome || x.doing.isSome then some (i, x.guard != .none) else none }

/-- Issue an instruction of the executing context. In this order: ILLOP for an operand value its entry does not list, before any guard
(R60, R65); STALLCNT of its guard (R61, R75); suppression by its guard (R60); STALLCNT (R69); its body, which answers where execution continues,
or `none` for NPC. `cycles` is 1 + Y (R63); the instruction waits for the pending writes of `late`. -/
def issueLate (i : Instr) (cycles : Nat) (reads writes late : List (BitVec 5)) (body : M (Option W64)) (s : State) :
    Host.Outcome State Fault Refusal :=
  let x := curCtx s
  if legal i = false then .next (raiseSync s ⟨cILLOP, false, natW i.word⟩ x.pc)
  else match x.guard with
  | .unread r => .next (raiseSync s ⟨cSTALLCNT, false, natW r⟩ x.pc)
  | .suppress => .next (retire (twinRetire s []) cycles (nextPc x i.len))
  | _ =>
    match scoreboardHit x (reads ++ writes) late with
    | some r => .next (raiseSync s (stallTrap body (reads ++ writes) r s) x.pc)
    | none =>
      match body (if late.isEmpty then s else onCur s fun x => landRegs x late) with
      | .ok none s' => .next (retire (twinRetire s' writes) cycles (nextPc x i.len))
      | .ok (some pc) s' => .next (retire (twinRetire s' writes) cycles pc)
      | .error (.trap t) s' => .next (raiseSync s' t x.pc)
      | .error (.trapNext t) s' => .next (raiseSync s' t (nextPc x i.len))
      | .error .stall s' => .next (onCur (unfeed s s') (stallAt i))

/-- `issueLate` for the instructions that wait for no pending write, and, where `waits` is set, for the 16-bit forms, RET and the wing-dispatched
instructions, which wait for those of what they read (R64, R69, R376). -/
def issueTo (i : Instr) (cycles : Nat) (reads writes : List (BitVec 5)) (waits : Bool) (body : M (Option W64)) (s : State) :
    Host.Outcome State Fault Refusal :=
  issueLate i cycles reads writes (if waits then reads else []) body s

/-- `issueTo` for a body that always continues at NPC. -/
def issue (i : Instr) (cycles : Nat) (reads writes : List (BitVec 5)) (waits : Bool) (body : M Unit) (s : State) :
    Host.Outcome State Fault Refusal :=
  issueTo i cycles reads writes waits (body *> pure none) s

/-- Issue cycles of a 32-bit instruction: 1 + Y (R67). -/
def cyc (y : BitVec 3) : Nat := 1 + y.toNat

/-- The executing context. -/
def me : M Ctx := do return curCtx (← get)

/-- Change the executing context. -/
def setMe (f : Ctx → Ctx) : M Unit := modify fun s => onCur s f

/-- The executing core. -/
def myCore : M Core := do return curCore (← get)

/-- Change the executing core. -/
def setCore (f : Core → Core) : M Unit := modify fun s => onCore s s.cur.core f

/-- Read a general register whole. -/
def rdReg (r : BitVec 5) : M Reg := do return readReg (← me) r

/-- Read X(c). -/
def rd (r : BitVec 5) : M W64 := do return regData (← rdReg r)

/-- Write a general register whole. -/
def wrReg (r : BitVec 5) (v : Reg) : M Unit := setMe fun x => setReg x r v

/-- Write a data-form result (R53). -/
def wr (r : BitVec 5) (v : W64) : M Unit := wrReg r (dataReg v)

/-- Write a result of fixed latency `l` (R68). -/
def wrLate (r : BitVec 5) (l : Nat) (v : W64) : M Unit := setMe fun x => setLate x r l v

/-- ILLOP of the executing instruction, with the instruction as TRAPVAL (R74). -/
def illop {α : Type} (i : Instr) : M α := fault cILLOP (natW i.word)

/-- ILLOP when a condition holds. -/
def illopIf (b : Bool) (i : Instr) : M Unit := if b then illop i else pure ()

/-- An instruction that waits for an outside result stalls while its task is speculative (R44). -/
def notSpec : M Unit := do await_ (!isSpec (← me))

/-- The executing context as a sender. -/
def meSender : M Sender := do let s ← get; return senderOf s s.cur

/-- An input from outside a twinned pair: taken once by the primary and given to the secondary at the same instruction (R256). -/
def input (v : W128) : M W128 := do
  match (← myCore).twin with
  | none => return v
  | some t =>
    if t.fed < t.feed.length then
      setCore fun k => { k with twin := k.twin.map fun w => { w with fed := w.fed + 1 } }
      return t.feed.getD t.fed v
    else
      setCore fun k => { k with twin := k.twin.map fun w => { w with feed := w.feed ++ [v], fed := w.fed + 1 } }
      return v

/-- An input of 64 bits (R256). -/
def inputW (v : W64) : M W64 := do return (← input (v.setWidth 128)).setWidth 64

/-- The executing core is the secondary of a pair. -/
def isSecondary : M Bool := do
  return match (← myCore).twin with
  | some t => !t.primary
  | none => false

/-- An operation on something outside a twinned pair: the primary performs it once, and its value or its fault is an input of both cores
(R256). -/
def shared (act : M W64) : M W64 := do
  match (← myCore).twin with
  | none => act
  | some t =>
    if t.fed < t.feed.length then
      let v ← input 0
      if v.msb then throw (.trap ⟨v.toNat / 2 ^ 65 % 256, v.toNat / 2 ^ 64 % 2 == 1, v.setWidth 64⟩) else return v.setWidth 64
    else if !t.primary then stall
    else
      let r ← tryCatch (do return Except.ok (← act)) fun e => match e with
        | .trap t => return .error t
        | e => throw e
      match r with
      | .ok v => inputW v
      | .error e =>
        let _ ← input (BitVec.ofNat 128 (2 ^ 127 + e.code * 2 ^ 65 + (if e.capp then 2 ^ 64 else 0) + e.val.toNat))
        throw (.trap e)

/-- `shared` for a value of 128 bits: whether it faulted is an input, and then the value (R256). -/
def sharedWide (act : M W128) : M W128 := do
  match (← myCore).twin with
  | none => act
  | some t =>
    if t.fed < t.feed.length then
      let v ← input 0
      if v.msb then throw (.trap ⟨v.toNat / 2 ^ 65 % 256, v.toNat / 2 ^ 64 % 2 == 1, v.setWidth 64⟩) else input 0
    else if !t.primary then stall
    else
      let r ← tryCatch (do return Except.ok (← act)) fun e => match e with
        | .trap t => return .error t
        | e => throw e
      match r with
      | .ok v =>
        let _ ← input 0
        input v
      | .error e =>
        let _ ← input (BitVec.ofNat 128 (2 ^ 127 + e.code * 2 ^ 65 + (if e.capp then 2 ^ 64 else 0) + e.val.toNat))
        throw (.trap e)

/-- A write of accumulators, bit-plane rows or pins in a twinned pair: the interval ends before it and again after it (R258). -/
def wingWrite : M Unit := do
  match (← myCore).twin with
  | none => return
  | some t =>
    setCore fun k => { k with twin := k.twin.map fun w => { w with due := true } }
    await_ (decide (t.retired = 0))

/-- RETURNING FROM A TRAP (R245): handler mode ends and execution continues at TRAPPC. A copy whose fault was taken resumes when
TRAPCAUSE[7:0] still holds the fault's code, and is abandoned otherwise (R164). -/
def returnTrap : M (Option W64) := do
  let x ← me
  match x.faulting with
  | none => pure ()
  | some q =>
    setCore fun k => { k with copies := k.copies.map fun c =>
      if c.id = q then
        match c.fault with
        | some t => if bits x.trapcause 7 0 = t.code then { c with fault := none } else { c with fault := none, runs := [], err := some t }
        | none => c
      else c }
    modify fun s => finishCopies s s.cur.core
  setMe fun x => { x with handler := false, faulting := none, resuming := 2 }
  return some x.trappc

/-- The instance at which the executing widened instruction starts: one that stalled part-way goes on where it stood (R205). -/
def startInstance : M Nat := do
  let x ← me
  return match x.waiting with
    | some (.part m _ _ _) => m
    | _ => if x.resuming = 0 then 0 else x.resume

/-- The values that the executing instruction has read for an instance. -/
def partOf (m : Nat) : M (List Nat) := do
  return match (← me).waiting with
    | some (.part k l _ _) => if k = m then l else []
    | _ => []

/-- Keep the values read for an instance: a stall behind this point does not read them again. -/
def keepPart (m : Nat) (l : List Nat) : M Unit := do
  let t := (← myCore).twin
  setMe fun x => { x with waiting := some (.part m l ((t.map (·.fed)).getD 0) ((t.map (·.feed.length)).getD 0)) }

/-- The executing instruction pauses behind `n` elements; the pause is then over. -/
def pausesAt (n : Nat) : M Bool := do
  if (← me).pause = some n then
    setMe fun x => { x with pause := none }
    return true
  else return false

/-- Other agents may go on between two elements of an instruction (R122, log 63). -/
def pausePoint (n : Nat) : M Unit := do
  if ← pausesAt n then stall else return

/-- A pending deferred fault is taken at an instruction boundary, outside handler mode (R243, R244). A context that stalls in BWAIT because its phase was
discarded takes a fault that was pending before first, and its MSGERR is then a deferred one too (DEDUCED, log 60: behind the first fault the BWAIT that
R238 has raise it would find its barrier idle, and R237 would give ILLOP). A fault that a task stalled at is met again by its instruction behind ERET. -/
def takeDeferred (s : State) (id : CtxId) : State :=
  let x := getCtx s id
  match x.deferred with
  | [] => s
  | d :: r =>
    if x.handler || isSpec x then s
    else if failsLate s id d.trap.code then onCtx (endInterval s id.core) id fun x => { x with stalled := true }
    else
      let r := match x.waiting with
        | some (.broken t) => r ++ [⟨t, none⟩]
        | _ => r
      let s := putCtx s id { x with deferred := r, task := x.task.map fun z => { z with fault := none } }
      let s := takeTrap s id d.trap true x.pc
      match d.copy with
      | some q => onCtx s id fun x => { x with faulting := some q }
      | none => s

end Sys2Proof.Machine
end

