-- ==== Sys2Proof/Machine/Cap.lean ====
section
/-! DEFINITION. Capabilities: fields, bounds, derivation (R51, R52, R54, R321, R324), and the checks of R104 that need no translation. -/

namespace Sys2Proof.Machine

/-- Bits [hi:lo] of a general register as a number. -/
def capBits (b : W128) (hi lo : Nat) : Nat := b.toNat / 2 ^ lo % 2 ^ (hi + 1 - lo)

/-- A capability register that memory or a record gives: with EXP above 39 it has tag 0 (R52), and the reserved bits of the capability form are 0
(R5, R51). -/
def formCap (b : W128) (tag : Bool) : Reg :=
  if tag && decide (capBits b 119 114 ≤ 39) then ⟨b &&& ~~~(3#128 <<< 120), true⟩ else ⟨b, false⟩

/-- The cursor (R51). -/
def capAddr (b : W128) : W64 := b.setWidth 64

/-- A capability with another cursor. -/
def capWithAddr (b : W128) (a : W64) : W128 := BitVec.ofNat 128 (b.toNat / 2 ^ 64 * 2 ^ 64 + a.toNat)

/-- The bounds that R52 decodes: base modulo 2^64, and top, exclusive. -/
def capBounds (b : W128) : Nat × Int :=
  let e := capBits b 119 114
  let addr := capBits b 63 0
  let hi : Int := (addr / 2 ^ (e + 25) : Nat)
  let mid := addr / 2 ^ e % 2 ^ 25
  let cb : Int := if mid < capBits b 88 64 then 1 else 0
  let ct : Int := if capBits b 113 89 < capBits b 88 64 then 1 else 0
  let base : Int := (hi - cb) * (2 ^ (e + 25) : Nat) + (capBits b 88 64 * 2 ^ e : Nat)
  let top : Int := (hi - cb + ct) * (2 ^ (e + 25) : Nat) + (capBits b 113 89 * 2 ^ e : Nat)
  ((base % (2 ^ 64 : Nat)).toNat, top)

/-- Permission bits of R51. -/
def permR : Nat := 127
/-- W. -/
def permW : Nat := 126
/-- X. -/
def permX : Nat := 125
/-- LC. -/
def permLC : Nat := 124
/-- SC. -/
def permSC : Nat := 123
/-- E. -/
def permE : Nat := 122

/-- One permission bit. -/
def hasPerm (b : W128) (p : Nat) : Bool := b.toNat / 2 ^ p % 2 == 1

/-- A capability word from its parts (R51). -/
def capMake (perms e topm basem : Nat) (addr : W64) : W128 :=
  BitVec.ofNat 128 (perms * 2 ^ 122 + e * 2 ^ 114 + topm * 2 ^ 89 + basem * 2 ^ 64 + addr.toNat)

/-- The exponent that R321 chooses for a range: the smallest at which it spans fewer than 2^25 granules. -/
def capExp (b t : Nat) (e fuel : Nat) : Option Nat :=
  match fuel with
  | 0 => none
  | n + 1 => if (t + 2 ^ e - 1) / 2 ^ e - b / 2 ^ e < 2 ^ 25 then some e else capExp b t (e + 1) n

/-- Bounds rounded outwards to the granule of exponent `e` (R321). -/
def capRound (b t e : Nat) : Nat × Nat := (b / 2 ^ e * 2 ^ e, (t + 2 ^ e - 1) / 2 ^ e * 2 ^ e)

/-- A capability with permissions `perms`, cursor `b`, and bounds `b` to `t` rounded outwards (R32, R321). -/
def capOver (perms b t : Nat) : Reg :=
  match capExp b t 0 40 with
  | none => regNull
  | some e =>
    let r := capRound b t e
    ⟨capMake perms e (r.2 / 2 ^ e % 2 ^ 25) (r.1 / 2 ^ e % 2 ^ 25) (natW b), true⟩

/-- A root capability: bounds that are multiples of 2^39, given in those units, with a cursor (R54). -/
def capRoot (perms base top : Nat) (addr : W64) : Reg := ⟨capMake perms 39 (top % 2 ^ 25) (base % 2 ^ 25) addr, true⟩

/-- Own cell memory, selector 8 of R54: 1 MiB at 0xD000_0000_0000_0000, R, W, LC and SC. -/
def capCell : Reg := capOver 0b110110 0xD000000000000000 0xD000000000100000

/-- Mesh stores, selector 9: 0xC000… to 0xE000…, cursor at 0xD000…, W. -/
def capMesh : Reg := capRoot 0b010000 0x1800000 0x1C00000 0xD000000000000000

/-- Global memory, selector 10: R, W, LC and SC. -/
def capGlobal : Reg := capRoot 0b110110 0 0x1800000 0

/-- Engine and system space, selector 11: R, W and E. -/
def capEngine : Reg := capRoot 0b110001 0x1C00000 0x1E00000 0xE000000000000000

/-- What an access does, for the permission step of R104. -/
structure Access where
  read : Bool
  write : Bool
  fetch : Bool
  storeCap : Bool
  ownCell : Bool
  aligned : Bool
deriving DecidableEq, Repr, Inhabited

/-- A load (R104). -/
def accLoad : Access := ⟨true, false, false, false, true, true⟩
/-- A store; `cap` when a tagged capability is stored. -/
def accStore (cap : Bool) : Access := ⟨false, true, false, cap, false, true⟩
/-- An element that BPST stores: one in another core's cell memory raises REMOTELD (R220, R222). -/
def accArrayStore : Access := { accStore false with ownCell := true }
/-- An atomic reads and writes. -/
def accAtomic : Access := ⟨true, true, false, false, true, true⟩
/-- An instruction fetch. -/
def accFetch : Access := ⟨false, false, true, false, false, true⟩
/-- A copy source range: step 4 does not apply (R161). -/
def accCopySrc : Access := ⟨true, false, false, false, true, false⟩
/-- A copy destination range. -/
def accCopyDst : Access := ⟨false, true, false, false, false, false⟩
/-- A range that a command reads and writes (R177). -/
def accBoth : Access := ⟨true, true, false, false, true, false⟩

/-- The spaces of R102 as an address falls into them. -/
inductive Space where
  | global (va : Nat)
  | cell (core off : Nat)
  | engine (off : Nat)
deriving DecidableEq, Repr, Inhabited

/-- The core whose coordinates a program sees: both cores of a pair run with those of the primary (R255, R256). -/
def viewCore (s : State) (c : Nat) : Nat :=
  match (getCore s c).twin with
  | some t => if t.primary then c else t.partner
  | none => c

/-- A core number as core `c` means it: in a secondary the primary's number names its own cell memory (R256). -/
def ownNumber (s : State) (c num : Nat) : Nat :=
  if num = coreNum s (viewCore s c) then coreNum s c else if num = coreNum s c then coreNum s (viewCore s c) else num

/-- R102 and R103: the space of an address, its reserved fields and the mesh range, for core `c` of the package; `none` raises PAGE. -/
def spaceOf (s : State) (c : Nat) (a : W64) : Option Space :=
  let sp := bits a 63 60
  if sp = 0 then (if bits a 59 48 = 0 then some (.global (bits a 47 0)) else none)
  else if sp = 0xC then
    if bits a 47 42 = 0 && bits a 31 20 = 0 then
      some (.cell (ownNumber s c (bits a 59 48 * 1024 + coreAt (bits a 36 32) (bits a 41 37))) (bits a 19 0))
    else none
  else if sp = 0xD then
    let x := (coreX (viewCore s c) : Int) + sxInt (bits a 36 32) 5
    let y := (coreY (viewCore s c) : Int) + sxInt (bits a 41 37) 5
    if bits a 59 42 = 0 && bits a 31 20 = 0 && decide (0 ≤ x) && decide (x ≤ 31) && decide (0 ≤ y) && decide (y ≤ 31) then
      some (.cell (ownNumber s c (s.device * 1024 + coreAt x.toNat y.toNat)) (bits a 19 0))
    else none
  else if sp = 0xE then (if bits a 59 32 = 0 then some (.engine (bits a 31 0)) else none)
  else none

/-- Steps 2 and 3 of R104: permissions and bounds. -/
def checkBounds (b : W128) (a : W64) (n : Nat) (k : Access) : Except Trap Unit :=
  let bt := capBounds b
  if (k.read && !hasPerm b permR) || (k.write && !hasPerm b permW) || (k.fetch && !hasPerm b permX) || (k.storeCap && !hasPerm b permSC)
      || (bits a 63 60 == 0xE && !hasPerm b permE) then .error ⟨cPERM, true, a⟩
  else if a.toNat < bt.1 || decide (bt.2 ≤ (a.toNat : Int)) && n != 0 then .error ⟨cCAPB, false, a⟩
  else if decide (bt.2 < (a.toNat : Int) + (n : Int)) then .error ⟨cCAPB, false, toW bt.2⟩
  else .ok ()

/-- Steps 4 to 6 of R104: alignment, space and reach. -/
def checkSpace (s : State) (c : Nat) (a : W64) (n : Nat) (k : Access) : Except Trap Space :=
  if k.aligned && (a.toNat % n != 0 || bits a 63 60 == 0xE && n != 8) then .error ⟨cALIGN, false, a⟩
  else match spaceOf s c a with
    | none => .error ⟨cPAGE, false, a⟩
    | some (.cell d o) =>
      if k.fetch then .error ⟨cPAGE, false, a⟩
      else if k.ownCell && d != coreNum s c then .error ⟨cREMOTELD, false, a⟩
      else .ok (.cell d o)
    | some (.engine o) => if k.fetch then .error ⟨cPAGE, false, a⟩ else .ok (.engine o)
    | some sp => .ok sp

/-- Steps 2 to 6 of R104 for `n` bytes at `a` through a capability word; the fault, or the space the access falls into. -/
def checkWord (s : State) (c : Nat) (b : W128) (a : W64) (n : Nat) (k : Access) : Except Trap Space :=
  match checkBounds b a n k with
  | .error t => .error t
  | .ok _ => checkSpace s c a n k

/-- Steps 1 to 6 of R104 through general register number `r`. -/
def checkCap (s : State) (c : Nat) (cap : Reg) (r : Nat) (a : W64) (n : Nat) (k : Access) : Except Trap Space :=
  if !cap.tag then .error ⟨cCAPT, false, natW r⟩ else checkWord s c cap.bits a n k

/-- Raise the fault of a failed check. -/
def orFault {α : Type} (e : Except Trap α) : M α :=
  match e with
  | .ok a => pure a
  | .error t => throw (.trap t)

end Sys2Proof.Machine
end

