-- ==== Sys2Proof/Machine/Float.lean ====
section
/-! DEFINITION. The number formats and their arithmetic: exact values, rounding, conversions, block scales (R80 to R93, R267, R406). -/

namespace Sys2Proof.Machine

/-- An exact value: NaN, an infinity, or (−1)^neg · m · 2^e. A zero keeps its sign (R81). -/
inductive FVal where
  | nan
  | inf (neg : Bool)
  | fin (neg : Bool) (m : Nat) (e : Int)
deriving DecidableEq, Repr, Inhabited

/-- Rounding modes of R90. -/
inductive Rnd where
  | rne
  | rz
  | sr
deriving DecidableEq, Repr, Inhabited

/-- The mode that a two-bit modifier names (R65); 3 is refused before. -/
def rndOf (m : Nat) : Rnd := if m = 1 then .rz else if m = 2 then .sr else .rne

/-- How a floating format treats its top codes (R80): no infinity or NaN, the E4M3 way, or IEEE. -/
inductive FKind where
  | noInf
  | e4m3
  | ieee
deriving DecidableEq, Repr, Inhabited

/-- A floating format: mantissa width, exponent width, bias, kind, and low bits of its container that are not used (R80, R82). -/
structure Fmt where
  w : Nat
  ew : Nat
  bias : Nat
  kind : FKind
  pad : Nat
deriving DecidableEq, Repr, Inhabited

/-- The floating formats by their code (R80). -/
def fmtOf (t : Nat) : Fmt :=
  match t with
  | 0 => ⟨1, 2, 1, .noInf, 0⟩
  | 1 => ⟨3, 2, 1, .noInf, 0⟩
  | 2 => ⟨2, 3, 3, .noInf, 0⟩
  | 3 => ⟨3, 4, 7, .e4m3, 0⟩
  | 4 => ⟨2, 5, 15, .ieee, 0⟩
  | 9 => ⟨10, 5, 15, .ieee, 0⟩
  | 10 => ⟨7, 8, 127, .ieee, 0⟩
  | 11 => ⟨10, 8, 127, .ieee, 13⟩
  | 12 => ⟨23, 8, 127, .ieee, 0⟩
  | _ => ⟨52, 11, 1023, .ieee, 0⟩

/-- A type or format code is floating (R66, R80). -/
def isFloat (t : Nat) : Bool := t ≤ 4 || (9 ≤ t && t ≤ 13)

/-- A type code is a signed integer (R66). -/
def isSigned (t : Nat) : Bool := t = 5 || t = 7 || t = 14 || t = 16 || t = 18

/-- The value of a code in a format (R81, R82, R88). -/
def fdecode (f : Fmt) (code : Nat) : FVal :=
  let c := code / 2 ^ f.pad
  let m := c % 2 ^ f.w
  let e := c / 2 ^ f.w % 2 ^ f.ew
  let neg := c / 2 ^ (f.w + f.ew) % 2 == 1
  if e = 0 then .fin neg m (1 - (f.bias : Int) - f.w)
  else if f.kind = .ieee ∧ e = 2 ^ f.ew - 1 then (if m = 0 then .inf neg else .nan)
  else if f.kind = .e4m3 ∧ e = 2 ^ f.ew - 1 ∧ m = 2 ^ f.w - 1 then .nan
  else .fin neg (2 ^ f.w + m) ((e : Int) - f.bias - f.w)

/-- The canonical NaN (R88); +0 in the formats without one (R92). -/
def fnan (f : Fmt) : Nat :=
  match f.kind with
  | .noInf => 0
  | .e4m3 => 0x7F
  | .ieee => ((2 ^ f.ew - 1) * 2 ^ f.w + 2 ^ (f.w - 1)) * 2 ^ f.pad

/-- The largest finite magnitude, without container padding (R80). -/
def fmax (f : Fmt) : Nat :=
  match f.kind with
  | .noInf => 2 ^ (f.w + f.ew) - 1
  | .e4m3 => 0x7E
  | .ieee => (2 ^ f.ew - 1) * 2 ^ f.w - 1

/-- A signed code from a magnitude; E2M1X has no −0 (R86). -/
def fsign (f : Fmt) (neg : Bool) (mag : Nat) : Nat :=
  (if neg && !(f.w == 1 && mag == 0) then 2 ^ (f.w + f.ew) + mag else mag) * 2 ^ f.pad

/-- Whether the magnitude `lo` plus the fraction `rem / den` is rounded up (R90, R91). `x` is the stepped RNGS. -/
def roundUp (mode : Rnd) (x : Nat) (lo rem den : Nat) : Bool :=
  match mode with
  | .rne => decide (den < 2 * rem) || (2 * rem == den && lo % 2 == 1)
  | .rz => false
  | .sr => rem != 0 && decide (x ≤ rem * 2 ^ 32 / den)

/-- Round a finite value into a format by R90 to R92. -/
def fround (f : Fmt) (mode : Rnd) (x : Nat) (neg : Bool) (m : Nat) (e : Int) : Nat :=
  if m = 0 then fsign f neg 0
  else
    let top : Int := e + m.log2
    let emin : Int := 1 - (f.bias : Int)
    let qe : Int := (if top < emin then emin else top) - f.w
    let sig :=
      if qe ≤ e then m * 2 ^ (e - qe).toNat
      else
        let den := 2 ^ (qe - e).toNat
        m / den + (if roundUp mode x (m / den) (m % den) den then 1 else 0)
    let mag := (qe + f.w + f.bias - 1).toNat * 2 ^ f.w + sig
    if mag ≤ fmax f then fsign f neg mag
    else match f.kind, mode with
      | .ieee, .rne => fsign f neg (fmax f + 1)
      | _, _ => fsign f neg (fmax f)

/-- The RNGS step of R91. -/
def rngStep (r : BitVec 32) : BitVec 32 :=
  let x := r ^^^ (r <<< 13)
  let x := x ^^^ (x >>> 17)
  x ^^^ (x <<< 5)

/-- RNGS after one rounding in a mode (R91). -/
def rngAfter (mode : Rnd) (r : BitVec 32) : BitVec 32 := if mode = .sr then rngStep r else r

/-- Convert a value to a floating format, with the RNGS after it (R91, R92). -/
def fenc (f : Fmt) (mode : Rnd) (r : BitVec 32) (v : FVal) : Nat × BitVec 32 :=
  let r' := rngAfter mode r
  match v with
  | .nan => (fnan f, r')
  | .inf neg => (match f.kind with
    | .ieee => fsign f neg (fmax f + 1)
    | _ => fsign f neg (fmax f), r')
  | .fin neg m e => (fround f mode r'.toNat neg m e, r')

/-- Clamp an integer into a type's range (R92, R93). -/
def clampInt (t : Nat) (i : Int) : Int :=
  let n := typeBits t
  if isSigned t then max (-(2 ^ (n - 1) : Nat)) (min i ((2 ^ (n - 1) : Nat) - 1)) else max 0 (min i ((2 ^ n : Nat) - 1))

/-- Round a value to an integer in a mode, before clamping; `big` stands for an infinity (R90, R92). -/
def toInt (mode : Rnd) (r : BitVec 32) (v : FVal) (big : Int) : Int × BitVec 32 :=
  let r' := rngAfter mode r
  match v with
  | .nan => (0, r')
  | .inf neg => (if neg then -big else big, r')
  | .fin neg m e =>
    let mag :=
      if 0 ≤ e then m * 2 ^ e.toNat
      else
        let den := 2 ^ (-e).toNat
        m / den + (if roundUp mode r'.toNat (m / den) (m % den) den then 1 else 0)
    (if neg then -(mag : Int) else mag, r')

/-- Bits of an integer in a type (R93). -/
def intBits (t : Nat) (i : Int) : Nat := (i % (2 ^ typeBits t : Nat)).toNat

/-- The integer that bits of a type hold. -/
def intVal (t c : Nat) : Int :=
  let n := typeBits t
  let c := c % 2 ^ n
  if isSigned t && decide (2 ^ (n - 1) ≤ c) then (c : Int) - (2 ^ n : Nat) else c

/-- An integer as an exact value. -/
def ofInt (i : Int) : FVal := .fin (decide (i < 0)) i.natAbs 0

/-- The value of an element of a type: a floating code outside a block takes R81's value, with 1000 of E2M1X as +0 (R86). -/
def elemVal (t c : Nat) : FVal :=
  if isFloat t then (if t = 0 && c % 16 = 8 then .fin false 0 0 else fdecode (fmtOf t) (c % 2 ^ typeBits t))
  else ofInt (intVal t c)

/-- Convert a value to a type: floating by R92, integer clamped (R92). -/
def encType (t : Nat) (mode : Rnd) (r : BitVec 32) (v : FVal) : Nat × BitVec 32 :=
  if isFloat t then fenc (fmtOf t) mode r v
  else
    let p := toInt mode r v (2 ^ 200)
    (intBits t (clampInt t p.1), p.2)

/-- The sign of a value. -/
def fneg (v : FVal) : Bool :=
  match v with
  | .nan => false
  | .inf n => n
  | .fin n _ _ => n

/-- The value negated. -/
def fminus (v : FVal) : FVal :=
  match v with
  | .nan => .nan
  | .inf n => .inf !n
  | .fin n m e => .fin (!n) m e

/-- A finite value as an integer multiple of 2^e for an `e` at or below its own. -/
def scaled (neg : Bool) (m : Nat) (e lo : Int) : Int :=
  let k := m * 2 ^ (e - lo).toNat
  if neg then -(k : Int) else k

/-- Exact sum (R89); an exact zero is −0 only when both operands are. -/
def fadd (a b : FVal) : FVal :=
  match a, b with
  | .nan, _ => .nan
  | _, .nan => .nan
  | .inf n, .inf k => if n = k then .inf n else .nan
  | .inf n, _ => .inf n
  | _, .inf n => .inf n
  | .fin n m e, .fin k l f =>
    if m = 0 then (if l = 0 then .fin (n && k) 0 0 else b)
    else if l = 0 then a
    else
      let lo := min e f
      let s := scaled n m e lo + scaled k l f lo
      .fin (decide (s < 0)) s.natAbs lo

/-- Exact product (R89). -/
def fmul (a b : FVal) : FVal :=
  match a, b with
  | .nan, _ => .nan
  | _, .nan => .nan
  | .inf n, .inf k => .inf (n != k)
  | .inf n, .fin k m _ => if m = 0 then .nan else .inf (n != k)
  | .fin n m _, .inf k => if m = 0 then .nan else .inf (n != k)
  | .fin n m e, .fin k l f => .fin (n != k) (m * l) (e + f)

/-- Exact order of two values that are not NaN: a < b, with zeros equal. -/
def flt (a b : FVal) : Bool :=
  match a, b with
  | .nan, _ => false
  | _, .nan => false
  | .inf n, .inf k => n && !k
  | .inf n, _ => n
  | _, .inf k => !k
  | .fin n m e, .fin k l f => let lo := min e f; decide (scaled n m e lo < scaled k l f lo)

/-- Exact equality of two values, false for a NaN. -/
def feq (a b : FVal) : Bool := a != .nan && b != .nan && !flt a b && !flt b a

/-- Minimum by R89: the non-NaN operand of one NaN, −0 below +0. -/
def fminV (a b : FVal) : FVal :=
  if a = .nan then b else if b = .nan then a
  else if flt a b then a else if flt b a then b else if fneg a then a else b

/-- Maximum by R89. -/
def fmaxV (a b : FVal) : FVal :=
  if a = .nan then b else if b = .nan then a
  else if flt a b then b else if flt b a then a else if fneg a then b else a

/-- floor of the square root, bit by bit from bit `n`. -/
def isqrtFrom (x r n : Nat) : Nat :=
  match n with
  | 0 => if (r + 1) * (r + 1) ≤ x then r + 1 else r
  | k + 1 => if (r + 2 ^ (k + 1)) * (r + 2 ^ (k + 1)) ≤ x then isqrtFrom x (r + 2 ^ (k + 1)) k else isqrtFrom x r k

/-- floor of the square root. -/
def isqrt (x : Nat) : Nat := isqrtFrom x 0 (x.log2 / 2 + 1)

/-- A truncated magnitude with a sticky bit below it. -/
def sticky (q : Nat) (inexact : Bool) : Nat := 2 * q + (if inexact then 1 else 0)

/-- 1/x, truncated far below every format's precision, with a sticky bit (R406). -/
def frcp (v : FVal) : FVal :=
  match v with
  | .nan => .nan
  | .inf n => .fin n 0 0
  | .fin n m e =>
    if m = 0 then .inf n
    else
      let k := m.log2 + 160
      .fin n (sticky (2 ^ k / m) (2 ^ k % m != 0)) (-e - k - 1)

/-- √x (R406). -/
def fsqrt (v : FVal) : FVal :=
  match v with
  | .nan => .nan
  | .inf n => if n then .nan else .inf false
  | .fin n m e =>
    if m = 0 then .fin n 0 0
    else if n then .nan
    else
      let odd := e % 2
      let x := m * 2 ^ (320 + odd.toNat)
      let q := isqrt x
      .fin false (sticky q (q * q != x)) ((e - odd - 320) / 2 - 1)

/-- 1/√x (R406). -/
def frsq (v : FVal) : FVal :=
  match v with
  | .nan => .nan
  | .inf n => if n then .nan else .fin false 0 0
  | .fin n m e =>
    if m = 0 then .inf n
    else if n then .nan
    else
      let odd := e % 2
      let d := m * 2 ^ odd.toNat
      let k := d.log2 + 200
      let x := 2 ^ (2 * k) / d
      let q := isqrt x
      .fin false (sticky q (q * q * d != 2 ^ (2 * k))) (-((e - odd) / 2) - k - 1)

/-- ln 2 · 2^320 from below, by the sum of 1 / (k · 2^k). -/
def ln2From (k fuel : Nat) : Nat :=
  match fuel with
  | 0 => 0
  | n + 1 => 2 ^ (320 - k) / k + ln2From (k + 1) n

/-- ln 2 · 2^320, truncated. -/
def ln2 : Nat := ln2From 1 319

/-- The sum of y^k / k! from term `k` on, in units of 2^−320; `t` is the term before. -/
def expFrom (y t k fuel : Nat) : Nat :=
  match fuel with
  | 0 => 0
  | n + 1 => let u := t * y / 2 ^ 320 / k; u + expFrom y u (k + 1) n

/-- 2^x, truncated to 200 bits below the leading one, with a sticky bit (R406). A non-integer dyadic x has an irrational result. -/
def fexp2 (v : FVal) : FVal :=
  match v with
  | .nan => .nan
  | .inf n => if n then .fin false 0 0 else .inf false
  | .fin n m e =>
    if m = 0 then .fin false 1 0
    else if 20 < e + m.log2 then (if n then .fin false 1 (-100000) else .fin false 1 100000)
    else
      -- x in units of 2^−lo, split into an integer part and a fraction
      let lo := min e 0
      let i := scaled n m e lo
      let den : Nat := 2 ^ (-lo).toNat
      let whole := i / (den : Int)
      let frac := (i % (den : Int)).toNat
      if frac = 0 then .fin false 1 whole
      else
        let y := frac * ln2 / den
        let p := 2 ^ 320 + expFrom y (2 ^ 320) 1 100
        .fin false (sticky (p / 2 ^ 120) true) (whole - 201)

/-- Elements per scaled or packed block, and its size in bytes (R170). -/
def blockBytes (f : Nat) : Nat :=
  match f with
  | 0 => 18 | 1 => 24 | 2 => 24 | 3 => 32 | 4 => 32 | 5 => 16 | 6 => 16 | 7 => 32 | 8 => 32 | 9 => 64 | 10 => 64
  | 11 => 128 | 12 => 128 | 13 => 256 | _ => 1

/-- The value of an element code within a block with scale byte `x` and special `spec` (R84, R86). -/
def blockVal (f code x spec : Nat) : FVal :=
  if x = 255 then .nan
  else
    let v := if f = 0 && code % 16 = 8 then fdecode (fmtOf 3) (spec % 256) else fdecode (fmtOf f) code
    match v with
    | .fin n m e => .fin n m (e + (x : Int) - 127)
    | w => w

/-- The exponent of a value's leading bit; only for finite non-zero values. -/
def magExp (v : FVal) : Int :=
  match v with
  | .fin _ m e => e + m.log2
  | _ => 0

/-- The value without its sign. -/
def fmag (v : FVal) : FVal := if fneg v then fminus v else v

/-- Index of the largest magnitude, the lowest on ties, and that magnitude (R87). -/
def maxIndex (l : List FVal) (n best : Nat) (cur : FVal) : Nat × FVal :=
  match l with
  | [] => (best, cur)
  | v :: r => if flt cur (fmag v) then maxIndex r (n + 1) n (fmag v) else maxIndex r (n + 1) best cur

/-- A block as codes, scale byte and special (R85). -/
structure Block where
  codes : List Nat
  scale : Nat
  spec : Nat
deriving DecidableEq, Repr, Inhabited

/-- RNGS after `n` roundings. -/
def rngTimes (mode : Rnd) (r : BitVec 32) (n : Nat) : BitVec 32 :=
  match n with
  | 0 => r
  | k + 1 => rngTimes mode (rngAfter mode r) k

/-- Convert the scaled values in ascending order; in E2M1X the value at `big` goes to SPEC instead (R87 steps 5 and 6). -/
def encElems (f : Nat) (mode : Rnd) (x : Nat) (big : Nat) (l : List FVal) (n : Nat) (r : BitVec 32) : List Nat × Nat × BitVec 32 :=
  match l with
  | [] => ([], 0, r)
  | v :: rest =>
    let u := match v with
      | .fin g m e => FVal.fin g m (e - (x : Int) + 127)
      | w => w
    if f = 0 && n = big then
      let p := fenc (fmtOf 3) mode r u
      let q := encElems f mode x big rest (n + 1) p.2
      (8 :: q.1, p.1, q.2.2)
    else
      let p := fenc (fmtOf f) mode r u
      let q := encElems f mode x big rest (n + 1) p.2
      (p.1 :: q.1, q.2.1, q.2.2)

/-- Encode 32 values into a block (R87). -/
def encBlock (f : Nat) (mode : Rnd) (r : BitVec 32) (l : List FVal) : Block × BitVec 32 :=
  let special := l.any fun v => match v with
    | .fin _ _ _ => false
    | _ => true
  let mx := maxIndex l 0 0 (.fin false 0 0)
  if special then (⟨l.map fun _ => 0, 255, 0⟩, rngTimes mode r l.length)
  else if feq mx.2 (.fin false 0 0) then (⟨l.map fun _ => 0, 127, 0⟩, rngTimes mode r l.length)
  else
    let emax : Int := match f with
      | 0 => 2 | 1 => 2 | 2 => 4 | 3 => 8 | _ => 15
    let x := (max 0 (min (magExp mx.2 - emax + 127) 254)).toNat
    let q := encElems f mode x mx.1 l 0 r
    (⟨q.1, x, q.2.1⟩, q.2.2)

/-- Elements packed from the low end, `w` bits each, as a number (R85). -/
def packBits (w : Nat) (l : List Nat) : Nat :=
  match l with
  | [] => 0
  | c :: r => c % 2 ^ w + 2 ^ w * packBits w r

/-- Element `i` of packed bits. -/
def unpackBits (w : Nat) (p i : Nat) : Nat := p / 2 ^ (w * i) % 2 ^ w

end Sys2Proof.Machine
end

