-- ==== Sys2Proof/Machine/Phys.lean ====
section
/-! DEFINITION. Physical memory: homes, encryption and errors, far ways, reduce-state lines, releases and acquires
(R105, R114 to R120, R146 to R153, R158, R374). -/

namespace Sys2Proof.Machine

/-- PA[51]: host memory (R117). -/
def isHost (pa : Nat) : Bool := pa / 2 ^ 51 % 2 == 1

/-- Home die of an HBM address (R117). -/
def homeDie (pa : Nat) : Nat := pa / 2 ^ 21 % 4

/-- Home slice of a line (R117). -/
def homeSlice (pa : Nat) : Nat := (pa / 2 ^ 7 % 16) ^^^ (pa / 2 ^ 23 % 16)

/-- The address lies in the HBM range (R117). -/
def inHbm (s : State) (pa : Nat) : Bool := !isHost pa && decide (pa < s.mem.hbmtop.toNat)

/-- An access by a core of a die is served at the home slice: the die's own lines, uncached pages, and every line while the die sets no far ways
aside (R118, R119). -/
def atHome (s : State) (die pa : Nat) (uc : Bool) : Bool :=
  homeDie pa == die || uc || (vecGet s.mem.l2ways die 0).toNat % 16 == 0

/-- Change global memory. -/
def onMem (s : State) (f : GlobalMem → GlobalMem) : State := { s with mem := f s.mem }

/-- A bank unit leases a 1 KiB segment that `n` bytes at `pa` touch (R158). -/
def isLeased (s : State) (pa n : Nat) : Bool :=
  s.leases.any fun l => l.granted && !l.expired && l.rows.any fun r => r.any fun seg => decide (pa < seg + 1024) && decide (seg < pa + n)

/-- Combine two words of a RED type by its operation (R374). -/
def redCombine (typ op a b : Nat) : Nat :=
  let n := if typ = 0 || typ = 1 || typ = 4 then 32 else 64
  if typ ≤ 3 then
    let sg := fun v : Nat => if typ % 2 = 0 then sxInt v n else ((v % 2 ^ n : Nat) : Int)
    match op with
    | 0 => (a + b) % 2 ^ n
    | 1 => if sg a ≤ sg b then a % 2 ^ n else b % 2 ^ n
    | 2 => if sg a ≤ sg b then b % 2 ^ n else a % 2 ^ n
    | 3 => a % 2 ^ n &&& b % 2 ^ n
    | 4 => a % 2 ^ n ||| b % 2 ^ n
    | _ => a % 2 ^ n ^^^ b % 2 ^ n
  else
    let f := fmtOf (if typ = 4 then 12 else 13)
    let x := fdecode f (a % 2 ^ n)
    let y := fdecode f (b % 2 ^ n)
    match op with
    | 0 => (fenc f .rne 0 (fadd x y)).1
    | 1 => (fenc f .rne 0 (fminV x y)).1
    | _ => (fenc f .rne 0 (fmaxV x y)).1

/-- The identity that a partial starts at (R374). -/
def redIdentity (typ op : Nat) : Nat :=
  let n := if typ = 0 || typ = 1 || typ = 4 then 32 else 64
  if typ ≤ 3 then
    match op with
    | 1 => if typ % 2 = 0 then 2 ^ (n - 1) - 1 else 2 ^ n - 1
    | 2 => if typ % 2 = 0 then 2 ^ (n - 1) else 0
    | 3 => 2 ^ n - 1
    | _ => 0
  else
    let f := fmtOf (if typ = 4 then 12 else 13)
    match op with
    | 0 => fsign f true 0
    | 1 => fsign f false (fmax f + 1)
    | _ => fsign f true (fmax f + 1)

/-- Bytes of a RED word. -/
def redSize (typ : Nat) : Nat := if typ = 0 || typ = 1 || typ = 4 then 4 else 8

/-- Bytes as HBM holds them, with no check: a sector written under a key is held as its plaintext, with the mark of its key. -/
def hbmRaw (s : State) (pa n : Nat) : List Byte := memReads s.mem.hbm pa n

/-- What a sector written under a key ID is marked with: the ID and the keys loaded for it (R114). -/
def keyMark (s : State) (key : Nat) : Option KeyMark := if key = 0 then none else some ⟨key, mapGetD s.mem.keys key default⟩

/-- The ciphertext of a sector that was written under a key (R114). -/
def sectorCipher (s : State) (sec : Nat) (m : KeyMark) : List Byte := xtsSector m.key.data (sec * 64) (hbmRaw s (sec * 64) 64) false

/-- A sector as an access under a key ID sees it: its bytes, its ciphertext under key 0, or none when its integrity tag does not match (R114, R115).
A sector written in plaintext has no tag that a key matches (log 7). -/
def sectorView (s : State) (sec key : Nat) : Option (List Byte) :=
  match keyMark s key, mapGet s.mem.sectorKey sec with
  | none, none => some (hbmRaw s (sec * 64) 64)
  | none, some m => some (sectorCipher s sec m)
  | some _, none => none
  | some n, some m =>
    if m = n then some (hbmRaw s (sec * 64) 64)
    else
      let c := sectorCipher s sec m
      if sectorTag n.key.tag (sec * 64) n.id c = sectorTag m.key.tag (sec * 64) m.id c then some (xtsSector n.key.data (sec * 64) c true)
      else none

/-- Bytes of one sector that passed its check, as an access under a key ID sees them. -/
def plainBytes (s : State) (pa n key : Nat) : List Byte :=
  if mapGet s.mem.sectorKey (pa / 64) = keyMark s key then hbmRaw s pa n
  else (((sectorView s (pa / 64) key).getD []).drop (pa % 64)).take n

/-- The other of two neighbours that share a pair: the words of a granule, the sectors of a line. -/
def otherWord (word : Nat) : Nat := if word % 2 = 0 then word + 1 else word - 1

/-- An access under another key ID writes a poisoned line back and drops it (R114). -/
def unpoison (s : State) (sec key : Nat) : State :=
  match mapGet s.mem.poisoned sec with
  | some p =>
    if p.key.all fun k => k == key then s
    else onMem s fun g => { g with poisoned := mapErase (mapErase g.poisoned sec) (otherWord sec) }
  | none => s

/-- Who met an error, as a record names it: the core number and the launch ID (R281). -/
def coreOf (s : State) (c : Nat) : Nat × Nat := (coreNum s c, launchOn s c)

/-- An error that no core met: the host, the launch engine, patrol scrubbing, and a write or a merge, whose consumer takes the fault later. -/
def noCore : Nat × Nat := (0, 0)

/-- What a sector check finds (R115): nothing, or the fault with its record written, which names `who` (R281). -/
def sectorCheck (s : State) (pa key : Nat) (who : Nat × Nat) : Option Trap × State :=
  let sec := pa / 64
  let s := unpoison s sec key
  match mapGet s.mem.poisoned sec with
  | some p => (some ⟨if p.iv then cIV else cUE, false, natW p.rec_⟩, s)
  | none =>
    let n := s.mg.rechead.toNat
    if s.mem.badSectors.contains sec then
      (some ⟨cUE, false, natW n⟩, putRecord s 1 cUE (sec * 64) who.1 who.2 [natW (if key = 0 then 0 else 1)])
    else if (sectorView s sec key).isNone then (some ⟨cIV, false, natW n⟩, putRecord s 2 cIV (sec * 64) who.1 who.2 [])
    else (none, s)

/-- The L2 line of a sector, both its sectors, is poisoned with the record that a fault names (R115, R118). A sector that is poisoned already keeps its
own record. -/
def poisonWith (s : State) (pa : Nat) (t : Trap) (key : Option Nat) : State :=
  let p : Poison := ⟨t.val.toNat, t.code == cIV, key⟩
  let o := otherWord (pa / 64)
  onMem s fun g => { g with poisoned := mapSet (if (mapGet g.poisoned o).isSome then g.poisoned else mapSet g.poisoned o p) (pa / 64) p }

/-- A write, merge, prefetch or scrub that meets a failing sector writes the record and poisons the line (R115, R374); `by_` is the key ID of a
prefetch or scrub, and `who` the core of a prefetch. -/
def poisonIfBad (s : State) (pa key : Nat) (by_ : Option Nat) (who : Nat × Nat) : State :=
  match sectorCheck s pa key who with
  | (some t, s') => poisonWith s' pa t by_
  | (none, s') => s'

/-- A sector that passed its check is from now on written under a key ID. -/
def rekey (s : State) (sec key : Nat) : State :=
  if mapGet s.mem.sectorKey sec = keyMark s key then s
  else match sectorView s sec key with
    | none => s
    | some l => onMem s fun g => { g with
        hbm := memWrites g.hbm (sec * 64) l
        sectorKey := match keyMark s key with
          | none => mapErase g.sectorKey sec
          | some m => mapSet g.sectorKey sec m }

/-- A sector takes bytes of a write at the home: a whole sector is written afresh under its key; a part of a failing one leaves the line poisoned
(R114, R115; log 7). -/
def sectorTakes (s : State) (pa n key sec : Nat) : State :=
  if pa ≤ sec * 64 ∧ sec * 64 + 64 ≤ pa + n then
    onMem s fun g => { g with
      badSectors := g.badSectors.filter fun b => b != sec
      poisoned := mapErase g.poisoned sec
      sectorKey := match keyMark s key with
        | none => mapErase g.sectorKey sec
        | some m => mapSet g.sectorKey sec m }
  else
    let s := poisonIfBad s (sec * 64) key none noCore
    if (mapGet s.mem.poisoned sec).isSome then s else rekey s sec key

/-- Write bytes at the home under a key ID (R114, R115). Granule tags clear (R105). -/
def hbmPut (s : State) (pa : Nat) (l : List Byte) (key : Nat) : State :=
  let n := l.length
  let secs := (List.range ((pa + n + 63) / 64 - pa / 64)).map fun j => pa / 64 + j
  let s := secs.foldl (fun s sec => sectorTakes s pa n key sec) s
  onMem s fun g => { g with hbm := memWrites g.hbm pa l, hbmTags := clearTags g.hbmTags pa n }

/-- A far-way word of a die. -/
def farGet (s : State) (die word : Nat) : Option FarWord := mapGet (mapGetD s.mem.far die []) word

/-- Set a far-way word. -/
def farSet (s : State) (die word : Nat) (f : FarWord) : State :=
  onMem s fun g => { g with far := mapSet g.far die (mapSet (mapGetD g.far die []) word f) }

/-- Drop a far-way word. -/
def farDrop (s : State) (die word : Nat) : State :=
  onMem s fun g => { g with far := mapSet g.far die (mapErase (mapGetD g.far die []) word) }

/-- Write one owned word back to its home and mark it shared (R147). -/
def wordBack (s : State) (die word : Nat) : State :=
  match farGet s die word with
  | some f => if f.owned then farSet (hbmPut s (word * 8) (toBytes f.data.toNat 8) f.key) die word { f with owned := false } else s
  | none => s

/-- A word is owned and carries the tag of a stored capability. -/
def ownsTag (s : State) (die word : Nat) : Bool :=
  match farGet s die word with
  | some f => f.owned && f.tag
  | none => false

/-- Write an owned word back to its home and mark it shared, and the other owned word of its granule with it, so that a capability reaches the home
whole, with its tag (R105, R122, R147). -/
def writeBack (s : State) (die word : Nat) : State :=
  match farGet s die word with
  | some f =>
    if f.owned then
      let tagged := ownsTag s die word && ownsTag s die (otherWord word)
      let s := wordBack (wordBack s die word) die (otherWord word)
      if tagged then onMem s fun g => { g with hbmTags := setAdd g.hbmTags (word / 2) } else s
    else s
  | none => s

/-- Recall a word from every die that owns it, except one (R147). -/
def recallWord (s : State) (word : Nat) (except : Option Nat) : State :=
  (List.range 4).foldl (fun s d => if some d = except then s else writeBack s d word) s

/-- Words that `n` bytes at `pa` touch. -/
def wordsOf (pa n : Nat) : List Nat := (List.range ((pa + n + 7) / 8 - pa / 8)).map fun j => pa / 8 + j

/-- Lines of 128 bytes that `n` bytes at `pa` touch. -/
def linesOf (pa n : Nat) : List Nat := (List.range ((pa + n + 127) / 128 - pa / 128)).map fun j => pa / 128 + j

/-- A byte with some of its bits replaced: `keep` masks the bits that stay. -/
def patchByte (old keep val : Byte) : Byte := (old &&& keep) ||| (val &&& ~~~keep)

/-- Bytes with some bits of each replaced. -/
def patchBytes (old : List Byte) (l : List (Byte × Byte)) : List Byte :=
  (List.range l.length).map fun j => patchByte (old.getD j 0) (l.getD j (0, 0)).1 (l.getD j (0, 0)).2

/-- Whole bytes, as bits to put over those that are there. -/
def wholeBytes (l : List Byte) : List (Byte × Byte) := l.map fun b => (0, b)

/-- Merge a home reduce line: words that dies own come home, then each partial combines with the stored word (R120, R147). -/
def mergeHome (s : State) (line : Nat) : State :=
  let d := homeDie (line * 128)
  match s.mem.reduce.find? fun r => r.die = d && r.line = line with
  | none => s
  | some r =>
    let s := onMem s fun g => { g with reduce := g.reduce.filter fun q => !(q.die = d && q.line = line) }
    r.parts.foldl (fun s p =>
      let pa := line * 128 + p.1
      let n := redSize r.typ
      let s := poisonIfBad (recallWord s (pa / 8) none) pa r.key none noCore
      hbmPut s pa (toBytes (redCombine r.typ r.op (ofBytes (plainBytes s pa n r.key)) p.2.toNat) n) r.key) s

/-- Add a partial to the reduce line of a die. In the home slice it clears its granule's tag (R105, R120). -/
def addPartial (s : State) (die pa key typ op : Nat) (v : Nat) : State :=
  let line := pa / 128
  let s := if homeDie pa = die then onMem s fun g => { g with hbmTags := clearTags g.hbmTags pa (redSize typ) } else s
  match s.mem.reduce.find? fun r => r.die = die && r.line = line with
  | some r =>
    let old := match mapGet r.parts (pa % 128) with
      | some w => w.toNat
      | none => redIdentity typ op
    let new := natW (redCombine typ op old v)
    onMem s fun g => { g with reduce := g.reduce.map fun q =>
      if q.die = die && q.line = line then { q with parts := mapSet q.parts (pa % 128) new } else q }
  | none =>
    onMem s fun g => { g with reduce := g.reduce ++ [⟨die, key, line, typ, op, [(pa % 128, natW (redCombine typ op (redIdentity typ op) v))]⟩] }

/-- A partial leaves the far ways for the line in its home slice; a line there of another operation, type or key merges first (R114, R120). Owned words
of a leased row are not recalled before the lease ends (R158). -/
def homePartial (s : State) (r : ReduceLine) (pa v : Nat) : State :=
  let h := homeDie pa
  let s := if isLeased s pa 8 then s else recallWord s (pa / 8) none
  let s := match s.mem.reduce.find? fun q => q.die = h && q.line = r.line with
    | some q => if q.typ = r.typ && q.op = r.op && q.key = r.key then s else mergeHome s r.line
    | none => s
  addPartial s h pa r.key r.typ r.op v

/-- Merge a far-way reduce line: into the home slice's line, but for a word that the die itself owns into that word (DESIGN CHOICE, log 83: R120 speaks of
the home slice's line alone, and the word's value has yet to reach the home) (R120, R152). -/
def mergeFar (s : State) (die line : Nat) : State :=
  if homeDie (line * 128) = die then s
  else match s.mem.reduce.find? fun r => r.die = die && r.line = line with
    | none => s
    | some r =>
      let s := onMem s fun g => { g with reduce := g.reduce.filter fun q => !(q.die = die && q.line = line) }
      r.parts.foldl (fun s p =>
        let pa := line * 128 + p.1
        match farGet s die (pa / 8) with
        | some f =>
          if f.owned then
            let sh := 8 * (pa % 8)
            let n := redSize r.typ
            let w := f.data.toNat
            let v := redCombine r.typ r.op (w / 2 ^ sh) p.2.toNat
            farSet s die (pa / 8) { f with data := natW (w - (w / 2 ^ sh % 2 ^ (8 * n)) * 2 ^ sh + v * 2 ^ sh), tag := false }
          else homePartial (farDrop s die (pa / 8)) r pa p.2.toNat
        | none => homePartial s r pa p.2.toNat) s

/-- An access by a core of a die waits for a bank lease and merges the reduce lines that the die's far ways hold of its lines (R120, R158). -/
def mergeNear (die pa n : Nat) : M Unit := do
  await_ (!isLeased (← get) pa n)
  modify fun s => (linesOf pa n).foldl (fun s l => mergeFar s die l) s

/-- Read `n` bytes of one sector at the home slice of an HBM address: waits for a lease, merges a reduce line, checks ECC and integrity
(R115, R120, R158). An error's record names `who`. -/
def homeReadFor (who : Nat × Nat) (pa n key : Nat) : M (List Byte) := do
  await_ (!isLeased (← get) pa n)
  modify fun s => mergeHome s (pa / 128)
  let r := sectorCheck (← get) pa key who
  set r.2
  match r.1 with
  | some t => throw (.trap t)
  | none => return plainBytes (← get) pa n key

/-- The same for the executing core, whose die merges its own reduce line first. -/
def homeRead (pa n key : Nat) : M (List Byte) := do
  let s ← get
  mergeNear (dieOf s.cur.core) pa n
  homeReadFor (coreOf s s.cur.core) pa n key

/-- Read `n` bytes of physical memory at their homes, sector by sector (R115, R120, R419). -/
def homeReads (pa n key fuel : Nat) : M (List Byte) := do
  match fuel with
  | 0 => return []
  | k + 1 =>
    if n = 0 then return []
    else if isHost pa then return memReads (← get).mem.host (pa % 2 ^ 51) n
    else
      let m := min n (64 - pa % 64)
      let b ← homeRead pa m key
      return b ++ (← homeReads (pa + m) (n - m) key k)

/-- Put bits over bytes at the home slice: waits for a lease, merges, recalls words that dies own before it reads them (R120, R147, R158, R351). -/
def homePatch (pa : Nat) (l : List (Byte × Byte)) (key : Nat) : M Unit := do
  await_ (!isLeased (← get) pa l.length)
  modify fun s =>
    let s := (linesOf pa l.length).foldl mergeHome s
    let s := (wordsOf pa l.length).foldl (fun s w => recallWord s w none) s
    let old := if l.all fun e => e.1 == 0 then [] else (List.range l.length).map fun j => (plainBytes s (pa + j) 1 key).headD 0
    hbmPut s pa (patchBytes old l) key

/-- Write at the home slice. -/
def homeWrite (pa : Nat) (l : List Byte) (key : Nat) : M Unit := homePatch pa (wholeBytes l) key

/-- Write bytes of physical memory at their homes, sector by sector, for a die's engine (R120, R419). -/
def homeWrites (die pa : Nat) (l : List Byte) (key fuel : Nat) : M Unit := do
  match fuel with
  | 0 => return
  | k + 1 =>
    if l.isEmpty then return
    else if isHost pa then modify fun s => onMem s fun g => { g with host := memWrites g.host (pa % 2 ^ 51) l }
    else
      let m := 64 - pa % 64
      mergeNear die pa (l.take m).length
      homeWrite pa (l.take m) key
      homeWrites die (pa + m) (l.drop m) key k

/-- The far-way words of a line that a die holds under another key ID. -/
def otherKey (s : State) (die line key : Nat) : Bool := (mapGetD s.mem.far die []).any fun p => p.1 / 16 = line && p.2.key != key

/-- An access with a different key ID to a line in the far ways first writes the line back and drops it (R114). -/
def farRekey (s : State) (die line key : Nat) : State :=
  if otherKey s die line key then
    (((mapGetD s.mem.far die []).map (·.1)).filter fun w => w / 16 = line).foldl (fun s w => farDrop (writeBack s die w) die w) s
  else s

/-- The word of a granule that a home read brought, put into a die's far ways as shared unless the die owns it. -/
def farPut (s : State) (die word key : Nat) (b : List Byte) : State :=
  match farGet s die word with
  | some f => if f.owned then s else farSet s die word ⟨false, natW (ofBytes b), key, s.mem.hbmTags.contains (word / 2), 0⟩
  | none => farSet s die word ⟨false, natW (ofBytes b), key, s.mem.hbmTags.contains (word / 2), 0⟩

/-- Bring a word into a die's far ways as shared, when it is absent or to be refreshed, and the other word of its granule with it, so that 16 bytes
and their tag are of one moment (R119, R122, R148). -/
def farFill (die word key : Nat) (refresh : Bool) : M FarWord := do
  modify fun s => farRekey s die (word / 16) key
  let stale := match farGet (← get) die word with
    | some f => refresh && !f.owned
    | none => true
  if stale then
    let g := word / 2 * 2
    let b ← homeRead (g * 8) 16 key
    modify fun s => farPut (farPut s die g key (b.take 8)) die (g + 1) key (b.drop 8)
  else pure ()
  return (farGet (← get) die word).getD ⟨false, 0, 0, false, 0⟩

/-- Bring the words of an access into a die's far ways. -/
def farFills (die key : Nat) (refresh : Bool) (l : List Nat) : M Unit := do
  match l with
  | [] => return
  | w :: r =>
    let _ ← farFill die w key refresh
    farFills die key refresh r

/-- Read words through the far ways: all of them once they are there, so that two words of a granule are of one moment; words of two granules are brought
anew for that (R122). -/
def farRead (die key : Nat) (refresh : Bool) (l : List Nat) : M (List Byte) := do
  farFills die key (refresh || l.any fun w => w / 2 != l.headD 0 / 2) l
  let s ← get
  return l.flatMap fun w => toBytes (((farGet s die w).map fun f : FarWord => f.data).getD 0).toNat 8

/-- An access to a leased row waits, and its instruction keeps in mind that it did: its loads then see what the bank unit has written, so a shared word of
its die does not serve them (R158, R159). -/
def awaitLease (pa n : Nat) : M Unit := do
  if isLeased (← get) pa n then
    modify fun s => onCur s fun x => { x with delayed := true }
    stall
  else return

/-- A core of die `die` reads `n` bytes of physical memory; a leased row is waited for (R117, R119, R148, R158). An address that is neither HBM nor
host memory reads zeros (R27). -/
def physRead (die pa n : Nat) (uc : Bool) (key : Nat) (refresh : Bool) : M (List Byte) := do
  let s ← get
  if isHost pa then return memReads s.mem.host (pa % 2 ^ 51) n
  else if !inHbm s pa then return List.replicate n 0
  else if atHome s die pa uc then homeReads pa n key (n + 1)
  else
    awaitLease pa n
    mergeNear die pa n
    let b ← farRead die key (refresh || (curCtx s).delayed) (wordsOf pa n)
    return (b.drop (pa % 8)).take n

/-- Put bits over bytes of a far-way word that the die owns from now on. Registering at the home brings a part-stored word up to date, so that its
write-back undoes no other die's store (R146, R147). -/
def farStore (die word key lo : Nat) (l : List (Byte × Byte)) (tag : Bool) : M Unit := do
  modify fun s => recallWord (mergeHome (farRekey s die (word / 16) key) (word / 16)) word (some die)
  let f ← if lo = 0 && l.length = 8 && l.all (fun e => e.1 == 0) then pure (⟨true, 0, key, tag, 0⟩ : FarWord) else farFill die word key true
  let old := toBytes f.data.toNat 8
  let new := old.take lo ++ patchBytes (old.drop lo) l ++ old.drop (lo + l.length)
  modify fun s => farSet s die word ⟨true, natW (ofBytes new), key, tag, s.mg.time⟩

/-- Store bytes word by word through the far ways. -/
def farStores (die key pa : Nat) (l : List (Byte × Byte)) (tag : Bool) (fuel : Nat) : M Unit := do
  match fuel with
  | 0 => return
  | k + 1 =>
    if l.isEmpty then return
    else
      let n := min (8 - pa % 8) l.length
      farStore die (pa / 8) key (pa % 8) (l.take n) tag
      farStores die key (pa + n) (l.drop n) tag k

/-- Set the granule tag of a stored capability (R105); any other store has cleared it. -/
def homeTag (pa : Nat) (cap : Option Bool) : M Unit := do
  match cap with
  | some b => modify fun s => onMem s fun g => { g with hbmTags := putTag g.hbmTags (pa / 16) b }
  | none => return

/-- A core of die `die` puts bits over bytes of physical memory; `through` writes a remote-homed word through to its home (R148, R351). -/
def physPatch (die pa : Nat) (l : List (Byte × Byte)) (uc : Bool) (key : Nat) (cap : Option Bool) (through : Bool) : M Unit := do
  let s ← get
  let n := l.length
  if isHost pa then modify fun s => onMem s fun g =>
    { g with host := memWrites g.host (pa % 2 ^ 51) (patchBytes (memReads g.host (pa % 2 ^ 51) n) l) }
  else if !inHbm s pa then return
  else
    mergeNear die pa n
    if atHome s die pa uc then
      homePatch pa l key
      homeTag pa cap
    else if through then
      modify fun s => (linesOf pa n).foldl (fun s a => farRekey s die a key) s
      homePatch pa l key
      homeTag pa cap
      modify fun s => (wordsOf pa n).foldl (fun s w => farDrop s die w) s
    else
      farStores die key pa l (cap == some true) (n + 1)
      match cap with
      | some _ => return
      | none => modify fun s =>
          -- the other word of a granule loses its tag with this one
          (wordsOf (pa / 16 * 16) ((pa + n + 15) / 16 * 16 - pa / 16 * 16)).foldl (fun s w => match farGet s die w with
            | some f => farSet s die w { f with tag := false }
            | none => s) s

/-- A core of die `die` writes bytes to physical memory. -/
def physWrite (die pa : Nat) (l : List Byte) (uc : Bool) (key : Nat) (cap : Option Bool) (through : Bool) : M Unit :=
  physPatch die pa (wholeBytes l) uc key cap through

/-- The tag of a granule as a die sees it: a word of it in the far ways carries its own (R105). Host memory holds no tags: a capability that is stored there
loses its own, and one that is loaded from there has none (DESIGN CHOICE, log 84: R105 gives tags to cell memory and HBM and does not speak of host pages). -/
def physTag (s : State) (die pa : Nat) (uc : Bool) : Bool :=
  let home := s.mem.hbmTags.contains (pa / 16)
  let word := fun w => match farGet s die w with
    | some f => f.tag
    | none => home
  if isHost pa || !inHbm s pa then false
  else if atHome s die pa uc then home
  else word (pa / 16 * 2) && word (pa / 16 * 2 + 1)

/-- Lines that TFETCH holds pinned on the wings of a die, each once: a line that two slots pin keeps one way (R148, R192). -/
def pinnedLines (s : State) (die : Nat) : List Nat :=
  (s.wings.flatMap fun p => if p.1 / 272 = die then p.2.pins.flatMap fun q => q.2 else []).eraseDups

/-- A reduce-state line in the far ways of a die (R120). -/
def isFarLine (die : Nat) (r : ReduceLine) : Bool := r.die == die && homeDie (r.line * 128) != die

/-- What a die's far ways would write back or merge must wait for the end of a bank lease: an owned word of a leased row, or a reduce line of one that
would make the home slice's line merge (R158). -/
def farWaits (s : State) (die : Nat) : Bool :=
  ((mapGetD s.mem.far die []).any fun p => p.2.owned && isLeased s (p.1 * 8) 8) ||
  s.mem.reduce.any fun r => isFarLine die r && isLeased s (r.line * 128) 128 &&
    s.mem.reduce.any fun q => q.die = homeDie (r.line * 128) && q.line = r.line && !(q.typ = r.typ && q.op = r.op && q.key = r.key)

/-- The owned words of a die are written back and its far-way reduce lines merge (R147, R150, R152). -/
def flushFar (s : State) (die : Nat) : State :=
  let s := ((mapGetD s.mem.far die []).filter fun p => p.2.owned).foldl (fun s p => writeBack s die p.1) s
  ((s.mem.reduce.filter (isFarLine die)).map (·.line)).foldl (fun s l => mergeFar s die l) s

/-- What the cores of a die have sent within a scope has arrived, and their REDs are performed (R145, R152). -/
def dieQuiet (s : State) (die sc : Nat) : Bool :=
  let mine := fun c : Nat => match localCore s c with
    | some k => dieOf k == die
    | none => false
  !(s.flights.any fun g => mine g.src.core && (sc == 3 || (localCore s g.dst).isSome)) && !(s.reds.any fun r => mine r.src.core)

/-- A release of scope .dv or .sy by a context of a die (R147, R150, R152). It waits for rows under lease. -/
def releaseDie (die : Nat) : M Unit := do
  await_ (!farWaits (← get) die)
  modify fun s => flushFar s die

/-- An acquire of scope .dv or .sy: the die's shared words are dropped, except in pinned lines (R148). -/
def acquireDie (s : State) (die : Nat) : State :=
  let pins := pinnedLines s die
  onMem s fun g => { g with far := mapSet g.far die ((mapGetD g.far die []).filter fun p => p.2.owned || pins.contains (p.1 / 16)) }

/-- One atomic read-modify-write of a RED at the home slice or the host (R120). -/
def redDirect (pa typ op v key : Nat) : M Unit := do
  let n := redSize typ
  if isHost pa then
    modify fun s => onMem s fun g =>
      { g with host := memWrites g.host (pa % 2 ^ 51) (toBytes (redCombine typ op (ofBytes (memReads g.host (pa % 2 ^ 51) n)) v) n) }
  else
    await_ (!isLeased (← get) pa n)
    modify fun s =>
      let s := recallWord (mergeHome s (pa / 128)) (pa / 8) none
      let s := poisonIfBad s pa key none noCore
      hbmPut s pa (toBytes (redCombine typ op (ofBytes (plainBytes s pa n key)) v) n) key

/-- A RED reaches its line, in the home slice or in the far ways of its die (R114, R120, R152). While the row is leased it is held in its line, and one
that would first make the line merge is held back (R158). -/
def redLine (die pa typ op v key : Nat) : M Unit := do
  let line := pa / 128
  let leased := isLeased (← get) (line * 128) 128
  let other := fun r : ReduceLine => r.die = die && r.line = line && !(r.typ = typ && r.op = op && r.key = key)
  await_ (!(leased && ((← get).mem.reduce.any other || otherKey (← get) die line key)))
  modify fun s =>
    let s := if leased then s else if homeDie pa = die then recallWord s (pa / 8) none else farRekey s die line key
    let s := if s.mem.reduce.any other then (if homeDie pa = die then mergeHome s line else mergeFar s die line) else s
    addPartial s die pa key typ op v

end Sys2Proof.Machine
end

