-- ==== Sys2Proof/Machine/Translate.lean ====
section
/-! DEFINITION. Address translation: page-table walks and the translation caches (R111 to R114). -/

namespace Sys2Proof.Machine

/-- One field of a page-table entry or doubleword is set. -/
def pteBit (p : W64) (n : Nat) : Bool := bitAt p n

/-- Reserved bits of an entry at a level (R112). -/
def pteReserved (p : W64) (lvl : Nat) : Bool :=
  bits p 63 60 != 0 || bits p 11 10 != 0 || pteBit p 8 || pteBit p 6 || (lvl != 1 && pteBit p 5) || (lvl = 1 && pteBit p 4)

/-- PA[51:12] of an entry, as an address. -/
def ptePa (p : W64) : Nat := bits p 51 12 * 4096

/-- The translation of a leaf at a level, or none for PAGE (R111). -/
def leafEntry (s : State) (asid va lvl : Nat) (p : W64) : Option TlbEntry :=
  let size := if lvl = 3 then 2 ^ 30 else if lvl = 2 then 2 ^ 21 else if pteBit p 5 then 2 ^ 16 else 2 ^ 12
  if lvl = 4 then none
  else if lvl = 3 ∧ ptePa p % 2 ^ 30 ≠ 0 ∨ lvl = 2 ∧ ptePa p % 2 ^ 21 ≠ 0 then none
  else
    let base := ptePa p / size * size
    if isHost (base + va % size) || inHbm s (base + va % size) then some ⟨asid, va / size * size, size, base, p⟩ else none

/-- A page-table entry, read at its home as plaintext (R111); an address that is neither HBM nor host memory reads 0. -/
def readPte (pa : Nat) : M W64 := do
  let s ← get
  if isHost pa then return natW (ofBytes (memReads s.mem.host (pa % 2 ^ 51) 8))
  else if inHbm s pa then return natW (ofBytes (← homeRead pa 8 0))
  else return 0

/-- The walk of R111 from level `lvl` down, reading entries at their homes as plaintext; PAGE names the virtual address. -/
def walk (asid va t lvl : Nat) (a : W64) : M TlbEntry := do
  match lvl with
  | 0 => fault cPAGE a
  | k + 1 =>
    let pa := t + 8 * (va / 2 ^ (12 + 9 * k) % 512)
    let p ← readPte pa
    if !pteBit p 0 || pteReserved p (k + 1) then fault cPAGE a
    else if k = 0 || pteBit p 4 then
      match leafEntry (← get) asid va (k + 1) p with
      | some e => return e
      | none => fault cPAGE a
    else walk asid va (ptePa p) k a

/-- A cached entry covers an address of an address space. -/
def covers (e : TlbEntry) (asid va : Nat) : Bool := e.asid = asid && decide (e.va ≤ va) && decide (va < e.va + e.size)

/-- Put an entry into the micro-TLB of a site (R113). -/
def fillMicro (s : State) (site : Nat) (e : TlbEntry) : State :=
  let f := getFront s site
  putFront s site { f with tlb := e :: f.tlb.take 31 }

/-- Put an entry into the TLB of a cluster (R113). -/
def fillCluster (s : State) (n : Nat) (e : TlbEntry) : State :=
  let k := getCluster s n
  putCluster s n { k with tlb := e :: k.tlb.take 2047 }

/-- The entry that translates a virtual address in address space `q` for core `c`: cached, or walked and then cached (R111, R113). -/
def lookupIn (q c va : Nat) (a : W64) : M TlbEntry := do
  let s ← get
  let root := vecGet s.mem.troot (q % 16) 0
  let site := siteOf s c
  let cl := clusterOf site
  if !bitAt root 0 then fault cPAGE a
  else match (getFront s site).tlb.find? fun e => covers e q va with
    | some e => return e
    | none =>
      match (getCluster s cl).tlb.find? fun e => covers e q va with
      | some e =>
        modify fun s => fillMicro s site e
        return e
      | none =>
        let e ← walk q va (bits root 51 12 * 4096) 4 a
        modify fun s => fillMicro (fillCluster s cl e) site e
        return e

/-- The address space of the launch on a core. -/
def queueOf (c : Nat) (a : W64) : M Nat := do
  match (getCore (← get) c).launch with
  | none => fault cPAGE a
  | some l => return l.queue

/-- The entry for the launch on core `c`. -/
def lookup (c va : Nat) (a : W64) : M TlbEntry := do lookupIn (← queueOf c a) c va a

/-- The page of an entry permits an access, and its key is loaded (R104 step 8, R114). -/
def pagePermits (s : State) (p : W64) (k : Access) : Bool :=
  let key := bits p 59 52
  !((k.read && !pteBit p 1) || (k.write && !pteBit p 2) || (k.fetch && !pteBit p 3) || (k.storeCap && !pteBit p 9) ||
    (key != 0 && (mapGet s.mem.keys key).isNone))

/-- Steps 7 and 8 of R104 for a global address: the physical place and the page's CAPST bit. -/
def translate (c va : Nat) (a : W64) (k : Access) : M (Place × Bool) := do
  let e ← lookup c va a
  if pagePermits (← get) e.pte k then return (.phys (e.pa + (va - e.va)) (pteBit e.pte 7) (bits e.pte 59 52), pteBit e.pte 9)
  else fault cPERM a

/-- Drop the entries that `drop` selects from every cache of the device (R113). -/
def dropEntries (s : State) (drop : TlbEntry → Bool) : State :=
  { s with
    fronts := s.fronts.map fun p => (p.1, { p.2 with tlb := p.2.tlb.filter fun e => !drop e })
    clusters := s.clusters.map fun p => (p.1, { p.2 with tlb := p.2.tlb.filter fun e => !drop e }) }

end Sys2Proof.Machine
end

