-- ==== Sys2Proof/Machine/Engine.lean ====
section
/-! DEFINITION. Reads of engine and system space (R27, R116, R278, R281). Offsets not listed read 0. -/

namespace Sys2Proof.Machine

/-- A doubleword of a queue block (R27). -/
def queueRead (q : Queue) (off : Nat) : W64 :=
  match off / 8 with
  | 0 => q.qbase
  | 1 => q.qsize.setWidth 64
  | 2 => q.qhead.setWidth 64
  | 3 => q.qtail.setWidth 64
  | 4 => q.qprio.setWidth 64
  | 5 => q.qstat.setWidth 64
  | 6 => q.qdone
  | _ => 0

/-- LINKp (R278). -/
def linkWord (l : Link) : W64 := natW (l.lanes % 32 + (if l.degraded then 2 ^ 8 else 0) + (if l.down then 2 ^ 9 else 0))

/-- A 0 or 1 as a doubleword. -/
def boolW (b : Bool) : W64 := if b then 1 else 0

/-- The doubleword at an offset of engine and system space. -/
def engineRead (s : State) (off : Nat) : W64 :=
  if off < 0x400 then queueRead (getQueue s (off / 64)) (off % 64)
  else if 0x800 ≤ off ∧ off < 0x900 then (if off % 16 = 0 then vecGet s.mem.troot ((off - 0x800) / 16) 0 else 0)
  else if 0x1000 ≤ off ∧ off < 0x1800 then
    let c := (off - 0x1000) / 0x200 * 256 + (off - 0x1000) % 0x200 / 2
    natW ((tableEntry s c).toNat + (tableEntry s (c + 1)).toNat * 2 ^ 16 + (tableEntry s (c + 2)).toNat * 2 ^ 32 +
      (tableEntry s (c + 3)).toNat * 2 ^ 48)
  else if off = 0x2000 then s.mem.hbmtop
  else if 0x2008 ≤ off ∧ off < 0x2028 then (vecGet s.mem.l2ways ((off - 0x2008) / 8) 0).setWidth 64
  else if off = 0x3000 then s.mg.enovh
  else if off = 0x3008 then s.mg.enpkg
  else if off = 0x3010 then s.mg.pwrnow
  else if off = 0x3018 then s.mg.pwrlim.setWidth 64
  else if off = 0x3020 then boolW s.mg.mgcfg
  else if 0x3028 ≤ off ∧ off < 0x3048 then boolW (vecGet s.mg.diectl ((off - 0x3028) / 8) false)
  else if 0x3048 ≤ off ∧ off < 0x3068 then
    let d := (off - 0x3048) / 8
    natW ((if vecGet s.mg.parked d false then 1 else 0) + (if vecGet s.mg.diePending d false then 2 else 0))
  else if off = 0x3068 then s.mg.preq.setWidth 64
  else if off = 0x3070 then s.mg.pstat.setWidth 64
  else if off = 0x3078 then s.mg.rechead
  else if 0x3100 ≤ off ∧ off < 0x3180 then linkWord (vecGet s.mg.links ((off - 0x3100) / 8) ⟨false, 0, false, true⟩)
  else if 0x100000 ≤ off ∧ off < 0x200000 then
    match mapGet s.mg.records ((off - 0x100000) / 64) with
    | some r => r.dwords.getD (off % 64 / 8) 0
    | none => 0
  else 0

end Sys2Proof.Machine
end

