-- ==== Sys2Proof/Machine/Tasks.lean ====
section
/-! DEFINITION. Starting helpers and tasks, commit order, HORIZON, read sets, held effects and rollback (R35, R36, R39 to R46, R225, R242). -/

namespace Sys2Proof.Machine

/-- HORIZON (R43): the least last timestamp of all bound senders on all ORD channels. -/
def horizon (k : Core) : Nat :=
  ((List.range 15).flatMap fun chn =>
    if chanOrd k chn then (List.range (boundSenders k chn).length).map fun j => mapGetD k.senderLast (chn * 4 + j) 0 else []).foldl min
    (2 ^ 48 - 1)

/-- The class entry is VALID (R36). -/
def classValid (k : Core) (cls : Nat) : Bool := bitAt (mapGetD k.classes cls 0) 63
/-- The class is ORDERED (R36). -/
def classOrdered (k : Core) (cls : Nat) : Bool := bitAt (mapGetD k.classes cls 0) 62
/-- The class is FIRST (R36). -/
def classFirst (k : Core) (cls : Nat) : Bool := bitAt (mapGetD k.classes cls 0) 61
/-- ENTRY of a class (R36). -/
def classEntry (k : Core) (cls : Nat) : W64 := natW (bits (mapGetD k.classes cls 0) 47 1 * 2)

/-- The message starts an ordered task: a MSGT to an ORDERED class (R38). -/
def msgOrdered (k : Core) (m : Msg) : Bool := m.kind == .msgt && classOrdered k m.cls

/-- Commit order (R42): timestamp, FIRST, sender core number, sequence as a serial number. -/
def commitBefore (k : Core) (a b : Msg) : Bool :=
  if a.ts != b.ts then decide (a.ts < b.ts)
  else if classFirst k a.cls != classFirst k b.cls then classFirst k a.cls
  else if a.src.core != b.src.core then decide (a.src.core < b.src.core)
  else let d := (b.seq + 2 ^ 32 - a.seq) % 2 ^ 32; decide (1 ≤ d) && decide (d ≤ 2 ^ 31 - 1)

/-- Every accepted ordered message of a core whose commit has not completed: queued, or run by a task (R42). -/
def orderedMsgs (k : Core) : List Msg :=
  (k.queues.flatMap fun p => p.2.filter fun m => msgOrdered k m) ++
    k.ctxs.filterMap fun p => match p.2.task with
      | some t => if t.ordered && p.2.status == .task then some t.msg else none
      | none => none

/-- The message is first in commit order. -/
def isFirst (k : Core) (m : Msg) : Bool := !(orderedMsgs k).any fun q => commitBefore k q m

/-- A helper as START or a dispatch finds it (R35, R242): reset values, ENERGY kept, TRAPVEC of the control context. Parcels fetched ahead stay, since
only a FENCE of scope .sy makes a context fetch new bytes (R126; log 62). -/
def helperReset (s : State) (id : CtxId) : Ctx :=
  let old := getCtx s id
  { ctxReset (coreNum s id.core) id.cx with
    epoch := (getCore s id.core).epochs + 1
    energy := old.energy
    fetched := old.fetched
    trapvec := (getCtx s ⟨id.core, 0⟩).trapvec }

/-- A context begins a new use (R38). -/
def beginCtx (s : State) (id : CtxId) (x : Ctx) : State := onCore (putCtx s id x) id.core fun k => { k with epochs := k.epochs + 1 }

/-- The launch argument capability of a core (R32). -/
def argCap (s : State) (c : Nat) : Reg := ((getCore s c).launch.map (·.arg)).getD regNull

/-- A dispatched task at its entry (R40, R41). -/
def taskStart (s : State) (id : CtxId) (m : Msg) : State :=
  let k := getCore s id.core
  let x := helperReset s id
  let reg := fun n => dataReg (m.payload.getD n 0)
  let c := x.c
  let c := vecSet (vecSet (vecSet (vecSet c 1 (reg 0)) 2 (reg 1)) 3 (reg 2)) 4 (reg 3)
  let c := vecSet (vecSet (vecSet c 5 (dataReg (natW m.src.core))) 6 (dataReg (natW (m.cls + 64 * m.chn)))) 7 (argCap s id.core)
  beginCtx s id { x with
    status := .task
    c := c
    pc := if m.kind == .callat then m.entry else classEntry k m.cls
    tstamp := BitVec.ofNat 48 m.ts
    task := some { msg := m, ordered := msgOrdered k m, first := classFirst k m.cls, committing := false, finished := false,
                   waitCommit := msgOrdered k m && decide (2 ≤ m.rolls), reads := [], held := [], opening := none } }

/-- A context stands at a boundary between instructions where it can be stopped with no fixed-latency write pending (R70, R249; log 64). A speculative task that
stalls at a fault part-way through a widened instruction stands where it can be saved too (R48, R248). -/
def atBoundary (x : Ctx) : Bool :=
  landsNow x && match x.waiting with
  | some (.stores _ _) => false
  | some (.leased _) => false
  | some (.part _ _ _ _) => isSpec x
  | _ => true

/-- Roll a speculative task back: its held effects and read set are discarded and it restarts with its message; after two rollbacks it
restarts only once it is no longer speculative (R45). -/
def rollback (s : State) (id : CtxId) : State :=
  match (getCtx s id).task with
  | some t => taskStart (withdraw s id) id { t.msg with rolls := t.msg.rolls + 1 }
  | none => s

/-- A write intersects an entry: the same block, or the same row group in a sub-array of the member wing (R225). -/
def meets (e w : ReadEntry) : Bool :=
  match e, w with
  | .block a, .block b => a == b
  | .group a g, .group b h => g == h && a.any b.contains
  | _, _ => false

/-- A write intersects an entry of a read set. -/
def hits (reads : List ReadEntry) (w : List ReadEntry) : Bool := w.any fun e => reads.any fun r => meets r e

/-- Roll back every speculative task of a core whose read set a write of others meets (R45). -/
def rollbackCore (s : State) (c : Nat) (w : List ReadEntry) (by_ : Option CtxId) : State :=
  ((getCore s c).ctxs.filter fun p => isSpec p.2 && some (⟨c, p.1⟩ : CtxId) != by_ && (match p.2.task with
    | some t => hits t.reads w
    | none => false)).foldl (fun s p => rollback s ⟨c, p.1⟩) s

/-- The 64-byte blocks of cell memory that a write touches. -/
def blocksOf (off n : Nat) : List ReadEntry := (List.range ((off + n + 63) / 64 - off / 64)).map fun j => .block (off / 64 + j)

/-- Bytes are written to a core's cell memory: granule tags clear unless a capability is stored, and speculative readers roll back
(R45, R105, R129). -/
def cellPut (s : State) (c off : Nat) (l : List Byte) (cap : Option Bool) (by_ : Option CtxId) : State :=
  let s := onCore s c fun k => { k with
    cell := memWrites k.cell off l
    tags := match cap with
      | some b => putTag k.tags (off / 16) b
      | none => clearTags k.tags off l.length }
  rollbackCore s c (blocksOf off l.length) by_

/-- Hold-buffer entries of a list of effects (R44, R388). -/
def heldEntries (l : List Effect) : Nat :=
  (l.filter fun e => match e with
    | .buf _ shares => !shares
    | _ => true).length

/-- Hold-buffer entries in use on a core (R44). -/
def heldCount (k : Core) : Nat :=
  (k.ctxs.map fun p => match p.2.task with
    | some t => if p.2.status == .task then heldEntries t.held else 0
    | none => 0).foldl (· + ·) 0

/-- The executing speculative task has filled its share or its read set: from now on it stalls until it is no longer speculative (R44). -/
def taskFull {α : Type} : M α := do
  setMe fun x => { x with task := x.task.map fun t => { t with full := true } }
  stall

/-- Where the stores of a buffer entry go, if it is one, with their bytes. -/
def storePlaces (b : BufKind) : List (Place × Nat) :=
  match b with
  | .store p l _ _ => [(p, l.length)]
  | .patch p l => [(p, l.length)]
  | .split p l q m => [(p, l.length), (q, m.length)]
  | _ => []

/-- Places of a held effect that have been translated. -/
def effectPlaces (e : Effect) : List Place :=
  match e with
  | .buf b _ => (storePlaces b).map (·.1)
  | .red r => [r.place]
  | _ => []

/-- Cached translations of the executing core's launch that give the page of one of the places (R113). -/
def entriesOf (s : State) (l : List Place) : List TlbEntry :=
  let site := siteOf s s.cur.core
  ((getFront s site).tlb ++ (getCluster s (clusterOf site)).tlb).filter fun e =>
    ((curCore s).launch.any fun n => n.queue = e.asid) && l.any fun p => match p with
      | .phys a _ _ => decide (e.pa ≤ a) && decide (a < e.pa + e.size)
      | _ => false

/-- The executing speculative task keeps in mind the translations that its held accesses have used (R44, R113). -/
def recordUsed (l : List Place) : M Unit := do
  let s ← get
  if l.isEmpty || !isSpec (curCtx s) then return
  else setMe fun x => { x with task := x.task.map fun t => { t with used := (t.used ++ entriesOf s l).eraseDups } }

/-- Hold one effect of the executing speculative task; a task whose share is full stalls (R44). -/
def holdEffect (e : Effect) : M Unit := do
  let k ← myCore
  let x ← me
  match x.task with
  | none => return
  | some t =>
    let used := heldCount k
    let room := if isFirst k t.msg then decide (used + 1 ≤ 512) else decide (used + 1 + 64 ≤ 512)
    if t.full || !(heldEntries [e] == 0 || room) then taskFull
    else
      recordUsed (effectPlaces e)
      setMe fun x => { x with task := x.task.map fun t => { t with held := t.held ++ [e] } }

/-- Record reads of the executing speculative task; a full read set stalls it (R44). -/
def recordReads (l : List ReadEntry) : M Unit := do
  let x ← me
  if isSpec x then
    match x.task with
    | none => return
    | some t =>
      let new := l.filter fun e => !t.reads.contains e
      if t.full || decide (64 < t.reads.length + new.eraseDups.length) then taskFull
      else setMe fun x => { x with task := x.task.map fun t => { t with reads := t.reads ++ new.eraseDups } }
  else return

end Sys2Proof.Machine
end

