-- ==== Sys2Proof/Machine/Mem.lean ====
section
/-! DEFINITION. Loads, stores and fetches of a context: the checks of R104, forwarding from its own buffered and held stores, the store
buffer, the hold buffers (R62, R105, R110, R121 to R131, R143 to R148). -/

namespace Sys2Proof.Machine

/-- The die of the executing core. -/
def myDie : M Nat := do return dieOf (← get).cur.core

/-- An access to the undo log of a twinned core (R110). -/
def undoLog (s : State) (num off n : Nat) : Bool :=
  match localCore s num with
  | some c => (getCore s c).twin.isSome && decide (0xF0000 < off + n)
  | none => false

/-- All steps of R104 for `n` bytes at `a` through general register number `r`: the place, and the page's CAPST bit. -/
def access (cap : Reg) (r : Nat) (a : W64) (n : Nat) (k : Access) : M (Place × Bool) := do
  let s ← get
  let sp ← orFault (checkCap s s.cur.core cap r a n k)
  match sp with
  | .global va => translate s.cur.core va a k
  | .cell d o =>
    if d = coreNum s s.cur.core && undoLog s d o n then fault cPERM a
    else return (.cell d o, true)
  | .engine o => return (.engine o, true)

/-- The same for a map's base capability, whose register is a map register. -/
def accessWord (cap : W128) (tag : Bool) (r : Nat) (a : W64) (n : Nat) (k : Access) : M (Place × Bool) :=
  access ⟨cap, tag⟩ r a n k

/-- A held effect that is a buffered one. -/
def heldBuf (e : Effect) : Option BufKind :=
  match e with
  | .buf b _ => some b
  | _ => none

/-- Effects that the executing context has issued and its task or its pair holds, oldest first (R44, R258). -/
def ownHeld (s : State) : List Effect :=
  (match (curCtx s).task with
    | some t => t.held
    | none => []) ++
  (match (curCore s).twin with
    | some t => t.held
    | none => [])

/-- Blocks of a BPST of a sender that wait behind the tail of the store buffer (R128). -/
def tailKinds (k : Core) (f : Sender) : List BufKind :=
  match k.tail with
  | some t => if t.src = f then t.blocks.map fun b => .wing t.op b.1 b.2 else []
  | none => []

/-- Stores of the executing context that have not left its store buffer or a hold buffer, oldest first (R124, R128, R44). -/
def ownStores (s : State) : List BufKind :=
  let f := senderOf s s.cur
  let k := curCore s
  (k.buf.filter fun e => e.src = f).map (·.kind) ++ tailKinds k f ++ (ownHeld s).filterMap heldBuf

/-- A place as a line of addresses: which memory, and the address within it. -/
def placeAddr (p : Place) : Nat × Nat :=
  match p with
  | .cell c o => (c + 2, o)
  | .phys a _ _ => (0, a)
  | .engine o => (1, o)

/-- The bits that a store puts over bytes from a place on and that overlap a load, as offset, bits kept and value (R124). -/
def overlapAt (p : Place) (n : Nat) (at_ : Place) (l : List (Byte × Byte)) : List (Nat × Byte × Byte) :=
  let q := placeAddr p
  let r := placeAddr at_
  if r.1 = q.1 then
    (List.range l.length).filterMap fun j => if q.2 ≤ r.2 + j ∧ r.2 + j < q.2 + n then some (r.2 + j - q.2, l.getD j (0, 0)) else none
  else []

/-- The bytes of one buffered store that overlap a load: `none` when its data have not arrived (R124). -/
def overlap (s : State) (p : Place) (n : Nat) (b : BufKind) : Option (List (Nat × Byte × Byte)) :=
  let q := placeAddr p
  match b with
  | .store at_ l _ _ => some (overlapAt p n at_ (wholeBytes l))
  | .patch at_ l => some (overlapAt p n at_ l)
  | .split at_ l next m => some (overlapAt p n at_ l ++ overlapAt p n next m)
  | .wing _ blk filled =>
    if q.1 = coreNum s s.cur.core + 2 ∧ q.2 < blk * 64 + 64 ∧ blk * 64 < q.2 + n then
      match filled with
      | none => none
      | some m => some (m.filterMap fun p =>
          if q.2 ≤ blk * 64 + p.1 ∧ blk * 64 + p.1 < q.2 + n then some (blk * 64 + p.1 - q.2, 0, p.2) else none)
    else some []
  | _ => some []

/-- Put one forwarded byte over what earlier stores forward to it. -/
def addForward (m : SMap (Byte × Byte)) (e : Nat × Byte × Byte) : SMap (Byte × Byte) :=
  let old := mapGetD m e.1 (0xFF#8, 0#8)
  mapSet m e.1 (old.1 &&& e.2.1, patchByte old.2 e.2.1 e.2.2)

/-- Forwarded bits of a load, by offset: the bits that memory gives, and the value of the others. A load waits for a wing store whose data
have not arrived. -/
def forwards (p : Place) (n : Nat) (l : List BufKind) (acc : SMap (Byte × Byte)) : M (SMap (Byte × Byte)) := do
  match l with
  | [] => return acc
  | b :: r =>
    match overlap (← get) p n b with
    | none => stall
    | some o => forwards p n r (o.foldl addForward acc)

/-- Bytes with forwarded ones put in. -/
def overlay (base : List Byte) (f : SMap (Byte × Byte)) : List Byte :=
  (List.range base.length).map fun j =>
    match mapGet f j with
    | some e => patchByte (base.getD j 0) e.1 e.2
    | none => base.getD j 0

/-- The granule tag as the context's own latest store to it leaves it, else `t` (R105, R124). -/
def forwardTag (s : State) (p : Place) (l : List BufKind) (t : Bool) : Bool :=
  l.foldl (fun t b =>
    if (overlap s p 16 b).all List.isEmpty then t
    else match b with
      | .store _ _ cap _ => cap.getD false
      | _ => false) t

/-- Entries of the context in the store buffer have all left (R131). -/
def bufEmpty (s : State) (f : Sender) : Bool :=
  let k := match localCore s f.core with
    | some c => getCore s c
    | none => coreReset
  !(k.buf.any fun e => e.src = f) && !(match k.tail with
    | some t => t.src = f
    | none => false)

/-- Wait until every entry that the context placed in the buffer has left it, and been performed (R131, R138). -/
def drainOwn : M Unit := do
  let s ← get
  let f ← meSender
  await_ (bufEmpty s f && !(s.flights.any fun g => g.src = f && g.inDie))

/-- An instruction of a twinned core that waits for effects which the pair still holds ends the interval and waits for its checkpoint
(R258, DEDUCED, log 21). -/
def twinFlush : M Unit := do
  match (← myCore).twin with
  | none => return
  | some t =>
    if t.held.isEmpty then return
    else
      setCore fun k => { k with twin := k.twin.map fun w => { w with due := true } }
      stall

/-- Lines of physical memory that `n` bytes from a place on touch. -/
def placeLines (p : Place) (n : Nat) : List Nat :=
  match p with
  | .phys a _ _ => linesOf a n
  | _ => []

/-- A line that an access to physical memory touches holds a RED of the executing context that has not been performed. A held one is waited for too: a
speculative task until it commits, a twinned pair until its checkpoint (R123, R152). -/
def redPending (p : Place) (n : Nat) : M Bool := do
  let s ← get
  let f ← meSender
  let meets := fun q : Place => (placeLines q 1).any (placeLines p n).contains
  let heldRed := fun e : Effect => match e with
    | .red r => meets r.place
    | _ => false
  if (match (curCore s).twin with
      | some t => t.held.any heldRed
      | none => false) then twinFlush else pure ()
  return s.reds.any (fun r => r.src = f && meets r.place) ||
    (match (curCtx s).task with
      | some t => t.held.any heldRed
      | none => false)

/-- The narrowest scope that holds a core and a core number (R142, R144). -/
def scopeTo (s : State) (c dst : Nat) : Nat :=
  match localCore s dst with
  | some d => if d = c then 0 else if dieOf d = dieOf c then 1 else 2
  | none => 3

/-- The scope at which a buffered effect of a core is a release, if it is one (R144, R239). -/
def releaseScope (s : State) (c : Nat) (b : BufKind) : Option Nat :=
  match b with
  | .store _ _ _ rel => rel
  | .msg m => some (scopeTo s c m.dst)
  | .arrive _ _ home => some (scopeTo s c home)
  | _ => none

/-- A sender has a RED on its way that it issued before the `n`th entry of its core's store buffer. -/
def redsBefore (s : State) (f : Sender) (n : Nat) : Bool := s.reds.any fun r => r.src = f && decide (r.behind ≤ n)

/-- The number of the next entry of a core's store buffer. -/
def bufNext (k : Core) : Nat := k.left + k.buf.length

/-- Lines of physical memory that the stores of a buffer entry touch. -/
def storeLines (b : BufKind) : List Nat := (storePlaces b).flatMap fun p => placeLines p.1 p.2

/-- A store to a remote-homed word or to host memory, which is not in the die order of a die (R141). -/
def outOfOrder (die : Nat) (b : BufKind) : Bool :=
  (storePlaces b).any fun p => match p.1 with
    | .phys pa _ _ => isHost pa || homeDie pa != die
    | _ => false

/-- Something before a release of scope `sc` is not performed yet for the agents of its scope. Within the die that is a RED, or a store that is not in die
order; beyond it anything that stands before it, what the die's cores have sent, their REDs, or a row under lease that keeps a word of the die from going
home (R141, R145, R150, R158). `first` tells that nothing stands before it, `loose` that a RED or such a store does. -/
def releaseWaits (s : State) (sc : Nat) (first loose : Bool) : Bool :=
  let die := dieOf s.cur.core
  loose || decide (2 ≤ sc) && (!first || !dieQuiet s die sc || farWaits s die)

/-- A release of the executing context still stands in the buffer, and something before it is not performed yet for the agents of its scope (R145). -/
def releasePending (s : State) : Bool :=
  let k := curCore s
  let f := senderOf s s.cur
  (List.range k.buf.length).any fun j =>
    match k.buf[j]? with
    | some e => e.src = f && match releaseScope s s.cur.core e.kind with
      | some sc => releaseWaits s sc (decide (j = 0)) (redsBefore s f (k.left + j) || (k.buf.take j).any fun b => outOfOrder (dieOf s.cur.core) b.kind)
      | none => false
    | none => false

/-- Among held effects, a release has something before it that its scope has yet to see: the pair's checkpoint lets it out (R145, R258). -/
def releaseHeld (s : State) (l : List Effect) : Bool :=
  (List.range l.length).any fun j =>
    match (l[j]?).bind heldBuf with
    | some b => (match releaseScope s s.cur.core b with
      | some sc => decide (2 ≤ sc) && decide (j ≠ 0) || (l.take j).any fun e => match e with
        | .red _ => true
        | .buf b _ => outOfOrder (dieOf s.cur.core) b
        | _ => false
      | none => false)
    | none => false

/-- Scopes beyond the die of the releases of the executing context that are still buffered, or held by the primary of a pair. -/
def wideReleases (s : State) : List Nat :=
  let f := senderOf s s.cur
  let held := match (curCore s).twin with
    | some t => if t.primary then t.held.filterMap heldBuf else []
    | none => []
  (((((curCore s).buf.filter fun e => e.src = f).map (·.kind)) ++ held).filterMap (releaseScope s s.cur.core)).filter fun sc => decide (2 ≤ sc)

/-- What comes before a buffered release beyond the die is performed there now: the die's owned words go home and its reduce lines merge. The release's own
store may go on waiting (R124, R145, R147, R150). -/
def releaseNow (s : State) : State := if (wideReleases s).isEmpty then s else flushFar s (dieOf s.cur.core)

/-- A load waits until what comes before an earlier release of its context is performed: held ones of a pair leave at its checkpoint, and the primary waits
for both cores (R145, R256, R258). -/
def afterRelease : M Unit := do
  let s ← get
  match (curCore s).twin with
  | some t =>
    if releaseHeld s t.held then twinFlush else pure ()
    await_ (!(wideReleases s).any fun sc => releaseWaits s sc true false)
  | none => pure ()
  await_ (!releasePending s)
  modify releaseNow

/-- A release of scope `sc` by a context of a die, behind the first `n` entries of its core's store buffer (R144, R145, R150, R152): its REDs are
performed; beyond the die, what the die's cores have sent within the scope has arrived, their REDs are performed, and the die's owned words are
written back. -/
def releaseAt (f : Sender) (n die sc : Nat) : M Unit := do
  await_ (!redsBefore (← get) f n)
  if sc < 2 then return
  else
    await_ (dieQuiet (← get) die sc)
    releaseDie die

/-- The place lies in cell memory. -/
def isCellPlace (p : Place) : Bool :=
  match p with
  | .cell _ _ => true
  | _ => false

/-- A held effect that stores to engine space. -/
def heldEngine (e : Effect) : Bool :=
  match e with
  | .buf (.store (.engine _) _ _ _) _ => true
  | _ => false

/-- Read the data of a load at a checked place (R119, R123, R124, R139, R148, R152). -/
def loadPlace (p : Place) (n : Nat) (refresh : Bool) : M (List Byte) := do
  afterRelease
  let s ← get
  let f ← forwards p n (ownStores s) []
  match p with
  | .cell c o =>
    recordReads (blocksOf o n)
    match localCore s c with
    | some d => return overlay (memReads (getCore s d).cell o n) f
    | none => return List.replicate n 0
  | .phys pa uc key =>
    await_ (!(← redPending p n))
    if f.length = n && f.all (fun e => e.2.1 == 0) then return overlay (List.replicate n 0) f
    else
      let b ← physRead (dieOf s.cur.core) pa n uc key refresh
      return overlay b f
  | .engine o =>
    if (ownHeld s).any heldEngine then do twinFlush; stall else pure ()
    drainOwn
    return toBytes (engineRead (← get) o).toNat 8

/-- The granule tag of a capability load, before LC and CAPST (R105). -/
def loadTag (p : Place) : M Bool := do
  let s ← get
  let t := match p with
    | .cell c o => (match localCore s c with
      | some d => (getCore s d).tags.contains (o / 16)
      | none => false)
    | .phys pa uc _ => physTag s (dieOf s.cur.core) pa uc
    | .engine _ => false
  return forwardTag s p (ownStores s) t

/-- Feed a store into the fingerprint of a twinned core: address, size, data (R257). -/
def crcStore (a : W64) (l : List Byte) : M Unit :=
  setCore fun k => { k with twin := k.twin.map fun t =>
    { t with crc := crcFeed t.crc (toBytes a.toNat 8 ++ [BitVec.ofNat 8 l.length] ++ l) } }

/-- Hold an outgoing effect of a twinned core until the checkpoint; a full hold buffer ends the interval (R258). -/
def twinHold (e : Effect) : M Unit := do
  match (← myCore).twin with
  | none => return
  | some t =>
    if heldEntries t.held + heldEntries [e] ≤ 512 then
      setCore fun k => { k with twin := k.twin.map fun t =>
        { t with held := t.held ++ [e], due := t.due || heldEntries t.held + heldEntries [e] == 512 } }
    else
      setCore fun k => { k with twin := k.twin.map fun t => { t with due := true } }
      stall

/-- A RED that its sender issued is on its way to a line of a store (R123). -/
def redBefore (s : State) (f : Sender) (b : BufKind) : Bool :=
  s.reds.any fun r => r.src = f && (placeLines r.place 1).any (storeLines b).contains

/-- Put an entry into the store buffer; a full buffer or a held tail stalls (R127, R128), and so does a store to a line with a RED of the
context still on its way (R123). -/
def enterBuf (b : BufKind) : M Unit := do
  let k ← myCore
  await_ (decide (k.buf.length < 32) && k.tail.isNone)
  let f ← meSender
  await_ (!redBefore (← get) f b)
  setCore fun k => { k with buf := k.buf ++ [⟨f, b⟩] }

/-- The executing twinned core takes an entry of its undo log; a full log ends the interval, and what needs an entry more waits for the checkpoint
(R258). A store takes one entry, and so does a 64-byte block of a BPST (DESIGN CHOICE, log 75: R258 gives the 2,048 entries 32 bytes each and does not
say how many a wider write takes). -/
def takeUndo : M Unit := do
  match (← myCore).twin with
  | none => return
  | some t =>
    setCore fun k => { k with twin := k.twin.map fun t => { t with undo := min 2048 (t.undo + 1), due := t.due || decide (2048 ≤ t.undo + 1) } }
    await_ (decide (t.undo < 2048))

/-- A store of a twinned core to its own cell memory: performed at once, with an entry of the undo log (R258). -/
def twinStore (o : Nat) (l : List Byte) (cap : Option Bool) : M Unit := do
  takeUndo
  modify fun s => cellPut s s.cur.core o l cap (some s.cur)

/-- Issue a buffered effect: held in a speculative task, held or performed locally in a twinned pair, else into the store buffer
(R44, R127, R258). -/
def issueBuf (b : BufKind) (shares : Bool) : M Unit := do
  let s ← get
  let me := coreNum s s.cur.core
  if isSpec (curCtx s) then holdEffect (.buf b shares)
  else match (curCore s).twin with
    | none => enterBuf b
    | some _ =>
      match b with
      | .store (.cell c o) l cap _ => if c = me then twinStore o l cap else twinHold (.buf b shares)
      | .patch (.cell c o) l =>
        if c = me then twinStore o (patchBytes (memReads (curCore s).cell o l.length) l) none else twinHold (.buf b shares)
      | _ => twinHold (.buf b shares)

/-- Feed a buffered store into the fingerprint (R257). A store of a packed element feeds the bytes that hold it: their number as the size, and as data the
bits stored with zeros around them (DESIGN CHOICE, log 76: R257 speaks of whole bytes). -/
def crcBuf (a : W64) (b : BufKind) : M Unit :=
  match b with
  | .store _ d _ _ => crcStore a d
  | .patch _ l => crcStore a (l.map fun e => e.2 &&& ~~~e.1)
  | .split _ l _ m => crcStore a ((l ++ m).map fun e => e.2 &&& ~~~e.1)
  | _ => pure ()

/-- Place as many stores of an instruction as the buffer takes; the rest wait with the instruction (R127). -/
def placeStores (l : List (W64 × Bool × BufKind)) (fin : Option (Nat × Trap)) : M Unit := do
  match l with
  | [] =>
    match fin with
    | none => return
    | some (n, t) =>
      -- a speculative task that stalls at the fault goes on at this instance (R248)
      keepPart n []
      setMe fun x => { x with resume := n }
      throw (.trap t)
  | (a, sh, b) :: r =>
    setMe fun x => { x with waiting := some (.stores ((a, sh, b) :: r) fin) }
    issueBuf b sh
    crcBuf a b
    placeStores r fin

/-- Read up to 16 bytes at a checked place; from outside the core they are an input of a twinned pair (R256). -/
def loadShared (p : Place) (n : Nat) (refresh : Bool) : M (List Byte) := do
  match p with
  | .cell _ _ => loadPlace p n refresh
  | _ => return toBytes (← sharedWide (do return BitVec.ofNat 128 (ofBytes (← loadPlace p n refresh)))).toNat n

/-- The granule tag at a checked place, behind its data; from outside the core it is an input of a twinned pair (R256). -/
def loadTagShared (p : Place) : M Bool := do
  match p with
  | .cell _ _ => loadTag p
  | _ => return (← shared (do return boolW (← loadTag p))) == 1

/-- The scalar load of LD and LDG at a checked place: size code, and LC and CAPST of its capability and page (R348). -/
def loadScalar (d : BitVec 5) (size : Nat) (cap : Reg) (p : Place) (capst refresh : Bool) : M Unit := do
  let n := if size = 7 then 16 else 2 ^ (size % 4)
  let b ← loadShared p n refresh
  let t ← if size = 7 then loadTagShared p else pure false
  if size = 7 then wrReg d (formCap (BitVec.ofNat 128 (ofBytes b)) (t && hasPerm cap.bits permLC && (isCellPlace p || capst)))
  else wr d (if size ≤ 2 then toW (sxInt (ofBytes b) (8 * n)) else natW (ofBytes b))

/-- The scalar store of ST and STG (R385): issue its event. -/
def storeScalar (a : W64) (size : Nat) (v : Reg) (p : Place) (rel : Option Nat) : M Unit := do
  let n := if size = 7 then 16 else 2 ^ size
  let l := toBytes v.bits.toNat n
  issueBuf (.store p l (if size = 7 then some v.tag else none) rel) false
  crcStore a l

/-- Read one parcel for the executing context (R62, R104, R126): the fetch goes through PCC, and a fault names the parcel's address. A parcel that was
fetched ahead is taken as it was then (log 62). -/
def fetchParcel (a : W64) : M Nat := do
  let s ← get
  let x := curCtx s
  faultIf (a.toNat % 2 == 1) cALIGN a
  let sp ← orFault (checkWord s s.cur.core x.pcc a 2 accFetch)
  match sp with
  | .global va =>
    match (← translate s.cur.core va a accFetch).1 with
    | .phys pa uc key =>
      match mapGet x.fetched (pa / 2) with
      | some e => if e.1 = key then return e.2 else return ofBytes (← physRead (dieOf s.cur.core) pa 2 uc key false)
      | none => return ofBytes (← physRead (dieOf s.cur.core) pa 2 uc key false)
    | _ => fault cPAGE a
  | _ => fault cPAGE a

/-- The bytes of the instruction at an address: one parcel, or two when the first is the low parcel of a 32-bit instruction (R62). -/
def fetchBytes (a : W64) : M (List Byte) := do
  let p ← fetchParcel a
  if isLong p then
    let q ← fetchParcel (a + 2)
    return toBytes (p + 65536 * q) 4
  else return toBytes p 2

end Sys2Proof.Machine
end

