-- ==== Sys2Proof/Machine/Operands.lean ====
section
/-! DEFINITION. The operand forms of the scalar instructions: register and immediate operands (R72, R284), bit-field operands (R293), memory
operands (R72, R348, R349), branch targets (R286). -/

namespace Sys2Proof.Machine

/-- A register form of R284: X(ca) and X(cb) are read, the result is written with latency `l`. -/
def alu2 (i : Instr) (l : Nat) (d a b : BitVec 5) (y : BitVec 3) (f : W64 → W64 → W64) (s : State) : Host.Outcome State Fault Refusal :=
  issue i (cyc y) [a, b] [d] false (do wrLate d l (f (← rd a) (← rd b))) s

/-- A register form whose result is interlocked (R68). -/
def alu2Wait (i : Instr) (d a b : BitVec 5) (y : BitVec 3) (f : W64 → W64 → W64) (s : State) : Host.Outcome State Fault Refusal :=
  issue i (cyc y) [a, b] [d] false (do wr d (f (← rd a) (← rd b))) s

/-- A form of one source with latency 1. -/
def alu1 (i : Instr) (d a : BitVec 5) (y : BitVec 3) (f : W64 → W64) (s : State) : Host.Outcome State Fault Refusal :=
  issue i (cyc y) [a] [d] false (do wrLate d 1 (f (← rd a))) s

/-- A 10-bit immediate, sign-extended (R4). -/
def imm10 (i : BitVec 10) : W64 := i.signExtend 64

/-- The position and width of a bit-field operand, or none for ILLOP (R293). -/
def fieldOf (v : W64) : Option (Nat × Nat) :=
  let p := bits v 5 0
  let w := bits v 14 8
  if bits v 7 6 != 0 || bits v 63 15 != 0 || w = 0 || decide (64 < p + w) then none else some (p, w)

/-- Bytes of a size code (R72). -/
def sizeOf_ (sz : BitVec 3) : Nat := if sz = 7 then 16 else 2 ^ (sz.toNat % 4)

/-- The address of a memory operand: the cursor plus a signed offset in units of the access size (R72). -/
def memAddr (cap : Reg) (off : Int) (n : Nat) : W64 := toW ((capAddr cap.bits).toNat + off * n)

/-- PC of R283 in a meaning that may stand behind a GUARD. -/
def branchTarget (x : Ctx) (off : Int) : W64 := instrPc x + toW (2 * off)

end Sys2Proof.Machine
end

