-- ==== Sys2Proof/Machine/Alu.lean ====
section
/-! DEFINITION. The integer register forms (R73, R284): arithmetic, logic, shifts, counts and copies. -/

namespace Sys2Proof.Machine

/-- DIV of R330 on exact values. -/
def divQ (a b : Int) (sg : Bool) : Int :=
  if b = 0 then 2 ^ 64 - 1 else if sg && a == -(2 ^ 63) && b == -1 then -(2 ^ 63) else a.tdiv b

/-- REM of R375 on exact values. -/
def remR (a b : Int) (sg : Bool) : Int :=
  if b = 0 then a else if sg && a == -(2 ^ 63) && b == -1 then 0 else a - b * a.tdiv b

/-- Shift count of R377: bits [5:0] of X(cb). -/
def shiftCount (b : W64) : Nat := bits b 5 0

/-- Leading zero bits (R325). -/
def clzW (a : W64) : W64 := if a = 0 then 64 else natW (63 - a.toNat.log2)

/-- Set bits among the lowest `n` (R371). -/
def popFrom (v n : Nat) : Nat :=
  match n with
  | 0 => 0
  | k + 1 => v % 2 + popFrom (v / 2) k

/-- ADD (R287). -/
def execAdd (d a b : BitVec 5) (y : BitVec 3) (s : State) := alu2 (.add d a b y) 1 d a b y (fun p q => p + q) s
/-- SUB (R389). -/
def execSub (d a b : BitVec 5) (y : BitVec 3) (s : State) := alu2 (.sub d a b y) 1 d a b y (fun p q => p - q) s
/-- MUL (R366): latency 3. -/
def execMul (d a b : BitVec 5) (y : BitVec 3) (s : State) := alu2 (.mul d a b y) 3 d a b y (fun p q => p * q) s
/-- MULH (R366): latency 4. -/
def execMulh (d a b : BitVec 5) (y : BitVec 3) (s : State) :=
  alu2 (.mulh d a b y) 4 d a b y (fun p q => toW (p.toInt * q.toInt / 2 ^ 64)) s
/-- MULH.ui64 (R366): latency 4. -/
def execMulhUi64 (d a b : BitVec 5) (y : BitVec 3) (s : State) :=
  alu2 (.mulhUi64 d a b y) 4 d a b y (fun p q => natW (p.toNat * q.toNat / 2 ^ 64)) s
/-- DIV (R330): interlocked. -/
def execDiv (d a b : BitVec 5) (y : BitVec 3) (s : State) :=
  alu2Wait (.div d a b y) d a b y (fun p q => toW (divQ p.toInt q.toInt true)) s
/-- DIV.ui64 (R330). -/
def execDivUi64 (d a b : BitVec 5) (y : BitVec 3) (s : State) :=
  alu2Wait (.divUi64 d a b y) d a b y (fun p q => toW (divQ p.toNat q.toNat false)) s
/-- REM (R375): interlocked. -/
def execRem (d a b : BitVec 5) (y : BitVec 3) (s : State) :=
  alu2Wait (.rem d a b y) d a b y (fun p q => toW (remR p.toInt q.toInt true)) s
/-- REM.ui64 (R375). -/
def execRemUi64 (d a b : BitVec 5) (y : BitVec 3) (s : State) :=
  alu2Wait (.remUi64 d a b y) d a b y (fun p q => toW (remR p.toNat q.toNat false)) s
/-- AND (R290). -/
def execAnd (d a b : BitVec 5) (y : BitVec 3) (s : State) := alu2 (.and d a b y) 1 d a b y (fun p q => p &&& q) s
/-- OR (R370). -/
def execOr (d a b : BitVec 5) (y : BitVec 3) (s : State) := alu2 (.or d a b y) 1 d a b y (fun p q => p ||| q) s
/-- XOR (R420). -/
def execXor (d a b : BitVec 5) (y : BitVec 3) (s : State) := alu2 (.xor d a b y) 1 d a b y (fun p q => p ^^^ q) s
/-- SHL (R377). -/
def execShl (d a b : BitVec 5) (y : BitVec 3) (s : State) := alu2 (.shl d a b y) 1 d a b y (fun p q => p <<< shiftCount q) s
/-- SHR (R377). -/
def execShr (d a b : BitVec 5) (y : BitVec 3) (s : State) := alu2 (.shr d a b y) 1 d a b y (fun p q => p >>> shiftCount q) s
/-- SAR (R377). -/
def execSar (d a b : BitVec 5) (y : BitVec 3) (s : State) := alu2 (.sar d a b y) 1 d a b y (fun p q => p.sshiftRight (shiftCount q)) s
/-- MIN (R355), signed. -/
def execMin (d a b : BitVec 5) (y : BitVec 3) (s : State) := alu2 (.min d a b y) 1 d a b y (fun p q => if q.slt p then q else p) s
/-- MIN.ui64 (R355). -/
def execMinUi64 (d a b : BitVec 5) (y : BitVec 3) (s : State) := alu2 (.minUi64 d a b y) 1 d a b y (fun p q => if q.ult p then q else p) s
/-- MAX (R355), signed. -/
def execMax (d a b : BitVec 5) (y : BitVec 3) (s : State) := alu2 (.max d a b y) 1 d a b y (fun p q => if p.slt q then q else p) s
/-- MAX.ui64 (R355). -/
def execMaxUi64 (d a b : BitVec 5) (y : BitVec 3) (s : State) := alu2 (.maxUi64 d a b y) 1 d a b y (fun p q => if p.ult q then q else p) s
/-- CLZ (R325). -/
def execClz (d a : BitVec 5) (y : BitVec 3) (s : State) := alu1 (.clz d a y) d a y clzW s
/-- POPC (R371). -/
def execPopc (d a : BitVec 5) (y : BitVec 3) (s : State) := alu1 (.popc d a y) d a y (fun p => natW (popFrom p.toNat 64)) s

/-- MOV copies all 128 bits and the tag (R360). -/
def execMov (d a : BitVec 5) (y : BitVec 3) (s : State) : Host.Outcome State Fault Refusal :=
  issue (.mov d a y) (cyc y) [a] [d] false (do wrReg d (← rdReg a)) s

/-- The 16-bit MOV waits for its source (R64, R360). -/
def execMov16 (d a : BitVec 5) (s : State) : Host.Outcome State Fault Refusal :=
  issue (.mov16 d a) 1 [a] [d] true (do wrReg d (← rdReg a)) s

end Sys2Proof.Machine
end

