-- ==== Sys2Proof/Machine/Message.lean ====
section
/-! DEFINITION. Sending messages and calls (R37, R41, R42, R333, R364, R365, R319). -/

namespace Sys2Proof.Machine

/-- A message takes no entry of the target's channel queue, or one is free (R37). -/
def hasRoom (s : State) (m : Msg) : Bool :=
  m.kind == .evtick || match localCore s m.dst with
    | some c =>
      let k := getCore s (viewCore s c)
      decide ((chanQueue k m.chn).length + mapGetD k.reserved m.chn 0 < 16)
    | none => true

/-- The core whose channel queue takes a message: of a pair the primary (R37, R256). -/
def roomCore (s : State) (m : Msg) : Option Nat := if m.kind == .evtick then none else (localCore s m.dst).map (viewCore s)

/-- Reserve the entry of a message (R37). -/
def reserveEntry (s : State) (m : Msg) : State :=
  match roomCore s m with
  | some c => onCore s c fun k => { k with reserved := mapSet k.reserved m.chn (mapGetD k.reserved m.chn 0 + 1) }
  | none => s

/-- A message issues: its entry is reserved, a MSGT takes the next sequence number for its target, and it enters the store buffer
(R37, R42, R127). -/
def postMsg (m : Msg) : M Unit := do
  let k ← myCore
  await_ (decide (k.buf.length < 32) && k.tail.isNone)
  await_ (hasRoom (← get) m)
  let m := { m with room := roomCore (← get) m }
  modify fun s => reserveEntry s m
  if m.kind == .msgt then
    let n := mapGetD k.seqOut m.dst 0
    setCore fun k => { k with seqOut := mapSet k.seqOut m.dst ((n + 1) % 2 ^ 32) }
    enterBuf (.msg { m with seq := n })
  else enterBuf (.msg m)

/-- Send a message, or hold it in a speculative task or a twinned pair (R44, R256). -/
def sendMsg (m : Msg) : M Unit := do
  let x ← me
  if isSpec x || (← myCore).twin.isSome then issueBuf (.msg m) false else postMsg m

/-- X(r) of `n` consecutive registers. -/
def rdRange (r n : Nat) : M (List W64) := do
  let x ← me
  return (List.range n).map fun j => regData (readReg x (BitVec.ofNat 5 (r + j)))

/-- The registers `r` to `r + n - 1`. -/
def regRange (r : BitVec 5) (n : Nat) : List (BitVec 5) := (List.range n).map fun j => BitVec.ofNat 5 (r.toNat + j)

/-- MSG (R364). -/
def execMsg (d a : BitVec 5) (imm : BitVec 10) (y : BitVec 3) (s : State) : Host.Outcome State Fault Refusal :=
  issue (.msg d a imm y) (cyc y) (d :: regRange a 4) [] false (do
    let f ← meSender
    let p ← rdRange a.toNat 4
    sendMsg { kind := .msg, src := f, dst := bits (← rd d) 21 0, cls := imm.toNat % 64, chn := imm.toNat / 64, payload := p, ts := 0, seq := 0,
              entry := 0, tok := 0, reg := 0, call := 0, rolls := 0 }) s

/-- MSGT (R365). -/
def execMsgt (d a : BitVec 5) (imm : BitVec 10) (y : BitVec 3) (s : State) : Host.Outcome State Fault Refusal :=
  issue (.msgt d a imm y) (cyc y) (d :: regRange a 5) [] false (do
    let f ← meSender
    let p ← rdRange a.toNat 5
    sendMsg { kind := .msgt, src := f, dst := bits (← rd d) 21 0, cls := imm.toNat % 64, chn := imm.toNat / 64, payload := p.take 4,
              ts := bits (p.getD 4 0) 47 0, seq := 0, entry := 0, tok := 0, reg := 0, call := 0, rolls := 0 }) s

/-- EVTICK (R333). -/
def execEvtick (d a : BitVec 5) (chn : BitVec 4) (y : BitVec 3) (s : State) : Host.Outcome State Fault Refusal :=
  issue (.evtick d a chn y) (cyc y) [d, a] [] false (do
    let f ← meSender
    sendMsg { kind := .evtick, src := f, dst := bits (← rd d) 21 0, cls := 0, chn := chn.toNat, payload := [], ts := bits (← rd a) 47 0, seq := 0,
              entry := 0, tok := 0, reg := 0, call := 0, rolls := 0 }) s

/-- CALLAT (R41, R319): the token gains an operation, cd awaits the deposit, and the call is sent. -/
def execCallat (d a b : BitVec 5) (k y : BitVec 3) (s : State) : Host.Outcome State Fault Refusal :=
  issue (.callat d a b k y) (cyc y) (a :: regRange b 5) [d] false (do
    let x ← me
    await_ (decide ((vecGet x.k k.toNat tokenReset).count < 255))
    let f ← meSender
    let p ← rdRange b.toNat 5
    let dst := bits (← rd a) 21 0
    sendMsg { kind := .callat, src := f, dst := dst, cls := 0, chn := 15, payload := p.drop 1, ts := 0, seq := 0, entry := p.getD 0 0,
              tok := k.toNat, reg := d, call := x.nextCall, rolls := 0 }
    setMe fun x => tokenAdd { x with nextCall := x.nextCall + 1, awaiting := x.awaiting ++ [⟨x.nextCall, d, k.toNat, dst⟩] } k.toNat) s

end Sys2Proof.Machine
end

