-- ==== Sys2Proof/Machine/Bank.lean ====
section
/-! DEFINITION. Bank leases and the command words of the bank units (R154, R158, R159, R177 to R183). -/

namespace Sys2Proof.Machine

/-- A push is a release towards its command (R154): the context's stores and REDs are performed before the command reads memory. `wide`
writes back the die's owned far-way words, for a command that reads global memory. -/
def pushRelease (wide : Bool) : M Unit := do
  drainOwn
  releaseAt (← meSender) (bufNext (← myCore)) (← myDie) (if wide then 2 else 0)

/-- The lease of a context on a port. -/
def findLease (s : State) (f : Sender) (port : Nat) : Option Lease := s.leases.find? fun l => l.holder = f && l.port = port

/-- Replace a lease by the one with the same number. -/
def putLease (s : State) (l : Lease) : State := { s with leases := s.leases.map fun k => if k.id = l.id then l else k }

/-- End a lease or unbind its port: results, buffers and the rows go (R180). -/
def dropLease (s : State) (l : Lease) : State := { s with leases := s.leases.filter fun k => k.id != l.id }

/-- Bits of a command word that its operation names (R178). -/
def cmdFields (op : Nat) : Nat :=
  let f := fun hi lo : Nat => 2 ^ (hi + 1) - 2 ^ lo
  match op with
  | 0 => f 4 0
  | 1 => f 57 48 + f 7 0
  | 2 => f 53 48 + f 10 8 + f 2 0
  | 3 => f 53 48 + f 40 32 + f 27 16 + f 12 0
  | 4 => f 53 48 + f 46 40
  | _ => 0

/-- The lowest error code that a command word meets on a lease, 0 for none (R178). -/
def cmdError (l : Lease) (w : W64) : Nat :=
  let op := bits w 63 60
  let n := l.rows.length
  let i := bits w 53 48
  if w.toNat % 2 ^ 60 &&& (2 ^ 60 - 1 - cmdFields op) != 0 then 1
  else if (op = 3 || op = 4) && decide (n ≤ i) || op = 2 && decide (n < i + bits w 2 0 + 1) then 2
  else if op = 3 && (decide (4096 < bits w 12 0) || decide (4096 < bits w 27 16 + bits w 12 0) ||
      decide (n * 512 < i * 512 + bits w 40 32 + bits w 12 0)) then 3
  else if op = 1 && (bits w 7 0 == 0 || decide (1024 < bits w 57 48 + bits w 7 0)) then 3
  else if op = 2 && decide (8 < bits w 10 8 + bits w 2 0 + 1) then 3
  else if op = 0 && !l.isAll then 4
  else if 4 < op then 5
  else 0

/-- Data words that a command takes (R178). -/
def cmdNeed (w : W64) : Nat := if bits w 63 60 = 1 then bits w 7 0 else if bits w 63 60 = 4 then 1 else 0

/-- The addressed units as positions in a row's segments, in ascending bank order (R178, R183). -/
def addressed (l : Lease) : List Nat := if !l.isAll then [0] else if l.allMode then List.range 16 else [l.bank]

/-- Bytes of a leased row as a bank unit reads them, with an error of a sector among them (R115). What an unreadable sector delivers is a
free value (log 6). -/
def bankRead (s : State) (who : Nat × Nat) (pa n : Nat) : List Byte × Option Trap × State :=
  let r := sectorCheck s pa 0 who
  if r.1.isSome then ((List.range n).map fun j => Config.badData (pa + j), r.1, r.2)
  else (plainBytes r.2 pa n 0, none, r.2)

/-- A fault of a sector that a bank unit read goes to the holder, deferred (R115). -/
def bankFault (s : State) (l : Lease) (t : Option Trap) : State :=
  match t with
  | some t => deferTo s l.holder t none
  | none => s

/-- The launch whose context holds a lease, running or saved (R281). -/
def holderLaunch (s : State) (l : Lease) : Nat :=
  match findSender s l.holder with
  | some id => launchOn s id.core
  | none => ((s.saved.find? fun v => v.cores.any fun k => savedUse k l.holder).map fun v => v.id).getD 0

/-- One 64-byte sector of FP16 elements after another, from a segment address. -/
def bankSectors (s : State) (l : Lease) (pas : List Nat) : List (BitVec 16) × State :=
  pas.foldl (fun acc pa =>
    let r := bankRead acc.2 (l.holder.core, holderLaunch acc.2 l) pa 64
    (acc.1 ++ (List.range 32).map fun j => BitVec.ofNat 16 (ofBytes ((r.1.drop (2 * j)).take 2)), bankFault r.2.2 l r.2.1)) ([], s)

/-- Element `e` of the leased rows from row `i` on lies in this sector of bank position `u` (R179). -/
def bankSector (l : Lease) (u i e : Nat) : Nat := ((l.rows.getD (i + e / 512) []).getD u 0) + e % 512 / 32 * 64

/-- A sum rounded to FP32 (R179). -/
def add32 (a b : FVal) : FVal := fdecode (fmtOf 12) (fenc (fmtOf 12) .rne 0 (fadd a b)).1

/-- Combine the lanes `k` apart; where one side is empty the other passes (R179). -/
def laneFold (l : List (Option FVal)) (k : Nat) : List (Option FVal) :=
  (List.range k).map fun j => match l.getD j none, l.getD (j + k) none with
    | some a, some b => some (add32 a b)
    | some a, none => some a
    | none, b => b

/-- The dot product of R179 from its element pairs in order. -/
def dotValue (p : List (BitVec 16 × BitVec 16)) : W64 :=
  let lanes := (List.range 16).map fun j =>
    ((List.range ((p.length + 15 - j) / 16)).foldl (fun (acc : Option FVal) q =>
      let e := p.getD (16 * q + j) (0, 0)
      let v := fmul (fdecode (fmtOf 9) e.1.toNat) (fdecode (fmtOf 9) e.2.toNat)
      match acc with
      | none => some v
      | some a => some (add32 a v)) none)
  match (laneFold (laneFold (laneFold (laneFold lanes 8) 4) 2) 1).getD 0 none with
  | none => 0
  | some v => natW (fenc (fmtOf 12) .rne 0 v).1

/-- Run DOT on one unit (R179). -/
def dotUnit (s : State) (l : Lease) (w : W64) (u : Nat) : W64 × State :=
  let i := bits w 53 48
  let a := bits w 40 32
  let n := bits w 12 0
  let first := a / 32
  let count := if n = 0 then 0 else (a + n + 31) / 32 - first
  let r := bankSectors s l ((List.range count).map fun q => bankSector l u i ((first + q) * 32))
  let buf := mapGetD l.vbufs u []
  (dotValue ((List.range n).map fun p => (r.1.getD (a % 32 + p) 0, mapGetD buf (bits w 27 16 + p) 0)), r.2)

/-- Put FP16 elements into the vector buffers of the addressed units. -/
def putBuf (l : Lease) (u at_ : Nat) (v : List (BitVec 16)) : Lease :=
  let b := (List.range v.length).foldl (fun b j => mapSet b (at_ + j) (v.getD j 0)) (mapGetD l.vbufs u [])
  { l with vbufs := mapSet l.vbufs u b }

/-- Carry out an error-free command with its data words (R178, R179). -/
def cmdRun (s : State) (l : Lease) (w : W64) (data : List W64) : Lease × State :=
  match bits w 63 60 with
  | 0 => ({ l with allMode := bitAt w 4, bank := bits w 3 0 }, s)
  | 1 =>
    let v := data.flatMap fun d => (List.range 4).map fun j => BitVec.ofNat 16 (d.toNat / 2 ^ (16 * j))
    ((addressed l).foldl (fun l u => putBuf l u (4 * bits w 57 48) v) l, s)
  | 2 =>
    (addressed l).foldl (fun acc u =>
      let r := bankSectors acc.2 l ((List.range (16 * (bits w 2 0 + 1))).map fun q => bankSector l u (bits w 53 48) (32 * q))
      (putBuf acc.1 u (512 * bits w 10 8) r.1, r.2)) (l, s)
  | 3 =>
    let r := (addressed l).foldl (fun acc u => let q := dotUnit acc.2 l w u; (acc.1 ++ [q.1], q.2)) (([] : List W64), s)
    ({ l with results := l.results ++ r.1 }, r.2)
  | _ =>
    (l, (addressed l).foldl (fun s u =>
      hbmPut s ((l.rows.getD (bits w 53 48) []).getD u 0 + 8 * bits w 46 40) (toBytes (data.getD 0 0).toNat 8) 0) s)

/-- What the port's next step is: an operation 0 to 4, 5 for a command error, or none when no word waits. -/
def cmdNext (l : Lease) : Option Nat :=
  match l.current, l.words with
  | some (w, _, _), _ => some (bits w 63 60)
  | none, w :: _ => if cmdError l w != 0 then some 5 else some (bits w 63 60)
  | none, [] => none

/-- Give waiting words to the command that takes data; a command with all its words runs (R182). -/
def cmdFeed (s : State) (l : Lease) : Lease × State :=
  match l.current with
  | none => (l, s)
  | some (w, d, bad) =>
    let m := cmdNeed w - d.length
    let d' := d ++ l.words.take m
    let l := { l with words := l.words.drop m }
    if d'.length < cmdNeed w then ({ l with current := some (w, d', bad) }, s)
    else
      let l := { l with current := none }
      if bad then (l, s) else cmdRun s l w d'

/-- One step of a port in push order (R180, R182). `force` lets results that find no room be discarded; otherwise the command waits. -/
def cmdStep (s : State) (l : Lease) (force : Bool) : Option (Lease × State) :=
  match l.current, l.words with
  | some _, [] => none
  | some _, _ => some (cmdFeed s l)
  | none, [] => none
  | none, w :: r =>
    let code := cmdError l w
    let yields := if code != 0 || bits w 63 60 == 3 then (addressed l).length else 0
    if !force && decide (64 < l.results.length + yields) then none
    else
      let l := { l with words := r }
      if code != 0 then
        let l := { l with results := l.results ++ (addressed l).map fun _ => natW (2 ^ 63 + code) }
        if cmdNeed w = 0 then some (l, s) else some (cmdFeed s { l with current := some (w, [], true) })
      else if cmdNeed w = 0 then some (cmdRun s l w [])
      else some (cmdFeed s { l with current := some (w, [], false) })

/-- Run a port's commands to completion (R180). -/
def cmdAll (s : State) (l : Lease) (fuel : Nat) : Lease × State :=
  match fuel with
  | 0 => (l, s)
  | k + 1 => match cmdStep s l true with
    | none => (l, s)
    | some (l, s) => cmdAll s l k

/-- A lease that has not expired ends as BFREE ends it (R159, R180). -/
def endLease (s : State) (l : Lease) : State :=
  if !l.granted || l.expired then dropLease s l
  else
    let r := cmdAll s l (2 * l.words.length + 2)
    dropLease r.2 l

/-- A command of the port in flight will produce a result (R176). -/
def willResult (l : Lease) (words : List W64) (skip : Nat) : Bool :=
  match words with
  | [] => false
  | w :: r =>
    match skip with
    | k + 1 => willResult l r k
    | 0 => cmdError l w != 0 || bits w 63 60 == 3 || willResult l r (cmdNeed w)

/-- Data words that the command under way still takes. -/
def cmdSkip (l : Lease) : Nat :=
  match l.current with
  | some (w, d, _) => cmdNeed w - d.length
  | none => 0

/-- A lease or an earlier part of a request holds a unit (R177). -/
def unitTaken (s : State) (id u : Nat) : Bool :=
  s.leases.any fun l => l.id != id && !l.expired && (if l.granted then l.units else l.units.take l.took).contains u

/-- Another request waits at a unit ahead of request `id` (R177). -/
def unitQueue (l : List Lease) (id u : Nat) : Bool :=
  match l with
  | [] => false
  | k :: r => if k.id = id then false else (!k.granted && k.units.getD k.took 0x10000 = u) || unitQueue r id u

/-- A request takes its units one after another, as far as it gets; at a further unit it queues last (R177). -/
def takeUnits (s : State) (l : Lease) (fuel : Nat) : Lease × State :=
  match fuel with
  | 0 => (l, s)
  | n + 1 =>
    match l.units[l.took]? with
    | none => (l, s)
    | some u =>
      if unitTaken s l.id u || unitQueue s.leases l.id u then (l, s)
      else
        let l := { l with took := l.took + 1 }
        takeUnits { s with leases := (s.leases.filter fun k => k.id != l.id) ++ [l] } l n

/-- The lease takes effect (R158): reduce lines of the leased rows merge and the home's L2 drops every line of the rows, what a poisoned one told of its
sectors with it (R115); the expiry counts from now, the buffers are zero, the waiting context goes on. -/
def grantLease (s : State) (l : Lease) : State :=
  let lines := (l.rows.flatMap id).flatMap fun seg => (List.range 8).map fun j => seg / 128 + j
  let here := s.mem.reduce.filter fun r => lines.contains r.line && r.die = homeDie (r.line * 128)
  let s := here.foldl (fun s r => mergeHome s r.line) s
  let s := onMem s fun g => { g with poisoned := g.poisoned.filter fun p => !lines.contains (p.1 / 2) }
  let s := putLease s { l with granted := true, since := s.mg.time, allMode := l.isAll, bank := 0, vbufs := [] }
  match findSender s l.holder with
  | some id => onCtx s id fun x => { x with waiting := some (.leased l.port) }
  | none => dropLease s l

/-- BANK_LEASE_GRANT (R177): the request at a place in the order of arrival takes units, and its lease when it has all of them. -/
def execBankLeaseGrant (n : Nat) (s : State) : Host.Outcome State Fault Refusal :=
  match s.leases[n]? with
  | none => .next s
  | some l =>
    if l.granted || l.expired then .next s
    else
      let r := takeUnits s l 16
      if r.1.took = r.1.units.length then .next (grantLease r.2 r.1) else .next r.2

/-- A lease by its number. -/
def leaseById (s : State) (id : Nat) : Option Lease := s.leases.find? fun l => l.id = id && l.granted && !l.expired

/-- One command of a kind runs on a lease, when it is the port's next and has room (R178, R182). -/
def bankCommand (kind id : Nat) (s : State) : State :=
  match leaseById s id with
  | none => s
  | some l =>
    if cmdNext l = some kind then
      match cmdStep s l false with
      | some (l', s') => putLease s' l'
      | none => s
    else s

/-- MODE (R178). -/
def execMode (id : Nat) (s : State) : Host.Outcome State Fault Refusal := .next (bankCommand 0 id s)
/-- VBW (R178). -/
def execVbw (id : Nat) (s : State) : Host.Outcome State Fault Refusal := .next (bankCommand 1 id s)
/-- VBL (R178). -/
def execVbl (id : Nat) (s : State) : Host.Outcome State Fault Refusal := .next (bankCommand 2 id s)
/-- DOT (R179). -/
def execDot (id : Nat) (s : State) : Host.Outcome State Fault Refusal := .next (bankCommand 3 id s)
/-- WRW (R178). -/
def execWrw (id : Nat) (s : State) : Host.Outcome State Fault Refusal := .next (bankCommand 4 id s)
/-- BANK_COMMAND_ERROR (R178): the error's result words; the command's data words are consumed as they come. -/
def execBankCommandError (id : Nat) (s : State) : Host.Outcome State Fault Refusal := .next (bankCommand 5 id s)

/-- BANK_LEASE_EXPIRY (R159, R180): once its time has passed, the command under way is aborted, results are discarded, and the port stays bound
and expired. -/
def execBankLeaseExpiry (id : Nat) (s : State) : Host.Outcome State Fault Refusal :=
  match leaseById s id with
  | none => .next s
  | some l =>
    if s.mg.time.toNat < l.since.toNat + 1000 * l.micros then .next s
    else if !inUse s l.holder then .next (dropLease s l)
    else .next (putLease s { l with expired := true, words := [], current := none, results := [], vbufs := [], rows := [], units := [] })

end Sys2Proof.Machine
end

