-- ==== Sys2Proof/Machine/Ports.lean ====
section
/-! DEFINITION. Engine ports, bank leases, streams' bindings and tokens (R27, R166, R167, R172, R175 to R183, R248). -/

namespace Sys2Proof.Machine

/-- The lease on a port for PUSHE and POPE: none raises LEASE; an expired one is unbound and raises LEASE (R176). -/
def liveLease (port : Nat) : M Lease := do
  let f ← meSender
  match findLease (← get) f port with
  | none => fault cLEASE (natW port)
  | some l =>
    if l.expired then
      modify fun s => dropLease s l
      fault cLEASE (natW port)
    else if l.granted then return l
    else fault cLEASE (natW port)

/-- Push a command word on a live lease; a port with 16 waiting words stalls (R176). -/
def pushWord (port : Nat) (w : W64) : M W64 := do
  let l ← liveLease port
  await_ (decide (l.words.length < 16))
  modify fun s => putLease s { l with words := l.words ++ [w] }
  return 0

/-- Push a launch descriptor on e15 (R27); the port holds 16. -/
def pushDesc (f : Sender) (d : List Byte) : M Unit := do
  await_ (decide (((← get).launchPushes.filter fun p => p.src = f).length < 16))
  modify fun s => { s with
    launchPushes := s.launchPushes ++ [⟨f, (List.range 8).map fun j => natW (ofBytes ((d.drop (8 * j)).take 8))⟩] }

/-- PUSHE (R373). A speculative task holds the push, its word captured at issue (R44). A twinned pair holds it too (R256). -/
def execPushe (n a : BitVec 5) (y : BitVec 3) (s : State) : Host.Outcome State Fault Refusal :=
  issue (.pushe n a y) (cyc y) [a] [] false (do
    let p := n.toNat
    let x ← me
    let pair := (← myCore).twin.isSome
    if p ≤ 8 then
      let v ← rd a
      if isSpec x then holdEffect (.push p v)
      else if pair then
        let _ ← shared (do let _ ← liveLease p; return 0)
        twinHold (.push p v)
      else
        pushRelease true
        let _ ← pushWord p v
    else
      let c ← rdReg a
      let r ← access c a.toNat (capAddr c.bits) 64 accLoad
      let d ← loadPlace r.1 64 false
      if isSpec x then holdEffect (.launchPush d)
      else if pair then twinHold (.launchPush d)
      else
        pushRelease true
        pushDesc (← meSender) d) s

/-- The first result of e15 that belongs to a context, taken out (R27). -/
def takeResult (f : Sender) (l : List LaunchResult) : Option (LaunchResult × List LaunchResult) :=
  match l with
  | [] => none
  | r :: t => if r.src = f then some (r, t) else (takeResult f t).map fun p => (p.1, r :: p.2)

/-- POPE on e15 (R27, R176): it waits while the descriptor of its push has yet to flood. -/
def popLaunch : M W64 := do
  let s ← get
  let f ← meSender
  match takeResult f s.launchResults with
  | some (r, l) =>
    await_ (!r.waits)
    set { s with launchResults := l }
    return r.word
  | none => if s.launchPushes.any fun p => p.src = f then stall else fault cLEASE 15

/-- POPE on e1 to e8 (R176). -/
def popPort (port : Nat) : M W64 := do
  let l ← liveLease port
  match l.results with
  | w :: r =>
    modify fun s => putLease s { l with results := r }
    return w
  | [] => if willResult l l.words (cmdSkip l) then stall else fault cLEASE (natW port)

/-- POPE (R372). -/
def execPope (d n : BitVec 5) (y : BitVec 3) (s : State) : Host.Outcome State Fault Refusal :=
  issue (.pope d n y) (cyc y) [] [d] false (do
    notSpec
    twinFlush
    afterRelease
    wr d (← shared (if n.toNat ≤ 8 then popPort n.toNat else popLaunch))) s

/-- Addresses of the segments of a lease, in ascending order (R177). -/
def segmentsOf (v : W64) (rows per : Nat) : List (List W64) :=
  (List.range rows).map fun i => (List.range per).map fun j => v + natW (i * 2 ^ 23 + j * 1024)

/-- Steps 1 to 3 of R104 for each segment (R298). -/
def checkSegments (c : Reg) (r : Nat) (l : List W64) : M Unit := do
  match l with
  | [] => return
  | v :: t =>
    faultIf (!c.tag) cCAPT (natW r)
    let _ ← orFault (checkBounds c.bits v 1024 accBoth)
    checkSegments c r t

/-- Steps 5 and 7 of R104 and the placement rules of R177, for each segment in ascending address order; the physical addresses with their
entries. `seen` holds the addresses placed so far, `per` the segments of a row. -/
def placeSegments (l : List W64) (per : Nat) (seen : List (Nat × W64)) : M (List (Nat × W64)) := do
  match l with
  | [] => return seen
  | v :: t =>
    let s ← get
    match spaceOf s s.cur.core v with
    | some (.global va) =>
      let e ← lookup s.cur.core va v
      let pa := e.pa + (va - e.va)
      let k := seen.length
      let bankOf := fun a : Nat => a / 2 ^ 10 % 16
      let groupOf := fun a : Nat => a / 2 ^ 14 % 2 ^ 9
      let rowOf := fun a : Nat => a / 2 ^ 23
      let first := (seen.getD 0 (pa, 0)).1
      let mate := (seen.getD (k % per) (pa, 0)).1
      let ok := inHbm s pa && groupOf pa == groupOf first && rowOf pa == rowOf first + k / per &&
        (if k < per then !((seen.map fun q => bankOf q.1).contains (bankOf pa)) else bankOf pa == bankOf mate)
      faultIf (!ok) cPAGE v
      placeSegments t per (seen ++ [(pa, e.pte)])
    | _ => fault cPAGE v

/-- Page permissions of the segments, and key 0 (R298). -/
def permitSegments (l : List (W64 × W64)) : M Unit := do
  match l with
  | [] => return
  | (v, pte) :: t =>
    faultIf (!bitAt pte 1 || !bitAt pte 2 || bits pte 59 52 != 0) cPERM v
    permitSegments t

/-- The checks of BLEASE and its request (R298). -/
def askLease (i : Instr) (port : Nat) (a b : BitVec 5) (all : Bool) : M Unit := do
  let c ← rdReg a
  let w ← rd b
  illopIf (bits w 15 12 != 0 || bits w 63 22 != 0) i
  let f ← meSender
  faultIf (findLease (← get) f port).isSome cLEASE (natW port)
  let v := capAddr c.bits
  let per := if all then 16 else 1
  let segs := segmentsOf v (bits w 21 16 + 1) per
  checkSegments c a.toNat (segs.flatMap id)
  faultIf (v.toNat % (1024 * per) != 0) cALIGN v
  let placed ← placeSegments (segs.flatMap id) per []
  permitSegments ((segs.flatMap id).zip (placed.map fun p => p.2))
  pushRelease true
  let pas := placed.map fun p => p.1
  let byBank := fun row : List Nat => ((List.range 16).filterMap fun bk => row.find? fun pa => pa / 2 ^ 10 % 16 = bk)
  let rows := (List.range segs.length).map fun k => byBank ((pas.drop (k * per)).take per)
  let units := (rows.getD 0 []).map fun pa => pa / 2 ^ 10 % 2 ^ 13
  modify fun s => { s with
    nextLease := s.nextLease + 1
    leases := s.leases ++ [{ id := s.nextLease, holder := f, port := port, isAll := all, micros := bits w 11 0 + 1, rows := rows, units := units,
                             took := 0, granted := false, expired := false, since := 0, allMode := all, bank := 0, vbufs := [], words := [],
                             current := none, results := [] }] }
  setMe fun x => { x with waiting := some (.blease port) }

/-- BLEASE (R177, R298): the request waits for its units, and the instruction completes when the lease has taken effect. -/
def execBlease (n a b : BitVec 5) (all : BitVec 1) (y : BitVec 3) (s : State) : Host.Outcome State Fault Refusal :=
  let i : Instr := .blease n a b all y
  issue i (cyc y) [a, b] [] false (do
    notSpec
    twinFlush
    let _ ← shared (do
      let x ← me
      if x.waiting = some (.leased n.toNat) then return 0
      else if x.waiting = some (.blease n.toNat) then stall
      else
        askLease i n.toNat a b (all = 1)
        stall)) s

/-- BFREE (R180, R294). -/
def execBfree (n : BitVec 5) (y : BitVec 3) (s : State) : Host.Outcome State Fault Refusal :=
  issue (.bfree n y) (cyc y) [] [] false (do
    notSpec
    twinFlush
    let _ ← shared (do
      let f ← meSender
      match findLease (← get) f n.toNat with
      | none => fault cLEASE (natW n.toNat)
      | some l =>
        modify fun s => endLease s l
        return 0)) s

/-- SBIND (R172, R378). -/
def execSbind (n a b : BitVec 5) (z : BitVec 4) (y : BitVec 3) (s : State) : Host.Outcome State Fault Refusal :=
  let i : Instr := .sbind n a b z y
  issue i (cyc y) [a, b] [] false (do
    notSpec
    let x ← me
    let c ← rdReg a
    let w ← rd b
    illopIf (bits w 63 32 != 0 || (vecGet x.s n.toNat none).isSome) i
    let v := capAddr c.bits
    let len := bits w 31 0
    let s ← get
    faultIf (!c.tag) cCAPT (natW a.toNat)
    let _ ← orFault (checkBounds c.bits v len accBoth)
    match spaceOf s s.cur.core v with
    | some (.cell d o) =>
      faultIf (d != coreNum s s.cur.core || decide (2 ^ 20 < o + len)) cREMOTELD v
      faultIf (undoLog s d o len) cPERM v
      faultIf (len &&& (len - 1) != 0 || decide (len < 2 ^ (z.toNat + 1)) || decide (65536 < len) || v.toNat % len != 0) cALIGN v
      setMe fun x => { x with s := vecSet x.s n.toNat (some ⟨o, len, z.toNat, 0, 0⟩) }
    | _ => fault cREMOTELD v) s

/-- SFREE (R175, R383). -/
def execSfree (n : BitVec 5) (y : BitVec 3) (s : State) : Host.Outcome State Fault Refusal :=
  issue (.sfree n y) (cyc y) [] [] false (do
    notSpec
    setCore fun k => { k with twin := k.twin.map fun t =>
      { t with kept := t.kept.filter fun e => match e with
        | .elem _ m _ => m != n.toNat
        | _ => true } }
    modify fun s => freeStream s s.cur n.toNat) s

/-- Tokens of a WAITK mask. -/
def maskTokens (m : Nat) : List Nat := (List.range 8).filter fun k => m / 2 ^ k % 2 = 1

/-- The outcome of WAITK on the context's own tokens (R167): it waits, raises the recorded fault of the lowest erring token, or goes on. -/
def waitTokens (m : Nat) : M W64 := do
  let x ← me
  let l := maskTokens m
  await_ (l.all fun k => (vecGet x.k k tokenReset).count == 0)
  match l.find? fun k => (vecGet x.k k tokenReset).err with
  | none => return 0
  | some k =>
    let t := vecGet x.k k tokenReset
    let clear := fun x : Ctx => { x with k := vecModify x.k k fun t => { t with err := false } }
    modify fun s => match (curCore s).twin with
      | none => onBoth s s.cur clear
      | some t => onBoth (onBoth s s.cur clear) ⟨t.partner, 0⟩ clear
    throw (.trap ⟨t.code, false, t.val⟩)

/-- WAITK (R167, R418). In a twinned pair the outcome is an input of both cores (R256). -/
def execWaitk (lo : BitVec 5) (hi : BitVec 3) (y : BitVec 3) (s : State) : Host.Outcome State Fault Refusal :=
  issue (.waitk lo hi y) (cyc y) [] [] false (do
    notSpec
    twinFlush
    afterRelease
    let _ ← shared (waitTokens (lo.toNat + 32 * hi.toNat))) s

end Sys2Proof.Machine
end

