-- ==== Sys2Proof/Machine/Control.lean ====
section
/-! DEFINITION. Control flow, traps, helpers and the end of a context (R35, R47, R59 to R61, R242 to R246, R286, R313 to R318, R331, R332,
R343 to R345, R369, R376, R386, R392, R394). -/

namespace Sys2Proof.Machine

/-- The link of CALL and JR: PCC with its cursor at NPC (R318). -/
def linkCap (x : Ctx) : Reg := ⟨capWithAddr x.pcc (nextPc x 4), true⟩

/-- Continue at a branch target; a fault of the target is the target's own fetch fault (R286). -/
def goto_ (off : Int) : M (Option W64) := do return some (branchTarget (← me) off)

/-- BR (R313). -/
def execBr (off : BitVec 20) (y : BitVec 3) (s : State) : Host.Outcome State Fault Refusal :=
  issueTo (.br off y) (cyc y) [] [] false (goto_ off.toInt) s

/-- The 16-bit BR (R313). -/
def execBr16 (off : BitVec 11) (s : State) : Host.Outcome State Fault Refusal :=
  issueTo (.br16 off) 1 [] [] true (goto_ off.toInt) s

/-- BRB (R314). -/
def execBrb (a : BitVec 5) (bit : BitVec 6) (sense : BitVec 1) (off : BitVec 8) (y : BitVec 3) (s : State) : Host.Outcome State Fault Refusal :=
  issueTo (.brb a bit sense off y) (cyc y) [a] [] false (do
    if bitAt (← rd a) bit.toNat = (sense = 1) then goto_ off.toInt else return none) s

/-- The condition of BRC (R315). -/
def brcTest (cond : BitVec 2) (p q : W64) : Bool :=
  match cond.toNat with
  | 0 => p == q
  | 1 => p != q
  | 2 => p.slt q
  | _ => !p.slt q

/-- BRC (R315). -/
def execBrc (a b : BitVec 5) (cond : BitVec 2) (off : BitVec 8) (y : BitVec 3) (s : State) : Host.Outcome State Fault Refusal :=
  issueTo (.brc a b cond off y) (cyc y) [a, b] [] false (do
    if brcTest cond (← rd a) (← rd b) then goto_ off.toInt else return none) s

/-- The jump of JR and RET through a register (R345): a tagged one replaces PCC. -/
def jumpReg (t : Reg) : M (Option W64) := do
  setMe fun x => if t.tag then { x with pcc := t.bits } else x
  return some (capAddr t.bits)

/-- JR (R345). -/
def execJr (d a : BitVec 5) (y : BitVec 3) (s : State) : Host.Outcome State Fault Refusal :=
  issueTo (.jr d a y) (cyc y) [a] [d] false (do
    let t ← rdReg a
    wrReg d (linkCap (← me))
    jumpReg t) s

/-- CALL (R318): c31 is written even when the target faults. -/
def execCall (off : BitVec 20) (y : BitVec 3) (s : State) : Host.Outcome State Fault Refusal :=
  issueTo (.call off y) (cyc y) [] [31] false (do
    wrReg 31 (linkCap (← me))
    goto_ off.toInt) s

/-- RET (R376): c31 is read after its pending writes have landed. -/
def execRet (y : BitVec 3) (s : State) : Host.Outcome State Fault Refusal :=
  issueTo (.ret y) (cyc y) [31] [] true (do jumpReg (← rdReg 31)) s

/-- The 16-bit RET (R376). -/
def execRet16 (s : State) : Host.Outcome State Fault Refusal :=
  issueTo .ret16 1 [31] [] true (do jumpReg (← rdReg 31)) s

/-- NOP (R369). -/
def execNop (y : BitVec 3) (s : State) : Host.Outcome State Fault Refusal := issue (.nop y) (cyc y) [] [] false (pure ()) s

/-- The 16-bit NOP (R369). -/
def execNop16 (s : State) : Host.Outcome State Fault Refusal := issue .nop16 1 [] [] true (pure ()) s

/-- The trap of BRK (R246, R316). -/
def breakTrap : M Unit := throw (.trapNext ⟨cBREAK, false, 0⟩)

/-- BRK (R316). -/
def execBrk (y : BitVec 3) (s : State) : Host.Outcome State Fault Refusal := issue (.brk y) (cyc y) [] [] false breakTrap s

/-- The 16-bit BRK (R316). -/
def execBrk16 (s : State) : Host.Outcome State Fault Refusal := issue .brk16 1 [] [] true breakTrap s

/-- TRAP (R246, R392) for codes 0 to 1,022. -/
def execTrap (imm : BitVec 10) (y : BitVec 3) (s : State) : Host.Outcome State Fault Refusal :=
  issue (.trap imm y) (cyc y) [] [] false (throw (.trapNext ⟨cSWTRAP, false, natW imm.toNat⟩)) s

/-- TRAP 1023 seals the core with the cause SWTRAP (R246, R263). A speculative task stalls at it (R248). -/
def execTrapSeal (y : BitVec 3) (s : State) : Host.Outcome State Fault Refusal :=
  issue (.trapSeal y) (cyc y) [] [] false (do
    notSpec
    modify fun s => sealPair s s.cur.core cSWTRAP s.cur.cx) s

/-- ERET (R332). -/
def execEret (y : BitVec 3) (s : State) : Host.Outcome State Fault Refusal :=
  let i : Instr := .eret y
  issueTo i (cyc y) [] [] false (do
    illopIf (!(← me).handler) i
    returnTrap) s

/-- TSGET (R394). -/
def execTsget (d : BitVec 5) (y : BitVec 3) (s : State) : Host.Outcome State Fault Refusal :=
  issue (.tsget d y) (cyc y) [] [d] false (do wr d ((← me).tstamp.setWidth 64)) s

/-- TSHOR (R394); an input of a twinned pair (R256). -/
def execTshor (d : BitVec 5) (y : BitVec 3) (s : State) : Host.Outcome State Fault Refusal :=
  issue (.tshor d y) (cyc y) [] [d] false (do wr d (← inputW (natW (horizon (← myCore))))) s

/-- The lowest-numbered free helper of a core (R35). -/
def freeHelper (s : State) (c : Nat) : Option Nat :=
  (List.range 11).find? fun h => h != 0 && (getCtx s ⟨c, h⟩).status == .free

/-- A helper as START leaves it (R35, R386). -/
def startHelper (s : State) (h : Nat) (t : Reg) (args : List Reg) : State :=
  let me := curCtx s
  let id : CtxId := ⟨s.cur.core, h⟩
  let x := helperReset s id
  let c := vecSet (vecSet (vecSet (vecSet x.c 1 (args.getD 0 regNull)) 2 (args.getD 1 regNull)) 3 (args.getD 2 regNull)) 4 (args.getD 3 regNull)
  let c := vecSet (vecSet c 5 (dataReg (natW s.cur.cx))) 6 (argCap s s.cur.core)
  beginCtx s id { x with status := .live, starter := s.cur.cx, c := c, pcc := if t.tag then t.bits else me.pcc, pc := capAddr t.bits }

/-- START (R35, R132, R386). -/
def execStart (d a b : BitVec 5) (y : BitVec 3) (s : State) : Host.Outcome State Fault Refusal :=
  issue (.start d a b y) (cyc y) (a :: regRange b 4) [d] false (do
    notSpec
    if (← myCore).twin.isSome then wr d 0
    else match freeHelper (← get) (← get).cur.core with
      | none => wr d 0
      | some h =>
        drainOwn
        let x ← me
        let t ← rdReg a
        modify fun s => startHelper s h t ((regRange b 4).map fun r => readReg x r)
        wr d (natW h)) s

/-- HJOIN (R35, R132, R343): of the contexts that wait for one helper the lowest collects, and the use of it that the others asked for is then over. -/
def execHjoin (d a : BitVec 5) (y : BitVec 3) (s : State) : Host.Outcome State Fault Refusal :=
  issue (.hjoin d a y) (cyc y) [a] [d] false (do
    notSpec
    let v ← rd a
    let s ← get
    let h := v.toNat
    faultIf (h = 0 || decide (10 < h) || h = s.cur.cx) cILLOP v
    let id : CtxId := ⟨s.cur.core, h⟩
    let z := getCtx s id
    let asked : Nat := match (curCtx s).waiting with
      | some (.hjoin g e) => if g = h then e else z.epoch
      | _ => z.epoch
    faultIf (z.status == .free || z.status == .task || asked != z.epoch) cILLOP v
    setMe fun x => { x with waiting := some (.hjoin h z.epoch) }
    await_ (z.status == .joinable)
    await_ (!((curCore s).ctxs.any fun p => decide (p.1 < s.cur.cx) && alive p.2 && p.2.waiting == some (.hjoin h z.epoch)))
    let f := senderOf s id
    await_ (bufEmpty s f && !(s.flights.any fun g => g.src = f && g.inDie))
    modify fun s => onCtx s id fun x => { x with status := .free }
    wrReg d (readReg z 1)) s

/-- The wake events that IDLE reports (R47): bit 5 only when it names a time. -/
def wakeBits (x : Ctx) (time : W64) (t : Option W64) : Nat :=
  x.wake.toNat % 32 + (match t with
    | some t => if t ≤ time || x.wake.toNat / 32 % 2 = 1 then 32 else 0
    | none => 0)

/-- IDLE (R47, R344). -/
def execIdle (d a : BitVec 5) (y : BitVec 3) (s : State) : Host.Outcome State Fault Refusal :=
  issue (.idle d a y) (cyc y) [a] [d] false (do
    notSpec
    twinFlush
    let v ← rd a
    let t := if a = 0 then none else some v
    wr d (← shared (do
      let x ← me
      let w := wakeBits x (← get).mg.time t
      if w = 0 then
        setMe fun x => { x with idling := some t }
        stall
      else
        modify fun s => onBoth s s.cur fun x => { x with wake := 0 }
        return natW w))) s

/-- TIME_REACHED (R47): the time that an IDLE names has come. -/
def execTimeReached (core cx : Nat) (s : State) : Host.Outcome State Fault Refusal :=
  match (getCtx s ⟨core, cx⟩).idling with
  | some (some t) => if t ≤ s.mg.time then .next (onBoth s ⟨core, cx⟩ fun x => { x with wake := x.wake ||| 32 }) else .next s
  | _ => .next s

/-- What a pair has kept goes on to its primary in the order of arrival when the pair parts (R256, R260). -/
def keptFlight (s : State) (p : Nat) (k : Kept) : List Flight :=
  match k with
  | .store src off l cap => [⟨src, coreNum s p, .store off l cap, false⟩]
  | .patch src off l => [⟨src, coreNum s p, .patch off l, false⟩]
  | .msg m => [⟨m.src, coreNum s p, .msg m, false⟩]
  | .elem _ _ _ => []

/-- One element that a pair has kept enters a stream of a core's control context (R173, R256). -/
def keptElem (s : State) (c : Nat) (k : Kept) : State :=
  match k with
  | .elem _ n l =>
    match vecGet (getCtx s ⟨c, 0⟩).s n none with
    | some t =>
      let s := cellPut s c (t.base + t.wr * 2 ^ t.elog % t.len) l none none
      onCtx s ⟨c, 0⟩ fun x => { x with s := vecSet x.s n (some { t with wr := t.wr + 1 }) }
    | none => s
  | _ => s

/-- The two cores of a pair part (R260): bank 15 reads zero, TWINCTL reads 0, the secondary is free and no longer resident, so that the open phases at its
barrier home are discarded (R238). -/
def unpair (s : State) (p q : Nat) : State :=
  let kept := ((getCore s p).twin.map fun t => t.kept).getD []
  let s := { kept.foldl (fun s k => keptElem s p k) s with flights := kept.flatMap (keptFlight s p) ++ s.flights }
  let clear := fun k : Core => { k with
    twin := none
    twinState := 0
    twinPartner := 0
    cell := k.cell.filter fun b => decide (b.1 < 0xF0000) }
  let s := breakPhases (onCore (onCore s p clear) q clear) (coreNum s q) (fun _ => true)
  let s := onCore s q fun k => { k with launch := savedIdentity s q, ctxs := k.ctxs.map fun x => if x.1 = 0 then (0, ctxOver x.2 .free) else x }
  noteCore (noteCore s p) q

/-- In a pair, an instruction that ends the interval waits until the checkpoint before it has been taken (R258). -/
def twinBoundary : M Unit := do
  match (← myCore).twin with
  | none => return
  | some t =>
    if t.retired = 0 && t.held.isEmpty then return
    else
      setCore fun k => { k with twin := k.twin.map fun w => { w with due := true } }
      stall

/-- The secondary has executed the instruction that ends the pairing. -/
def twinPart : M Unit := do
  match (← myCore).twin with
  | none => return
  | some t => if t.primary then return else modify fun s => unpair s t.partner s.cur.core

/-- UNTWIN (R260, R397). -/
def execUntwin (y : BitVec 3) (s : State) : Host.Outcome State Fault Refusal :=
  issue (.untwin y) (cyc y) [] [] false (do
    twinBoundary
    twinPart) s

/-- DONE (R331): its kinds of context, and everything that ends with the context. -/
def doneBody : M Unit := do
  twinBoundary
  let x ← me
  let callee : Bool := match x.task with
    | some t => x.status == .task && t.msg.kind == .callat
    | none => false
  if callee then
    drainOwn
    releaseAt (← meSender) (bufNext (← myCore)) (← myDie) (scopeTo (← get) (← get).cur.core ((x.task.map fun t => t.msg.src.core).getD 0))
  if isSpec x then
    -- held effects drain at its commit, which ends it; what DONE ends goes now
    let s ← get
    let f ← meSender
    set (freeStreams (dropLeases s f) s.cur)
    setMe fun x => { ctxOver x .task with task := x.task.map fun t => { t with finished := true } }
  else
    let f ← meSender
    modify fun s => (s.leases.filter fun l => l.holder = f).foldl endLease s
    let v ← rdReg 1
    modify fun s => endContext s s.cur (some v)
    twinPart

/-- The register that DONE reads: a joinable helper and a callee return X(c1) (R331). -/
def doneReads (x : Ctx) : List (BitVec 5) :=
  match x.task with
  | some t => if t.msg.kind == .callat then [1] else []
  | none => if x.status == .live then [1] else []

/-- DONE (R331): a pending write of c1 is returned at its older value (R67). -/
def execDone (y : BitVec 3) (s : State) : Host.Outcome State Fault Refusal :=
  issue (.done y) (cyc y) (if s.cur.cx = 0 then [] else doneReads (curCtx s)) [] false doneBody s

/-- The 16-bit DONE (R331): it waits for a pending write of c1 (R64). -/
def execDone16 (s : State) : Host.Outcome State Fault Refusal :=
  issue .done16 1 (if s.cur.cx = 0 then [] else doneReads (curCtx s)) [] true doneBody s

/-- What a GUARD decides (R59): it waits for pending writes, and the next instruction of the pair runs or is suppressed. When its register awaits a
CALLAT deposit under CHKSB, the pair raises STALLCNT, behind the fetch fault and the ILLOP of the guarded instruction (R41, R61, R75). -/
def guardWith (a : BitVec 5) (bit : BitVec 6) (sense : Bool) (s : State) : State :=
  let x := curCtx s
  match scoreboardHit x [a] [a] with
  | some r => putCtx s s.cur { x with guard := .unread r }
  | none =>
    let x := landDue (landRegs x [a]) 1
    putCtx s s.cur { x with guard := if bitAt (regData (readReg x a)) bit.toNat = sense then .pass else .suppress }

/-- GUARD.t (R342). -/
def execGuardT (a : BitVec 5) (bit : BitVec 6) (s : State) : Host.Outcome State Fault Refusal := .next (guardWith a bit true s)

/-- GUARD.f (R342). -/
def execGuardF (a : BitVec 5) (bit : BitVec 6) (s : State) : Host.Outcome State Fault Refusal := .next (guardWith a bit false s)

/-- DEFERRED_FAULT_ENTRY (R38, R243, R244). -/
def execDeferredFaultEntry (core cx : Nat) (s : State) : Host.Outcome State Fault Refusal := .next (takeDeferred s ⟨core, cx⟩)

end Sys2Proof.Machine
end

