-- ==== Sys2Proof/Machine/Barriers.lean ====
section
/-! DEFINITION. Barrier instructions (R236 to R239, R292, R297, R317). -/

namespace Sys2Proof.Machine

/-- Change one barrier of the executing context. -/
def setBar (n : Nat) (f : Barrier → Barrier) : M Unit := setMe fun x => { x with bar := vecModify x.bar n f }

/-- One barrier of the executing context. -/
def myBar (n : Nat) : M Barrier := do return vecGet (← me).bar n ⟨.unset, 0, 0⟩

/-- BINIT (R236, R237, R297). -/
def execBinit (n : BitVec 3) (a b : BitVec 5) (y : BitVec 3) (s : State) : Host.Outcome State Fault Refusal :=
  let i : Instr := .binit n a b y
  issue i (cyc y) [a, b] [] false (do
    let home := bits (← rd a) 21 0
    let count := (← rd b).toNat
    illopIf (count = 0 || decide (1024 < count) || (← myBar n.toNat).st == .waiting) i
    setBar n.toNat fun _ => ⟨.idle, home, count⟩) s

/-- BARR (R237 to R239, R292): the arrival leaves through the store buffer; a speculative task or a twinned pair holds it. -/
def execBarr (n : BitVec 3) (y : BitVec 3) (s : State) : Host.Outcome State Fault Refusal :=
  let i : Instr := .barr n y
  issue i (cyc y) [] [] false (do
    let b ← myBar n.toNat
    illopIf (b.st == .unset || b.st == .waiting) i
    issueBuf (.arrive n.toNat b.count b.home) false
    setBar n.toNat fun b => { b with st := .waiting }) s

/-- A context stalls in BWAIT from its first turn on, whatever it waits for (R237, R238). -/
def stallsInBar (n : Nat) (x : Ctx) : Ctx :=
  match x.waiting with
  | some (.broken _) => x
  | _ => if (vecGet x.bar n ⟨.unset, 0, 0⟩).st == .waiting then { x with waiting := some (.bwait n) } else x

/-- The wait of BWAIT: a discarded phase raises its MSGERR here, precisely (R238). -/
def waitBar (i : Instr) (n : Nat) : M W64 := do
  match (← me).waiting with
  | some (.broken t) => throw (.trap t)
  | _ =>
    let b ← myBar n
    match b.st with
    | .done => return 0
    | .waiting => stall
    | _ => illop i

/-- BWAIT (R237, R239, R317): returning, it acquires for its die. -/
def execBwait (n : BitVec 3) (y : BitVec 3) (s : State) : Host.Outcome State Fault Refusal :=
  let i : Instr := .bwait n y
  issue i (cyc y) [] [] false (do
    notSpec
    setMe (stallsInBar n.toNat)
    twinFlush
    afterRelease
    let _ ← shared (waitBar i n.toNat)
    setBar n.toNat fun b => { b with st := .done }
    modify fun s => acquireDie s (dieOf s.cur.core)) s

end Sys2Proof.Machine
end

