-- ==== Sys2Proof/Machine/Copies.lean ====
section
/-! DEFINITION. Copies: their issue, their pieces, formats and the scale band, streams (R108, R154, R160 to R175, R266, R380, R384, R419). -/

namespace Sys2Proof.Machine

/-- The absolute mesh address of an offset in a core's cell memory (R102). -/
def meshAddr (num off : Nat) : W64 :=
  natW (0xC * 2 ^ 60 + num / 1024 * 2 ^ 48 + coreY (num % 1024) * 2 ^ 37 + coreX (num % 1024) * 2 ^ 32 + off)

/-- Steps 1 to 6 of R104 over a source range in own cell memory (R161); its offset. -/
def ownRange (cap : Reg) (r : Nat) (n : Nat) : M Nat := do
  let a := capAddr cap.bits
  faultIf (!cap.tag) cCAPT (natW r)
  let _ ← orFault (checkBounds cap.bits a n accCopySrc)
  let s ← get
  match spaceOf s s.cur.core a with
  | none => fault cPAGE a
  | some (.cell d o) =>
    faultIf (decide (2 ^ 20 < o + n)) cPAGE (a + natW (2 ^ 20 - o))
    faultIf (d != coreNum s s.cur.core) cREMOTELD a
    faultIf (undoLog s d o n) cPERM a
    return o
  | _ => fault cREMOTELD a

/-- Steps 1 to 6 of R104 over a destination range in mesh space; the target core number and offset. -/
def meshRange (cap : Reg) (r : Nat) (a : W64) (n : Nat) : M (Nat × Nat) := do
  faultIf (!cap.tag) cCAPT (natW r)
  let _ ← orFault (checkBounds cap.bits a n accCopyDst)
  let s ← get
  match spaceOf s s.cur.core a with
  | some (.cell d o) =>
    faultIf (decide (2 ^ 20 < o + n)) cPAGE (a + natW (2 ^ 20 - o))
    faultIf (d == coreNum s s.cur.core && undoLog s d o n) cPERM a
    return (d, o)
  | _ => fault cPAGE a

/-- Steps 1 to 6 of R104 over a range in global space. -/
def globalRange (cap : Reg) (r : Nat) (n : Nat) (k : Access) : M Unit := do
  let a := capAddr cap.bits
  faultIf (!cap.tag) cCAPT (natW r)
  let _ ← orFault (checkBounds cap.bits a n k)
  let s ← get
  match spaceOf s s.cur.core a with
  | some (.global va) => faultIf (decide (2 ^ 48 < va + n)) cPAGE (natW (2 ^ 48))
  | _ => fault cPAGE a

/-- The format of a cell-memory bank (R57, R108). -/
def bankFmt (k : Core) (bank : Nat) : Nat := mapGetD k.bfmt bank 15

/-- Bank offsets that hold code blocks (R109). -/
def codeArea (f : Nat) : Nat := if f = 0 then 3640 * 18 else if f ≤ 4 then 0xF000 else 65536

/-- The source range of a copy from own cell memory: lowest offset and the end (R170). -/
def srcRange (l : List Run) : Nat × Nat :=
  (l.foldl (fun m r => min m r.src.toNat) (2 ^ 20), l.foldl (fun m r => max m (r.src.toNat + r.len)) 0)

/-- A SEND or SPREAD carries scales (R170): its source bank holds a format 0 to 4 and its range is whole source blocks within that bank. -/
def carriesScales (f lo hi : Nat) : Bool :=
  decide (f ≤ 4) && decide (lo < hi) && lo / 65536 == (hi - 1) / 65536 && lo % 65536 % blockBytes f == 0 && (hi - lo) % blockBytes f == 0 &&
    decide (hi - lo / 65536 * 65536 ≤ codeArea f)

/-- A tile fetch: no copy, though a token counts it (R192). -/
def isFetch (q : Copy) : Bool :=
  match q.kind with
  | .tfetch _ => true
  | _ => false

/-- Copies of a core in flight (R161). -/
def inFlight (k : Core) : Nat := (k.copies.filter fun q => !isFetch q).length

/-- A copy enters the copy port (R161): it takes its number. -/
def enterCopy (q : Copy) : M Unit := do
  await_ (decide (inFlight (← myCore) < 16))
  setCore fun k => { k with nextCopy := k.nextCopy + 1, copies := k.copies ++ [{ q with id := k.nextCopy }] }

/-- The formats of the source banks of a copy, as they stand where it is issued, and whether it carries scales (R108, R170). -/
def sourceFmts (k : Core) (q : Copy) : Copy :=
  let cells := q.kind == .send || q.kind == .spread
  let ends := srcRange q.all
  let fmts : SMap Nat := if cells then (List.range 16).map fun b => (b, bankFmt k b) else []
  { q with srcFmts := fmts, scaled := cells && carriesScales (mapGetD fmts (ends.1 / 65536) 15) ends.1 ends.2 }

/-- Issue a copy with its runs (R160, R161): the token gains an operation; a copy of length 0 completes at once. The formats of its source banks are read
now (R108, R170). Speculative tasks and twinned pairs hold it (R44, R256). `wide` is set for a source in global memory. -/
def issueCopy (k : BitVec 3) (kind : CopyKind) (runs : List Run) (wide : Bool) : M Unit := do
  let x ← me
  let core ← myCore
  await_ (decide ((vecGet x.k k.toNat tokenReset).count < 255) && decide (inFlight core < 16))
  let runs := runs.filter fun r => r.len != 0
  if runs.isEmpty then setMe fun x => tokenDone (tokenAdd x k.toNat) k.toNat none
  else
    let s ← get
    let f ← meSender
    let q : Copy := sourceFmts core
      { id := 0, src := f, tok := k.toNat, kind := kind, all := runs, runs := runs, flying := [], srcFmts := [], dstFmts := [], failed := [],
        scaled := false, queue := ((getCore s s.cur.core).launch.map (·.queue)).getD 0, begun := false, fault := none, err := none }
    if isSpec x then holdEffect (.copy q)
    else if core.twin.isSome then twinHold (.copy q)
    else
      pushRelease wide
      enterCopy q
    setMe fun x => tokenAdd x k.toNat

/-- SEND (R160, R380). The range checked at the target is as long as the source range, also where the receiver converts, since only the receiver knows the
converted length; SPREAD does the same (DESIGN CHOICE, log 77: R161 does not say which length counts). -/
def execSend (d a b : BitVec 5) (k y : BitVec 3) (s : State) : Host.Outcome State Fault Refusal :=
  let i : Instr := .send d a b k y
  issue i (cyc y) [d, a, b] [] false (do
    let n := bits (← rd b) 31 0
    illopIf (bits (← rd b) 63 32 != 0) i
    let o ← ownRange (← rdReg a) a.toNat n
    let c ← rdReg d
    let t ← meshRange c d.toNat (capAddr c.bits) n
    issueCopy k .send [⟨natW o, meshAddr t.1 t.2, 0, n, t.1⟩] false) s

/-- SENDS (R173, R380). -/
def execSends (d a b : BitVec 5) (k y : BitVec 3) (s : State) : Host.Outcome State Fault Refusal :=
  let i : Instr := .sends d a b k y
  issue i (cyc y) [d, a, b] [] false (do
    let w ← rd b
    illopIf (bits w 63 35 != 0) i
    let o ← ownRange (← rdReg a) a.toNat (bits w 31 0)
    issueCopy k (.sends (bits w 34 32)) [⟨natW o, 0, 0, bits w 31 0, bits (← rd d) 21 0⟩] false) s

/-- The fields of a SPREAD descriptor (R168). -/
structure SpreadDesc where
  axis : Nat
  h : Nat
  w : Nat
  rowLen : Nat
  rows : Nat
  br : Nat
deriving DecidableEq, Repr, Inhabited

/-- Read a SPREAD descriptor; none for a reserved bit or a field out of range (R168). -/
def spreadDesc (l : List Byte) : Option SpreadDesc :=
  let w := fun j => natW (ofBytes ((l.drop (8 * j)).take 8))
  let d : SpreadDesc := ⟨bits (w 0) 10 10, bits (w 0) 9 5 + 1, bits (w 0) 4 0 + 1, bits (w 1) 63 32, bits (w 1) 31 0, bits (w 2) 15 0⟩
  if bits (w 0) 63 11 != 0 || bits (w 2) 63 16 != 0 || w 3 != 0 || d.rowLen = 0 || decide (2 ^ 20 < d.rowLen) || d.rows = 0 || d.br = 0 then none
  else some d

/-- Source bytes of block `b` of a SPREAD: its start and length (R168). -/
def spreadBlock (d : SpreadDesc) (b : Nat) : Nat × Nat := (b * d.br * d.rowLen, min d.br (d.rows - b * d.br) * d.rowLen)

/-- The blocks that index `x` along the chosen axis receives (R169). -/
def spreadBlocks (d : SpreadDesc) (x : Nat) : List Nat :=
  let n := if d.axis = 0 then d.w else d.h
  (List.range ((d.rows + d.br - 1) / d.br)).filter fun b => b % n == x

/-- Bytes that index `x` receives, from DOFF on (R169). -/
def spreadExtent (d : SpreadDesc) (x : Nat) : Nat :=
  let n := if d.axis = 0 then d.w else d.h
  (spreadBlocks d x).foldl (fun m b => max m (b / n * d.br * d.rowLen + (spreadBlock d b).2)) 0

/-- Check the targets of a SPREAD in ascending y, then x, which decides whose fault is raised (DESIGN CHOICE, log 29: R169 gives no order), and give each
target's number, offset and index along the axis (R169). The address that its bounds are checked with is formed in cd's own form, each coordinate field
modulo 32 (DESIGN CHOICE, log 29: R169 does not say how a field that overflows is formed); a target outside 0 to 31 raises PAGE by its coordinates. -/
def spreadTargets (cap : Reg) (r : Nat) (d : SpreadDesc) (l : List (Nat × Nat)) : M (List (Nat × Nat × Nat)) := do
  match l with
  | [] => return []
  | (i, j) :: t =>
    let a := capAddr cap.bits
    let s ← get
    let x := if d.axis = 0 then i else j
    let fx := (bits a 36 32 + i) % 32
    let fy := (bits a 41 37 + j) % 32
    let a' := natW (a.toNat - bits a 41 32 * 2 ^ 32 + fx * 2 ^ 32 + fy * 2 ^ 37)
    match spaceOf s s.cur.core a with
    | some (.cell num _) =>
      let cx := coreX (num % 1024) + i
      let cy := coreY (num % 1024) + j
      faultIf (!cap.tag) cCAPT (natW r)
      let _ ← orFault (checkBounds cap.bits a' (spreadExtent d x) accCopyDst)
      faultIf (decide (31 < cx) || decide (31 < cy)) cPAGE a'
      faultIf (decide (2 ^ 20 < bits a 19 0 + spreadExtent d x)) cPAGE (a' + natW (2 ^ 20 - bits a 19 0))
      let target := num / 1024 * 1024 + coreAt cx cy
      faultIf (target == coreNum s s.cur.core && undoLog s target (bits a 19 0) (spreadExtent d x)) cPERM a'
      return (target, bits a 19 0, x) :: (← spreadTargets cap r d t)
    | _ =>
      faultIf (!cap.tag) cCAPT (natW r)
      let _ ← orFault (checkBounds cap.bits a (spreadExtent d x) accCopyDst)
      fault cPAGE a

/-- SPREAD (R168, R169, R384). A descriptor in global memory is refused with REMOTELD behind all steps of R104 (DESIGN CHOICE, log 29: R168 asks for own cell
memory and names no fault). -/
def execSpread (d a b : BitVec 5) (k y : BitVec 3) (s : State) : Host.Outcome State Fault Refusal :=
  let i : Instr := .spread d a b k y
  issue i (cyc y) [d, a, b] [] false (do
    let dc ← rdReg b
    let p ← access dc b.toNat (capAddr dc.bits) 32 accLoad
    match p.1 with
    | .cell _ _ => pure ()
    | _ => fault cREMOTELD (capAddr dc.bits)
    match spreadDesc (← loadPlace p.1 32 false) with
    | none => illop i
    | some z =>
      let o ← ownRange (← rdReg a) a.toNat (z.rows * z.rowLen)
      let ts ← spreadTargets (← rdReg d) d.toNat z ((List.range z.h).flatMap fun j => (List.range z.w).map fun i => (i, j))
      let n := if z.axis = 0 then z.w else z.h
      let runs := ts.flatMap fun t => (spreadBlocks z t.2.2).map fun bl =>
        (⟨natW (o + (spreadBlock z bl).1), meshAddr t.1 t.2.1, bl / n * z.br * z.rowLen, (spreadBlock z bl).2, t.1⟩ : Run)
      issueCopy k .spread runs false) s

/-- XGET (R160, R419). -/
def execXget (d a b : BitVec 5) (k y : BitVec 3) (s : State) : Host.Outcome State Fault Refusal :=
  let i : Instr := .xget d a b k y
  issue i (cyc y) [d, a, b] [] false (do
    let w ← rd b
    illopIf (bits w 63 32 != 0) i
    let n := bits w 31 0
    let src ← rdReg a
    globalRange src a.toNat n accCopySrc
    let c ← rdReg d
    let t ← meshRange c d.toNat (capAddr c.bits) n
    issueCopy k .xget [⟨capAddr src.bits, meshAddr t.1 t.2, 0, n, t.1⟩] true) s

/-- XPUT (R160, R419). -/
def execXput (d a b : BitVec 5) (k y : BitVec 3) (s : State) : Host.Outcome State Fault Refusal :=
  let i : Instr := .xput d a b k y
  issue i (cyc y) [d, a, b] [] false (do
    let w ← rd b
    illopIf (bits w 63 32 != 0) i
    let n := bits w 31 0
    let o ← ownRange (← rdReg a) a.toNat n
    let c ← rdReg d
    globalRange c d.toNat n accCopyDst
    issueCopy k .xput [⟨natW o, capAddr c.bits, 0, n, 0⟩] false) s

/-- A copy of a core by its number. -/
def findCopy (s : State) (c id : Nat) : Option Copy := (getCore s c).copies.find? fun q => q.id = id

/-- Replace a copy. -/
def putCopy (s : State) (c : Nat) (q : Copy) : State := onCore s c fun k => { k with copies := k.copies.map fun p => if p.id = q.id then q else p }

/-- A deferred fault of a copy takes its place in push order among those of copies (R164). -/
def insertDeferred (l : List Deferred) (t : Trap) (id : Nat) : List Deferred :=
  match l with
  | [] => [⟨t, some id⟩]
  | d :: r => if d.copy.any (fun j => decide (id < j)) then ⟨t, some id⟩ :: d :: r else d :: insertDeferred r t id

/-- A piece of a copy failed: no later piece starts, and the pushing context takes the fault; with that context ended, the copy is abandoned
(R164, R331). -/
def copyFault (s : State) (c : Nat) (q : Copy) (t : Trap) : State :=
  if (findSender s q.src).isSome then
    putCopy (onUse s q.src fun x => { x with deferred := insertDeferred x.deferred t q.id }) c { q with fault := some t }
  else finishCopies (putCopy s c { q with runs := [], err := some t }) c

/-- A target refuses a copy: its context takes the fault deferred, no further piece starts, and the token completes with error (R165, R170). -/
def copyRefuse (s : State) (c : Nat) (q : Copy) (target : Nat) (t : Trap) : State :=
  putCopy (deferTo s q.src t none) c { q with runs := [], failed := target :: q.failed, err := some t }

/-- Stores and copy pieces to a core number find it: present, not sealed, its launch not saved (R107, R165, R252). -/
def accepts (s : State) (num : Nat) : Bool :=
  reachable s num && match localCore s num with
    | some c => (match (getCore s c).launch with
      | some l => !l.saved
      | none => true)
    | none => false

/-- Bytes reach a core's cell memory from outside; a twinned pair keeps them until a checkpoint (R45, R256). -/
def deliverCell (s : State) (src : Sender) (num off : Nat) (l : List Byte) : State :=
  match localCore s num with
  | none => s
  | some c =>
    match (getCore s c).twin with
    | none => cellPut s c off l none none
    | some _ =>
      let p := viewCore s c
      onCore s p fun k => { k with twin := k.twin.map fun w => { w with kept := w.kept ++ [.store src off l none] } }

/-- The scale and SPEC that a block of a scaled source sends (R171). -/
def blockScale (cell : Memory) (f off : Nat) : Nat × Nat :=
  if f = 0 then ((memRead cell (off + 16)).toNat, (memRead cell (off + 17)).toNat)
  else ((memRead cell (off / 65536 * 65536 + 0xF000 + off % 65536 / blockBytes f)).toNat, 0)

/-- Translate the first byte of a piece (R104 steps 7 and 8): the physical place and the bytes left in its page. -/
def pieceTranslate (q c : Nat) (a : W64) (k : Access) : M (Nat × Bool × Nat × Nat) := do
  let va := bits a 47 0
  let e ← lookupIn q c va a
  if pagePermits (← get) e.pte k then return (e.pa + (va - e.va), pteBit e.pte 7, bits e.pte 59 52, e.va + e.size - va)
  else fault cPERM a

/-- Start the next piece of a copy: translate, read the source (R161 to R164). A piece ends at a page boundary of the global side and at a bank boundary of
the source; where its bytes would cross a bank boundary of their destination it is cut when it arrives, since only the receiver knows whether blocks
change their size (R162, R170). The blocks that it sends scales for are those whose first byte it holds: a source block that lies in two blocks of a
SPREAD goes with the part that begins it (DESIGN CHOICE, log 78: R171 does not say). A source in the undo log of a core that has been twinned meanwhile
raises PERM with the piece's first byte in the absolute mesh form, whatever form the copy's capability has (DESIGN CHOICE, log 86: R268 names no form)
(R110, R164). -/
def startPiece (c : Nat) (q : Copy) (r : Run) : M Piece := do
  let s ← get
  let k := getCore s c
  faultIf (q.kind != .xget && undoLog s (coreNum s c) r.src.toNat (min r.len (65536 - r.src.toNat % 65536))) cPERM (meshAddr (coreNum s c) r.src.toNat)
  match q.kind with
  | .xget =>
    let p ← pieceTranslate q.queue c r.src accCopySrc
    let n := min (min r.len p.2.2.2) (65536 - bits r.dst 15 0)
    let b ← homeReads p.1 n p.2.2.1 (n + 1)
    return ⟨k.nextPiece, { r with len := n }, b, [], none, 0, false, false⟩
  | .xput =>
    let p ← pieceTranslate q.queue c r.dst accCopyDst
    let n := min (min r.len p.2.2.2) (65536 - r.src.toNat % 65536)
    return ⟨k.nextPiece, { r with len := n }, memReads k.cell r.src.toNat n, [], some (.phys p.1 p.2.1 p.2.2.1), 0, false, false⟩
  | .sends _ =>
    let n := min r.len (65536 - r.src.toNat % 65536)
    return ⟨k.nextPiece, { r with len := n }, memReads k.cell r.src.toNat n, [], none, 0, false, false⟩
  | _ =>
    let n := min r.len (65536 - r.src.toNat % 65536)
    let f := mapGetD q.srcFmts (r.src.toNat / 65536) 15
    let bl := blockBytes f
    let seq := mapGetD k.scaleOut r.target 0
    let blocks := if q.scaled then (List.range ((r.src.toNat + n) / bl + 1)).filter fun b =>
      decide (r.src.toNat % 65536 ≤ b * bl) && decide (b * bl < r.src.toNat % 65536 + n) else []
    let scales := (List.range blocks.length).map fun j =>
      ((seq + j) % 4096, blockScale k.cell f (r.src.toNat / 65536 * 65536 + blocks.getD j 0 * bl))
    modify fun s => onCore s c fun k => { k with scaleOut := if scales.isEmpty then k.scaleOut else mapSet k.scaleOut r.target ((seq + scales.length) % 4096) }
    return ⟨k.nextPiece, { r with len := n }, memReads k.cell r.src.toNat n, scales, none, 0, false, q.scaled⟩

/-- What is left of a run behind a piece of `n` bytes. -/
def restOfRun (kind : CopyKind) (r : Run) (n : Nat) : List Run :=
  if r.len ≤ n then []
  else
    let far := kind == .xget || kind == .xput
    [{ r with
      src := r.src + natW n
      dst := if far then r.dst + natW n else r.dst
      slot := if far then r.slot else r.slot + n
      len := r.len - n }]

/-- The pieces that a piece in flight counts as: one for each destination bank that its bytes touch (R162). -/
def pieceParts (q : Copy) (p : Run) : Nat :=
  if q.kind == .send || q.kind == .spread then ((bits p.dst 19 0 + p.slot) % 65536 + p.len + 65535) / 65536 else 1

/-- COPY_PIECE_START (R162, R164): at most four pieces of a copy fly at a time. -/
def execCopyPieceStart (core id : Nat) (s : State) : Host.Outcome State Fault Refusal :=
  match findCopy s core id with
  | none => .next s
  | some q =>
    match q.runs with
    | [] => .next s
    | r :: rest =>
      if q.fault.isSome || isFetch q then .next s
      else match startPiece core q r (asContext s core q.src) with
        | .ok p z =>
          let s' := { z with cur := s.cur }
          if 4 < q.flying.foldl (fun n f => n + pieceParts q f.run) (pieceParts q p.run) then .next s
          else
          let s' := onCore s' core fun k => { k with nextPiece := k.nextPiece + 1 }
          .next (putCopy s' core { q with runs := restOfRun q.kind r p.run.len ++ rest, flying := q.flying ++ [p] })
        | .error (.trap t) z => .next (copyFault { z with cur := s.cur } core q t)
        | .error _ _ => .next s

/-- Replace piece `n` of a copy. -/
def putPiece (q : Copy) (n : Nat) (p : Piece) : Copy := { q with flying := listSet q.flying n p }

/-- A copy whose source has format `f` needs whole blocks at a bank of format `g` (R170): it converts, or carries scales between equal formats, or
comes unscaled from a bank of format 0 to 4. -/
def needsBlocks (f g : Nat) : Bool := f != 15 && g != 15 && (f != g || decide (f ≤ 4))

/-- The requirements of R170 hold for a copy at a target whose first bank has format `g`. A destination that runs past the code area of its bank, into the
scale shelf of formats 1 to 4 or the last 16 bytes of E2M1X, is accepted (DESIGN CHOICE, log 69: R109 and R170 name no failure for it). -/
def blocksFit (q : Copy) (target f g : Nat) : Bool :=
  let l := q.all.filter fun r => r.target = target
  let bl := blockBytes f
  let src := srcRange q.all
  let doff := (l.map fun r => bits r.dst 19 0).headD 0
  let last := l.foldl (fun m r => max m ((r.slot + r.len) / bl * blockBytes g)) 0
  (q.scaled || decide (5 ≤ f)) && src.1 / 65536 == (src.2 - 1) / 65536 && src.1 % 65536 % bl == 0 && (src.2 - src.1) % bl == 0 &&
    l.all (fun r => r.src.toNat % 65536 % bl == 0 && r.slot % bl == 0 && r.len % bl == 0) &&
    doff % 65536 % blockBytes g == 0 && decide (doff % 65536 + last ≤ 65536)

/-- Pair the scales of a piece with the receiver's expectation (R171): per block the scale to use and SPEC, the new expectation, the last
SCALEPAIR fault. -/
def pairScales (l : List (Nat × Nat × Nat)) (expect : Nat) : List (Nat × Nat) × Nat × List Trap :=
  match l with
  | [] => ([], expect, [])
  | (seq, x, sp) :: r =>
    let rest := pairScales r ((seq + 1) % 4096)
    if seq = expect then ((x, sp) :: rest.1, rest.2)
    else ((255, sp) :: rest.1, rest.2.1, ⟨cSCALEPAIR, false, natW (expect * 2 ^ 16 + seq)⟩ :: rest.2.2)

/-- The bytes of one encoded block, codes first (R85). -/
def blockOut (g : Nat) (b : Block) : List Byte :=
  if g = 0 then toBytes (packBits 4 b.codes) 16 ++ [BitVec.ofNat 8 b.scale, BitVec.ofNat 8 b.spec]
  else toBytes (packBits (typeBits g) b.codes) (blockBytes g)

/-- Convert one block of format `f` to format `g` under RNE (R170, R266): its bytes, and the shelf byte of formats 1 to 4. -/
def convBlock (f g : Nat) (l : List Byte) (x spec : Nat) : List Byte × Option Nat :=
  let p := ofBytes (if f = 0 then l.take 16 else l)
  let w := typeBits f
  let codes := (List.range 32).map fun j => unpackBits w p j
  if f = g then
    if f = 0 then (l.take 16 ++ [BitVec.ofNat 8 x, BitVec.ofNat 8 spec], none) else (l, some x)
  else
    let vals := codes.map fun c => if f ≤ 4 then blockVal f c x spec else elemVal f c
    if g ≤ 4 then
      let b := (encBlock g .rne 0 vals).1
      (blockOut g b, if g = 0 then none else some b.scale)
    else (toBytes (packBits (typeBits g) (vals.map fun v => (encType g .rne 0 v).1)) (blockBytes g), none)

/-- What a piece of whole blocks writes at its target: offsets and bytes (R109, R266). -/
def blockWrites (f g doff slot : Nat) (data : List Byte) (pairs : List (Nat × Nat)) : List (Nat × List Byte) :=
  let bl := blockBytes f
  let bank := doff / 65536 * 65536
  (List.range (data.length / bl)).flatMap fun j =>
    let off := doff % 65536 + (slot / bl + j) * blockBytes g
    let p := pairs.getD j (127, 0)
    let r := convBlock f g ((data.drop (j * bl)).take bl) p.1 p.2
    (bank + off, r.1) :: match r.2 with
      | some x => [(bank + 0xF000 + off / blockBytes g, [BitVec.ofNat 8 x])]
      | none => []

/-- Bytes of a scale-carrying copy that lands in a bank of format 15: as they stood, with a NaN scale where the pairing failed (R171). `from_` is the offset
of the first of them in the source bank: `pairs` begins with the first block that begins in them. -/
def rawWrites (f from_ : Nat) (data : List Byte) (pairs : List (Nat × Nat)) : List Byte :=
  if f != 0 then data
  else (List.range data.length).map fun j =>
    let a := from_ + j
    let first := (from_ + 17) / 18
    if a % 18 = 16 && decide (first ≤ a / 18) && (pairs.getD (a / 18 - first) (0, 0)).1 = 255 then 255 else data.getD j 0

/-- The banks of a target that a byte-moving piece touches. -/
def banksOf (off n : Nat) : List Nat := (List.range ((off + n + 65535) / 65536 - off / 65536)).map fun j => off / 65536 + j

/-- Bytes of a run from a source bank land in a bank of its target, where the copy moves bytes. -/
def landsIn (r : Run) (src bank : Nat) : Bool :=
  let lo := max r.src.toNat (src * 65536)
  let hi := min (r.src.toNat + r.len) (src * 65536 + 65536)
  let at_ := bits r.dst 19 0 + r.slot + (lo - r.src.toNat)
  decide (lo < hi) && decide (at_ < bank * 65536 + 65536) && decide (bank * 65536 < at_ + (hi - lo))

/-- A copy fails the requirements of R170 at a bank of a target, whose format `g` has been read: some of its bytes for the bank come from a source bank that
makes it convert or carry scales, and not all is whole blocks of one bank. -/
def misfit (q : Copy) (target bank g : Nat) : Bool :=
  q.kind != .xget && (q.all.filter fun r => r.target = target).any fun r => (banksOf r.src.toNat r.len).any fun b =>
    let f := mapGetD q.srcFmts b 15
    landsIn r b bank && needsBlocks f g && (bank != bits r.dst 19 0 / 65536 || !blocksFit q target f g)

/-- Formats of receiving banks as a copy has read them, read now where a piece is the first to arrive (R108). -/
def readFmts (s : State) (q : Copy) (target : Nat) (l : List Nat) : SMap Nat :=
  match localCore s target with
  | none => q.dstFmts
  | some c => l.foldl (fun m b => if (mapGet m (16 * target + b)).isSome then m else mapSet m (16 * target + b) (bankFmt (getCore s c) b)) q.dstFmts

/-- The bytes that a copy writes at a target whose first bank has format `g`, as an offset and a length for each run, with the scale shelf of a converting
copy (R109, R170). -/
def destRanges (q : Copy) (t f g : Nat) (blocks : Bool) : List (Nat × Nat) :=
  (q.all.filter fun r => r.target = t).flatMap fun r =>
    let doff := bits r.dst 19 0
    if blocks then
      let bank := doff / 65536 * 65536
      let off := doff % 65536 + r.slot / blockBytes f * blockBytes g
      let n := r.len / blockBytes f
      (bank + off, n * blockBytes g) :: if 1 ≤ g && g ≤ 4 then [(bank + 0xF000 + off / blockBytes g, n)] else []
    else [(doff + r.slot, r.len)]

/-- A byte of the aligned 8-byte word of `a`, below `lo` or from `hi` on, is one that the copy writes too. -/
def wordMates (l : List (Nat × Nat)) (a lo hi : Nat) : Bool :=
  (List.range 8).any fun j =>
    let x := a / 8 * 8 + j
    (decide (x < lo) || decide (hi ≤ x)) && l.any fun r => decide (r.1 ≤ x) && decide (x < r.1 + r.2)

/-- What a write at `a` puts down at once, and its first and last bytes that lie in a word with bytes of the copy outside the write (R163): those wait for
the others. -/
def cutRagged (l : List (Nat × Nat)) (a : Nat) (b : List Byte) : (Nat × List Byte) × SMap Byte :=
  let n := b.length
  let head := if a % 8 != 0 && wordMates l a a (a + n) then min n (8 - a % 8) else 0
  let tail := if (a + n) % 8 != 0 && head < n && wordMates l (a + n - 1) a (a + n) then min (n - head) ((a + n) % 8) else 0
  let part := fun (at_ m : Nat) => (List.range m).map fun j => (a + at_ + j, b.getD (at_ + j) 0)
  ((a + head, (b.drop head).take (n - head - tail)), part 0 head ++ part (n - tail) tail)

/-- Every byte of the copy in the word of `a` is there. -/
def wordWhole (l : List (Nat × Nat)) (m : SMap Byte) (a : Nat) : Bool :=
  (List.range 8).all fun j =>
    let x := a / 8 * 8 + j
    !(l.any fun r => decide (r.1 ≤ x) && decide (x < r.1 + r.2)) || (mapGet m x).isSome

/-- Writes of a piece at a place counted from `key`: what is put down now, and the bytes that wait on (R163). -/
def settleWrites (q : Copy) (key : Nat) (l : List (Nat × Nat)) (ws : List (Nat × List Byte)) : List (Nat × List Byte) × SMap Byte :=
  let cuts := ws.map fun w => cutRagged l w.1 w.2
  let mine := (q.ragged.filter fun e => decide (key ≤ e.1) && decide (e.1 < key + 2 ^ 52)).map fun e => (e.1 - key, e.2)
  let m := cuts.foldl (fun m c => c.2.foldl (fun m e => mapSet m e.1 e.2) m) mine
  let others := q.ragged.filter fun e => !(decide (key ≤ e.1) && decide (e.1 < key + 2 ^ 52))
  let ready := m.filter fun e => wordWhole l m e.1
  ((cuts.map fun c => c.1).filter (fun w => !w.2.isEmpty) ++ ready.map fun e => (e.1, [e.2]),
    (m.filter fun e => !wordWhole l m e.1).foldl (fun o e => mapSet o (key + e.1) e.2) others)

/-- The number that a receiver expects next from a sender, on its core or saved (R171, R250). -/
def expected (s : State) (target sender : Nat) : Nat :=
  match s.saved.findSome? fun v => v.cores.find? fun k => k.number = target with
  | some k => mapGetD k.core.scaleIn sender 0
  | none => match localCore s target with
    | some d => mapGetD (getCore s d).scaleIn sender 0
    | none => 0

/-- The receiver's expectation moves on (R171). -/
def setExpected (s : State) (target sender n : Nat) : State :=
  if s.saved.any fun v => v.cores.any fun k => k.number = target then
    let put := fun k : SavedCore => if k.number = target then { k with core := { k.core with scaleIn := mapSet k.core.scaleIn sender n } } else k
    { s with saved := s.saved.map fun v => { v with cores := v.cores.map put } }
  else match localCore s target with
    | some d => onCore s d fun k => { k with scaleIn := mapSet k.scaleIn sender n }
    | none => s

/-- A piece of bytes that crosses a bank boundary at its destination, cut there: `b` holds its bytes as they are written (R162). -/
def cutPiece (p : Piece) (b : List Byte) (off : Nat) : Piece × Piece :=
  let n := 65536 - off % 65536
  ({ p with run := { p.run with len := n }, data := b.take n, scales := [] },
   { p with run := { p.run with src := p.run.src + natW n, slot := p.run.slot + n, len := p.run.len - n }, data := b.drop n, scales := [] })

/-- A piece reaches a core's cell memory (R108, R162, R163, R165, R170, R171). One that crosses a bank boundary of its destination is cut there and its parts
arrive by themselves; of a scale-carrying copy the first part arrives now. The blocks that a target refuses count in its expectation too, and a mismatch
among them raises no SCALEPAIR (DESIGN CHOICE, log 87: R171 does not say). A piece that would reach the undo log of a pair is refused by its offset and
length as they were sent, also where its bytes are converted (DESIGN CHOICE, log 77). The requirements of R170 are judged for all of the copy that goes to a
bank, at the first arrival there; where a later bank of the target fails them, what has landed in an earlier one stands, and bytes that have moved into
another bank leave no blocks to convert (DESIGN CHOICE, log 79: R108 reads each bank's format at its own first piece, R170 says that a failure writes
nothing). -/
def arriveCell (s : State) (c : Nat) (q : Copy) (n : Nat) (p : Piece) : State :=
  let t := p.run.target
  let finished := { p with done := true }
  let align : Trap := ⟨cALIGN, false, p.run.dst⟩
  let doff := bits p.run.dst 19 0
  let off := doff + p.run.slot
  let f := if q.kind == .xget then 15 else mapGetD q.srcFmts (p.run.src.toNat / 65536) 15
  let pr := pairScales p.scales (expected s t (coreNum s c))
  let s := if p.scales.isEmpty then s else setExpected s t (coreNum s c) pr.2.1
  if q.failed.contains t then putCopy s c (putPiece q n finished)
  else if !accepts s t || undoLog s t off p.data.length then copyRefuse s c (putPiece q n finished) t (msgErr t)
  else
    let fm := readFmts s q t [doff / 65536]
    let g := mapGetD fm (16 * t + doff / 65536) 15
    let moved := q.dstFmts.any fun e => e.1 / 16 = t && e.1 != 16 * t + doff / 65536
    let blocks := needsBlocks f g && blocksFit q t f g && !moved
    -- the piece arrives at the first bank of the target: it touches it, or the copy lands there in blocks
    let first := blocks || (banksOf off p.data.length).contains (doff / 65536)
    let q := if first then { q with dstFmts := fm } else q
    let report := fun (s : State) (q : Copy) =>
      let s := pr.2.2.foldl (fun s e => deferTo s q.src e none) s
      putCopy s c { q with err := match pr.2.2.getLast? with
        | some e => some e
        | none => q.err }
    let put := fun (s : State) (q : Copy) (blocks : Bool) (ws : List (Nat × List Byte)) =>
      let z := settleWrites q (t * 2 ^ 52) (destRanges q t f g blocks) ws
      report (z.1.foldl (fun s w => deliverCell s q.src t w.1 w.2) s) { q with ragged := z.2 }
    if first && (misfit q t (doff / 65536) g || moved && needsBlocks f g) then copyRefuse s c (putPiece q n finished) t align
    else if blocks then put s (putPiece q n finished) true (blockWrites f g doff p.run.slot p.data pr.1)
    else
      let b := rawWrites f (p.run.src.toNat % 65536) p.data pr.1
      let cross := decide (65536 < off % 65536 + p.data.length)
      let parts := cutPiece p b off
      if cross && p.scales.isEmpty then
        putCopy s c { q with flying := q.flying.take n ++ [parts.1, parts.2] ++ q.flying.drop (n + 1) }
      else
        let q := if cross then { q with flying := q.flying.take n ++ [{ parts.1 with done := true }, parts.2] ++ q.flying.drop (n + 1) }
          else putPiece q n finished
        let b := if cross then parts.1.data else b
        let fm := readFmts s q t (banksOf off b.length)
        let q := { q with dstFmts := fm }
        if (banksOf off b.length).any (fun b => misfit q t b (mapGetD fm (16 * t + b) 15)) then copyRefuse s c q t align
        else put s q false [(off, b)]

/-- The physical bytes of the page piece of an XPUT at a place, for the words that it shares with its neighbours in the page (R163). -/
def pageRange (q : Copy) (p : Piece) (pa : Nat) : List (Nat × Nat) :=
  q.all.map fun r =>
    let before := min ((p.run.dst - r.dst).toNat) (pa % 4096)
    (pa - before, min (before + r.len - (p.run.dst - r.dst).toNat) (before + 4096 - pa % 4096))

/-- The issuing die drops its shared copies of words that a copy writes (R419). -/
def dropShared (s : State) (die pa n : Nat) : State :=
  (wordsOf pa n).foldl (fun s w => match farGet s die w with
    | some f => if f.owned then s else farDrop s die w
    | none => s) s

/-- A piece of a scale-carrying copy arrives and completes only when none for its target that was emitted earlier is still there (R171); `done` asks for
arrival alone. -/
def scaleTurn (k : Core) (p : Piece) (done : Bool) : Bool :=
  !p.band || !(k.copies.any fun q => q.flying.any fun r => !(done && r.done) && r.band && r.run.target == p.run.target && decide (r.ord < p.ord))

/-- A link of the package that carries traffic to another device is up (R279). -/
def linkUp (s : State) : Bool := s.mg.links.toList.any fun l => !l.down && decide (0 < l.lanes)

/-- The target core of a piece is in a cluster whose clocks are stopped (R273). -/
def targetAsleep (s : State) (num : Nat) : Bool :=
  match localCore s num with
  | some c => asleep s c
  | none => false

/-- COPY_PIECE_ARRIVAL (R162, R165, R170, R171). A piece for another device leaves through a Boltex port (R279). -/
def execCopyPieceArrival (core id n : Nat) (s : State) : Host.Outcome State Fault Refusal :=
  match findCopy s core id with
  | none => .next s
  | some q =>
    match q.flying[n]? with
    | none => .next s
    | some p =>
      if p.done then .next s
      else match q.kind with
        | .sends _ => .next s
        | .tfetch _ => .next s
        | .xput =>
          match p.place with
          | some (.phys pa _ key) =>
            let z := settleWrites q 0 (pageRange q p pa) [(pa, p.data)]
            match (z.1.forM fun w => homeWrites (dieOf core) w.1 w.2 key (w.2.length + 1) : M Unit) (asContext s core q.src) with
            | .ok _ s' => .next (putCopy (dropShared { s' with cur := s.cur } (dieOf core) pa p.data.length) core
                { putPiece q n { p with done := true } with ragged := z.2 })
            | .error _ _ => .next s
          | _ => .next s
        | _ =>
          if !scaleTurn (getCore s core) p true || targetAsleep s p.run.target then .next s
          else if (localCore s p.run.target).isNone && linkUp s then
            .next (putCopy { s with mg := { s.mg with outbound := s.mg.outbound ++ [(coreNum s core, p.run.target)] } } core
              (putPiece q n { p with done := true }))
          else .next (arriveCell s core q n p)

/-- A pair still keeps bytes of a sender for its next checkpoint (R156, R163, R256). -/
def keptFrom (s : State) (num : Nat) (f : Sender) : Bool :=
  match (localCore s num).bind fun c => (getCore s (viewCore s c)).twin with
  | none => false
  | some t => t.kept.any fun e => match e with
    | .store g _ _ _ => g = f
    | .elem g _ _ => g = f
    | _ => false

/-- COPY_PIECE_COMPLETE (R162): the copy completes with its last piece. Pieces that carry scales complete in the order of their emission (R171). With its
token complete every destination byte holds its new value, so that bytes which a pair keeps are waited for (R163). -/
def execCopyPieceComplete (core id n : Nat) (s : State) : Host.Outcome State Fault Refusal :=
  match findCopy s core id with
  | none => .next s
  | some q =>
    match q.flying[n]? with
    | none => .next s
    | some p => if p.done && scaleTurn (getCore s core) p false && (q.kind == .xput || !keptFrom s p.run.target q.src) then .next (finishCopies (putCopy s core { q with flying := listDel q.flying n }) core) else .next s

/-- The bytes of pieces in flight that a stream has not taken, in order. -/
def restBytes (l : List Piece) : List Byte := l.flatMap fun p => if p.done then [] else p.data.drop p.taken

/-- A stream takes the next `n` bytes of pieces in flight. -/
def eatBytes (l : List Piece) (n : Nat) : List Piece :=
  match l with
  | [] => []
  | p :: r =>
    if p.done || n = 0 then p :: eatBytes r n
    else
      let m := min n (p.data.length - p.taken)
      { p with taken := p.taken + m, done := decide (p.data.length ≤ p.taken + m) } :: eatBytes r (n - m)

/-- Every piece of a SENDS is over. -/
def endPieces (q : Copy) : Copy := { q with flying := q.flying.map fun p => { p with done := true } }

/-- STREAM_DELIVERY (R173): one element of a SENDS is written at the write index; a full region makes the delivery wait. One that would fall into the undo
log of a pair is refused (R110). -/
def execStreamDelivery (core id n : Nat) (s : State) : Host.Outcome State Fault Refusal :=
  match findCopy s core id with
  | none => .next s
  | some q =>
    match q.flying[n]?, q.kind with
    | some p, .sends sn =>
      let t := p.run.target
      let earlier := (q.flying.take n).any fun r => !r.done
      if p.done || earlier || targetAsleep s t then .next s
      else if (localCore s t).isNone && linkUp s then
        .next (putCopy { s with mg := { s.mg with outbound := s.mg.outbound ++ [(coreNum s core, t)] } } core (putPiece q n { p with done := true }))
      else if !accepts s t then .next (copyRefuse s core (endPieces q) t (msgErr t))
      else match (localCore s t).map (viewCore s) with
        | none => .next s
        | some c =>
          match (streamOwner s c sn).map fun x => (x, vecGet (getCtx s ⟨c, x⟩).s sn none) with
          | some (x, some st) =>
            let e := 2 ^ st.elog
            let total := q.all.foldl (fun n r => n + r.len) 0
            let rest := restBytes q.flying
            if total % e != 0 || undoLog s t (st.base + st.wr * e % st.len) e then .next (copyRefuse s core (endPieces q) t (msgErr t))
            else
              let kept := match (getCore s c).twin with
                | some w => (w.kept.filter fun k => match k with
                  | .elem _ m _ => m == sn
                  | _ => false).length
                | none => 0
              if st.len / e ≤ st.wr + kept - st.rd || decide (rest.length < e) then .next s
              else
                let b := rest.take e
                let q' := { q with flying := eatBytes q.flying e, begun := true }
                if (getCore s c).twin.isSome then
                  let s := onCore s c fun k => { k with twin := k.twin.map fun w => { w with kept := w.kept ++ [.elem q.src sn b] } }
                  .next (putCopy s core q')
                else
                  let s := cellPut s c (st.base + st.wr * e % st.len) b none none
                  let s := onCtx s ⟨c, x⟩ fun z => { z with s := vecSet z.s sn (some { st with wr := st.wr + 1 }) }
                  .next (putCopy s core q')
          | _ => .next (copyRefuse s core (endPieces q) t (msgErr t))
    | _, _ => .next s

end Sys2Proof.Machine
end

