-- ==== Sys2Proof/Machine/Flags.lean ====
section
/-! DEFINITION. Flag and mask computations: the relation mask of FSET, conditions of compares, clamping with its sticky flag
(R93, R96 to R100, R339, R381, R403, R412). -/

namespace Sys2Proof.Machine

/-- An exact integer clamped to `n`-bit two's complement, and whether it was clamped (R95, R96, R98). -/
def satSigned (n : Nat) (x : Int) : Int × Bool :=
  let hi : Int := (2 ^ (n - 1) : Nat) - 1
  let lo : Int := -((2 ^ (n - 1) : Nat) : Int)
  if hi < x then (hi, true) else if x < lo then (lo, true) else (x, false)

/-- An exact integer narrowed to a type: clamped when `sat`, else modulo 2^n (R93). -/
def narrow (t : Nat) (sat : Bool) (x : Int) : Nat := intBits t (if sat then clampInt t x else x)

/-- The relation mask of FSET: less, equal, greater, unordered in bits 0 to 3 (R339). -/
def relMask (a b : FVal) : W64 :=
  if a = .nan || b = .nan then 8 else if flt a b then 1 else if flt b a then 4 else 2

/-- A condition code of VCMP on two values: 0 eq, 1 ne, 2 lt, 3 ge, 4 le, 5 gt. With a NaN only ne holds (R403). -/
def vcond (c : Nat) (a b : FVal) : Bool :=
  if a = .nan || b = .nan then c == 1
  else match c with
    | 0 => feq a b
    | 1 => !feq a b
    | 2 => flt a b
    | 3 => !flt a b
    | 4 => !flt b a
    | _ => flt b a

/-- Round an exact value to an integer, ties to even. -/
def rneInt (v : FVal) : Int := (toInt .rne 0 v 0).1

/-- One K64 accumulation: the block sums `q` are added exactly, then clamped with OV (R98). -/
def k64Add (acc q : Int) : Int × Bool := satSigned 64 (acc + q)

/-- One F64 accumulation: both roundings to binary64; NV on a NaN (R99). -/
def f64Add (acc : Nat) (p : FVal) : Nat × Bool :=
  let f := fmtOf 13
  let q := (fenc f .rne 0 p).1
  let r := fadd (fdecode f acc) (fdecode f q)
  ((fenc f .rne 0 r).1, r = .nan)

/-- One trace step of a column; whether it clamped (R95, R97). -/
def traceStep (e : Int) (k : Nat) (pre : Bool) (post : Int) : Int × Bool :=
  let d : Int := if k = 0 then 0 else (e + (2 ^ (k - 1) : Nat)) / (2 ^ k : Nat)
  satSigned 16 (e - d + if pre then post else 0)

/-- One reward multiply-accumulate of a column; whether it clamped (R96, R97). -/
def rewardStep (w e c : Int) (s : Nat) : Int × Bool :=
  let t : Int := if s = 0 then c * e else (c * e + (2 ^ (s - 1) : Nat)) / (2 ^ s : Nat)
  satSigned 24 (w + t)

end Sys2Proof.Machine
end

