-- ==== Sys2Proof/Machine/Lift.lean ====
section
/-! DEFINITION. Lift tags, active instances, dispatch to the bound wing, and LIFT, LRET, LIDX, LANY, LALL
(R16, R18, R20, R21, R55, R196 to R206, R346, R347, R352 to R354). -/

namespace Sys2Proof.Machine

/-- An extent as a factor: an absent level counts one. -/
def ext1 (e : Nat) : Nat := if e = 0 then 1 else e

/-- Instance copies under a tag (R197, R199). -/
def tagCount (t : LiftTag) : Nat := ext1 t.e1 * ext1 t.e2 * ext1 t.e3

/-- The index of combination `n` over `u` in tag `t`: `n`'s index at the levels they share with equal extents, 0 at the others
(R197, R199). -/
def crossIdx (u t : LiftTag) (n : Nat) : Nat :=
  let i1 := n % ext1 u.e1
  let i2 := n / ext1 u.e1 % ext1 u.e2
  let i3 := n / ext1 u.e1 / ext1 u.e2 % ext1 u.e3
  (if u.e1 = t.e1 then i1 else 0) + ext1 t.e1 * ((if u.e2 = t.e2 then i2 else 0) + ext1 t.e2 * (if u.e3 = t.e3 then i3 else 0))

/-- The extent of a level. -/
def tagAt (t : LiftTag) (l : Nat) : Nat := if l = 1 then t.e1 else if l = 2 then t.e2 else t.e3

/-- A tag with one level set, or removed by 0. -/
def tagPut (t : LiftTag) (l e : Nat) : LiftTag :=
  if l = 1 then { t with e1 := e } else if l = 2 then { t with e2 := e } else { t with e3 := e }

/-- Instance `n` is active (R197): by LMASK, or instance 0 at LDEPTH 0. -/
def isActive (x : Ctx) (n : Nat) : Bool := if x.ldepth = 0 then n == 0 else bitAt x.lmask n

/-- The active combinations over a tag, ascending; an untagged instruction executes once (R197, R199). -/
def activeOver (x : Ctx) (u : LiftTag) : List Nat :=
  if u = tagNone then [0]
  else (List.range (tagCount u)).filter fun m => (List.range (tagCount x.lframe)).any fun n => isActive x n && crossIdx x.lframe u n == m

/-- The level of a tag that is inactive, or open with another extent (R198). -/
def badLevel (f t : LiftTag) : Option Nat := [1, 2, 3].find? fun l => tagAt t l != 0 && tagAt t l != tagAt f l

/-- The TRAPVAL of AXOVF for the first of the tags at fault (R198). -/
def tagFault (f : LiftTag) (l : List LiftTag) : Option W64 :=
  match l with
  | [] => none
  | t :: r =>
    match badLevel f t with
    | some lv => some (natW (frameWord (tagPut f lv (tagAt t lv))))
    | none => tagFault f r

/-- The union of tags that agree with the open levels (R199). -/
def tagUnion (l : List LiftTag) : LiftTag :=
  l.foldl (fun u t => ⟨max u.e1 t.e1, max u.e2 t.e2, max u.e3 t.e3⟩) tagNone

/-- The union tag of the registers an instruction reads, in the order of its syntax, or AXOVF (R198, R199). -/
def unionOf (l : List LiftTag) : M LiftTag := do
  match tagFault (← me).lframe l with
  | some v => fault cAXOVF v
  | none => return tagUnion l

/-- A vector register of the executing context. -/
def rdV (r : BitVec 4) : M VReg := do return vecGet (← me).v r.toNat vregReset

/-- The copy of a vector register that combination `m` over `u` sees. -/
def copyOf (v : VReg) (u : LiftTag) (m : Nat) : BitVec 4096 := v.copies.getD (crossIdx u v.tag m) 0

/-- A vector register under a new tag: every copy takes the value held for its projection (R199). -/
def growReg (v : VReg) (u : LiftTag) : VReg := ⟨u, (List.range (tagCount u)).map fun m => copyOf v u m⟩

/-- Write copy `m` of a vector register under tag `u`. -/
def setCopy (v : VReg) (u : LiftTag) (m : Nat) (b : BitVec 4096) : VReg := ⟨u, listSet (growReg v u).copies m b⟩

/-- Change a vector register of the executing context. -/
def setV (r : BitVec 4) (f : VReg → VReg) : M Unit := setMe fun x => { x with v := vecModify x.v r.toNat f }

/-- Rows of SHAPE (R57). -/
def shapeRows (x : Ctx) : Nat := x.shape.toNat % 16 + 1
/-- Columns of SHAPE (R57). -/
def shapeCols (x : Ctx) : Nat := x.shape.toNat / 16 % 64 + 1

/-- The shaped elements of `w` bits: their number, or ILLOP above 4,096 bits (R55). -/
def shaped (i : Instr) (w : Nat) : M Nat := do
  let x ← me
  illopIf (decide (4096 < shapeRows x * shapeCols x * w)) i
  return shapeRows x * shapeCols x

/-- Element `l` of `w` bits in a register copy. -/
def getEl (b w l : Nat) : Nat := b / 2 ^ (w * l) % 2 ^ w

/-- Every element of `w` bits, `n` of them. -/
def getEls (b w n : Nat) : List Nat := (List.range n).map fun l => getEl b w l

/-- A register copy with its first elements of `w` bits replaced; the bits beyond keep their values (R55). -/
def putEls (b w : Nat) (l : List Nat) : Nat := b / 2 ^ (w * l.length) * 2 ^ (w * l.length) + packBits w l

/-- The site that a position code names as seen from a front's site, if it lies on the die (R16). -/
def codeSite (site code : Nat) : Option Nat :=
  let px := site % 16 + code % 3
  let py := site % 272 / 16 + code / 3
  if code ≤ 8 && 1 ≤ px && px ≤ 16 && 1 ≤ py && py ≤ 17 then some (site / 272 * 272 + (py - 1) * 16 + (px - 1)) else none

/-- Members that a MODE uses (R16). -/
def modeMembers (mode : Nat) : Nat := if mode = 0 then 1 else if mode = 3 then 4 else 2

/-- The wing sites of a BIND value for a front (R16). -/
def bindSites (site : Nat) (b : W64) : List Nat :=
  (List.range (modeMembers (bits b 2 0))).filterMap fun j => codeSite site (bits b (11 + 4 * j) (8 + 4 * j))

/-- The members bound to a front. -/
def members (s : State) (site : Nat) : List Nat := bindSites site (getFront s site).bind

/-- The front bound a composite wing. -/
def isComposite (s : State) (site : Nat) : Bool := bits (getFront s site).bind 2 0 == 1

/-- Member wings of a gang, each a list of physical sites; a composite is one wing of two sites (R20, R21). -/
def wingsOf (s : State) (site : Nat) : List (List Nat) :=
  if isComposite s site then [members s site] else (members s site).map fun m => [m]

/-- The sites on which combination `m` runs (R203). -/
def instSites (s : State) (site m : Nat) : List Nat :=
  let w := wingsOf s site
  w.getD (m % ext1 w.length) []

/-- The executing core's physical site. -/
def mySite : M Nat := do
  let s ← get
  return siteOf s s.cur.core

/-- The executing core's front dispatches new wing operations: no BIND drains it, and its cluster has not used up its budget (R18, R270). -/
def dispatches (s : State) : Bool := (curCore s).bindDrain.isEmpty && !(getCluster s (clusterOf (siteOf s s.cur.core))).throttled

/-- A wing operation that has been dispatched and stands part-way: a matrix instruction at its operands, or a VGATH at its elements (R18). -/
def dispatchedOp (x : Ctx) : Bool := x.doing.isSome || x.gathering

/-- A wing-dispatched instruction waits until its front dispatches; one that is under way goes on (R18, R270). -/
def dispatchOk : M Unit := do await_ (dispatches (← get) || dispatchedOp (← me))

/-- Leave a mark for each wing that an instruction was dispatched to (R18, R23). On a composite a vector or matrix operation takes a slot on the wings of both
halves (DESIGN CHOICE, log 21: R23 speaks of wings and R20 makes two of them one). -/
def markWings (l : List Nat) (isMatrix : Bool) : M Unit := do
  let s ← get
  let f ← meSender
  let site ← mySite
  let sites := (l.flatMap fun m => instSites s site m).eraseDups
  setCore fun k => { k with marks := k.marks ++ sites.map fun t => ⟨f, t, false, isMatrix⟩ }

/-- Issue a wing-dispatched instruction (R23): it waits for the pending writes of what it reads and of what it writes (R69). -/
def wingIssue (i : Instr) (y : BitVec 3) (reads writes : List (BitVec 5)) (body : M Unit) (s : State) : Host.Outcome State Fault Refusal :=
  issue i (cyc y) (reads ++ writes) writes true (do dispatchOk; body) s

/-- LMASK of a new level: bit n is the saved bit n mod P below P·E (R196). -/
def liftMask (saved : W64) (p n : Nat) : W64 :=
  natW ((List.range n).foldl (fun a j => if bitAt saved (j % p) then a + 2 ^ j else a) 0)

/-- LIFT (R196, R353). -/
def execLift (a b : BitVec 5) (y : BitVec 3) (s : State) : Host.Outcome State Fault Refusal :=
  let i : Instr := .lift a b y
  issue i (cyc y) [a, b] [] false (do
    let e := (← rd a).toNat
    let mb ← rd b
    let x ← me
    illopIf (e = 0 || bits mb 63 16 != 0) i
    faultIf (x.ldepth == 3) cAXOVF (natW (frameWord x.lframe + min e 127 * 2 ^ 24))
    let l := x.ldepth + 1
    let p := tagCount x.lframe
    faultIf (decide (64 < p * e)) cAXOVF (natW (frameWord (tagPut x.lframe l (min e 127))))
    let k ← myCore
    let s ← get
    await_ (!(k.ctxs.any fun q => q.1 != s.cur.cx && q.2.ldepth != 0))
    setMe fun x => { x with
      masks := x.lmask :: x.masks
      ldepth := l
      lframe := tagPut x.lframe l e
      lmask := liftMask (if x.ldepth = 0 then BitVec.allOnes 64 else x.lmask) p (p * e)
      m := (List.range 16).foldl (fun v n => if bitAt mb n then vecModify v n (fun q => { q with lift := tagPut q.lift l e }) else v) x.m }) s

/-- LRET (R198, R354). -/
def execLret (y : BitVec 3) (s : State) : Host.Outcome State Fault Refusal :=
  let i : Instr := .lret y
  issue i (cyc y) [] [] false (do
    let x ← me
    illopIf (x.ldepth == 0) i
    setMe fun x => { x with
      lmask := x.masks.headD (BitVec.allOnes 64)
      masks := x.masks.tail
      ldepth := x.ldepth - 1
      lframe := tagPut x.lframe x.ldepth 0
      m := (List.range 16).foldl (fun v n => vecModify v n (fun q => { q with lift := tagPut q.lift x.ldepth 0 })) x.m }) s

/-- Write every copy of a destination that is active, from its number (R199). -/
def writeCopies (d : BitVec 4) (u : LiftTag) (f : Nat → Nat → Nat) : M Unit := do
  let x ← me
  setV d fun v => growReg v u
  setV d fun v => (activeOver x u).foldl (fun v m => setCopy v u m (BitVec.ofNat 4096 (f m (copyOf v u m).toNat))) v

/-- LIDX (R201, R352). -/
def execLidx (d : BitVec 4) (lvl t : BitVec 5) (y : BitVec 3) (s : State) : Host.Outcome State Fault Refusal :=
  let i : Instr := .lidx d lvl t y
  wingIssue i y [] [] (do
    let x ← me
    illopIf (decide (x.ldepth < lvl.toNat)) i
    let w := typeBits t.toNat
    let n ← shaped i w
    let u := if lvl = 0 then x.lframe else tagPut tagNone lvl.toNat (tagAt x.lframe lvl.toNat)
    writeCopies d u fun m old => putEls old w (List.replicate n (m % 2 ^ w))
    markWings (activeOver x u) false) s

/-- The active instances at which an element of va has a non-zero bit (R202). -/
def condMask (x : Ctx) (v : VReg) (w n : Nat) : Nat :=
  (List.range (tagCount x.lframe)).foldl (fun a j =>
    if isActive x j && (copyOf v x.lframe j).toNat % 2 ^ (w * n) != 0 then a + 2 ^ j else a) 0

/-- The mask of active instances (R202). -/
def activeMask (x : Ctx) : Nat :=
  (List.range (tagCount x.lframe)).foldl (fun a j => if isActive x j then a + 2 ^ j else a) 0

/-- The condition mask that LANY and LALL form, after their checks (R202). -/
def liftCond (i : Instr) (a : BitVec 4) (t : Nat) : M Nat := do
  let n ← shaped i (typeBits t)
  let v ← rdV a
  let u ← unionOf [v.tag]
  let x ← me
  markWings (activeOver x u) false
  return condMask x v (typeBits t) n

/-- LANY (R202, R347). -/
def execLany (d : BitVec 5) (a : BitVec 4) (t : BitVec 5) (y : BitVec 3) (s : State) : Host.Outcome State Fault Refusal :=
  wingIssue (.lany d a t y) y [] [d] (do wr d (natW (← liftCond (.lany d a t y) a t.toNat))) s

/-- LALL (R202, R346). -/
def execLall (d : BitVec 5) (a : BitVec 4) (t : BitVec 5) (y : BitVec 3) (s : State) : Host.Outcome State Fault Refusal :=
  wingIssue (.lall d a t y) y [] [d] (do
    let m ← liftCond (.lall d a t y) a t.toNat
    wr d (natW (if m = activeMask (← me) then m else 0))) s

end Sys2Proof.Machine
end

