-- ==== Sys2Proof/Machine/Vector.lean ====
section
/-! DEFINITION. Vector instructions on registers (R55, R91, R184, R185, R241, R398 to R407, R409 to R417). -/

namespace Sys2Proof.Machine

/-- Elements in ascending order through a conversion that threads RNGS (R91). -/
def mapRng {α : Type} (f : α → BitVec 32 → Nat × BitVec 32) (l : List α) (r : BitVec 32) : List Nat × BitVec 32 :=
  match l with
  | [] => ([], r)
  | a :: t =>
    let p := f a r
    let q := mapRng f t p.2
    (p.1 :: q.1, q.2)

/-- One active combination of a widened vector instruction: `f` takes the source copies, the old destination copy and RNGS (R199). -/
def vecStep (d : BitVec 4) (srcs : List (BitVec 4)) (u : LiftTag) (f : List Nat → Nat → BitVec 32 → Nat × BitVec 32) (x : Ctx) (m : Nat) :
    Ctx :=
  let old := vecGet x.v d.toNat vregReset
  let r := f (srcs.map fun r => (copyOf (vecGet x.v r.toNat vregReset) u m).toNat) (copyOf old u m).toNat x.rngs
  { x with rngs := r.2, v := vecSet x.v d.toNat (setCopy old u m (BitVec.ofNat 4096 r.1)) }

/-- Run a vector instruction over the union tag of its sources; the destination takes that tag (R198 to R200). -/
def overVec (d : BitVec 4) (srcs : List (BitVec 4)) (f : List Nat → Nat → BitVec 32 → Nat × BitVec 32) : M Unit := do
  let x ← me
  let u ← unionOf (srcs.map fun r => (vecGet x.v r.toNat vregReset).tag)
  let l := activeOver x u
  markWings l false
  setMe fun x => l.foldl (vecStep d srcs u f) { x with v := vecModify x.v d.toNat fun v => growReg v u }

/-- An instruction of one source, element by element. -/
def vec1 (i : Instr) (d a : BitVec 4) (y : BitVec 3) (ws wd : Nat) (f : Nat → BitVec 32 → Nat × BitVec 32) (s : State) :
    Host.Outcome State Fault Refusal :=
  wingIssue i y [] [] (do
    let n ← shaped i (max ws wd)
    overVec d [a] fun c old r =>
      let p := mapRng f (getEls (c.getD 0 0) ws n) r
      (putEls old wd p.1, p.2)) s

/-- An instruction of two sources, element by element. -/
def vec2 (i : Instr) (d a b : BitVec 4) (y : BitVec 3) (w : Nat) (f : Nat × Nat → BitVec 32 → Nat × BitVec 32) (s : State) :
    Host.Outcome State Fault Refusal :=
  wingIssue i y [] [] (do
    let n ← shaped i w
    overVec d [a, b] fun c old r =>
      let p := mapRng f ((getEls (c.getD 0 0) w n).zip (getEls (c.getD 1 0) w n)) r
      (putEls old w p.1, p.2)) s

/-- An instruction of two sources that also reads its destination, element by element; `f` takes vd, va and vb. -/
def vec3 (i : Instr) (d a b : BitVec 4) (y : BitVec 3) (w : Nat) (f : Nat × Nat × Nat → BitVec 32 → Nat × BitVec 32) (s : State) :
    Host.Outcome State Fault Refusal :=
  wingIssue i y [] [] (do
    let n ← shaped i w
    overVec d [d, a, b] fun c old r =>
      let p := mapRng f ((getEls (c.getD 0 0) w n).zip ((getEls (c.getD 1 0) w n).zip (getEls (c.getD 2 0) w n))) r
      (putEls old w p.1, p.2)) s

/-- The rounding mode of M[1:0] (R65, R90). -/
def modeOf (m1 m0 : BitVec 1) : Rnd := rndOf (2 * m1.toNat + m0.toNat)

/-- An arithmetic result: rounded once for a floating type, wrapped or clamped for an integer type (R398). -/
def arith (t : Nat) (mode : Rnd) (sat : Bool) (r : BitVec 32) (f : FVal) (i : Int) : Nat × BitVec 32 :=
  if isFloat t then fenc (fmtOf t) mode r f else (narrow t sat i, r)

/-- An element as an instruction writes it: E8M10 leaves its unused bits 0 (R82). -/
def cleanEl (t c : Nat) : Nat := if t = 11 then c / 2 ^ 13 * 2 ^ 13 else c

/-- VSHAPE (R184, R415). -/
def execVshape (rows : BitVec 4) (clo : BitVec 5) (chi : BitVec 1) (t : BitVec 5) (y : BitVec 3) (s : State) :
    Host.Outcome State Fault Refusal :=
  wingIssue (.vshape rows clo chi t y) y [] [] (setMe fun x => { x with shape := chi ++ clo ++ rows }) s

/-- VADD (R400). -/
def execVadd (d : BitVec 4) (m0 : BitVec 1) (a : BitVec 4) (m1 : BitVec 1) (b : BitVec 4) (m2 : BitVec 1) (t : BitVec 5) (y : BitVec 3)
    (s : State) : Host.Outcome State Fault Refusal :=
  vec2 (.vadd d m0 a m1 b m2 t y) d a b y (typeBits t.toNat) (fun p r => arith t.toNat (modeOf m1 m0) (m2 = 1) r
    (fadd (elemVal t.toNat p.1) (elemVal t.toNat p.2)) (intVal t.toNat p.1 + intVal t.toNat p.2)) s

/-- VSUB (R400): va + (−vb). -/
def execVsub (d : BitVec 4) (m0 : BitVec 1) (a : BitVec 4) (m1 : BitVec 1) (b : BitVec 4) (m2 : BitVec 1) (t : BitVec 5) (y : BitVec 3)
    (s : State) : Host.Outcome State Fault Refusal :=
  vec2 (.vsub d m0 a m1 b m2 t y) d a b y (typeBits t.toNat) (fun p r => arith t.toNat (modeOf m1 m0) (m2 = 1) r
    (fadd (elemVal t.toNat p.1) (fminus (elemVal t.toNat p.2))) (intVal t.toNat p.1 - intVal t.toNat p.2)) s

/-- VMUL (R400). -/
def execVmul (d : BitVec 4) (m0 : BitVec 1) (a : BitVec 4) (m1 : BitVec 1) (b : BitVec 4) (m2 : BitVec 1) (t : BitVec 5) (y : BitVec 3)
    (s : State) : Host.Outcome State Fault Refusal :=
  vec2 (.vmul d m0 a m1 b m2 t y) d a b y (typeBits t.toNat) (fun p r => arith t.toNat (modeOf m1 m0) (m2 = 1) r
    (fmul (elemVal t.toNat p.1) (elemVal t.toNat p.2)) (intVal t.toNat p.1 * intVal t.toNat p.2)) s

/-- VFMA (R407). -/
def execVfma (d : BitVec 4) (m0 : BitVec 1) (a : BitVec 4) (m1 : BitVec 1) (b : BitVec 4) (m2 : BitVec 1) (t : BitVec 5) (y : BitVec 3)
    (s : State) : Host.Outcome State Fault Refusal :=
  vec3 (.vfma d m0 a m1 b m2 t y) d a b y (typeBits t.toNat) (fun p r => arith t.toNat (modeOf m1 m0) (m2 = 1) r
    (fadd (fmul (elemVal t.toNat p.2.1) (elemVal t.toNat p.2.2)) (elemVal t.toNat p.1))
    (intVal t.toNat p.2.1 * intVal t.toNat p.2.2 + intVal t.toNat p.1)) s

/-- The smaller element (R89, R409). -/
def elemMin (t a b : Nat) : Nat :=
  if isFloat t then (encType t .rne 0 (fminV (elemVal t a) (elemVal t b))).1 else if intVal t a ≤ intVal t b then a else b

/-- The larger element (R89, R409). -/
def elemMax (t a b : Nat) : Nat :=
  if isFloat t then (encType t .rne 0 (fmaxV (elemVal t a) (elemVal t b))).1 else if intVal t b ≤ intVal t a then a else b

/-- VMIN (R409). -/
def execVmin (d a b : BitVec 4) (t : BitVec 5) (y : BitVec 3) (s : State) : Host.Outcome State Fault Refusal :=
  vec2 (.vmin d a b t y) d a b y (typeBits t.toNat) (fun p r => (elemMin t.toNat p.1 p.2, r)) s

/-- VMAX (R409). -/
def execVmax (d a b : BitVec 4) (t : BitVec 5) (y : BitVec 3) (s : State) : Host.Outcome State Fault Refusal :=
  vec2 (.vmax d a b t y) d a b y (typeBits t.toNat) (fun p r => (elemMax t.toNat p.1 p.2, r)) s

/-- The magnitude of an element (R399). -/
def elemAbs (t : Nat) (sat : Bool) (a : Nat) : Nat :=
  if isFloat t then (encType t .rne 0 (fmag (elemVal t a))).1 else narrow t sat (intVal t a).natAbs

/-- VABS (R399). -/
def execVabs (d a : BitVec 4) (m2 : BitVec 1) (t : BitVec 5) (y : BitVec 3) (s : State) : Host.Outcome State Fault Refusal :=
  vec1 (.vabs d a m2 t y) d a y (typeBits t.toNat) (typeBits t.toNat) (fun c r => (elemAbs t.toNat (m2 = 1) c, r)) s

/-- A special function of one element, rounded once (R406). -/
def special (t : Nat) (mode : Rnd) (f : FVal → FVal) (c : Nat) (r : BitVec 32) : Nat × BitVec 32 := fenc (fmtOf t) mode r (f (elemVal t c))

/-- VSQRT (R406). -/
def execVsqrt (d : BitVec 4) (m0 : BitVec 1) (a : BitVec 4) (m1 : BitVec 1) (t : BitVec 5) (y : BitVec 3) (s : State) :
    Host.Outcome State Fault Refusal :=
  vec1 (.vsqrt d m0 a m1 t y) d a y (typeBits t.toNat) (typeBits t.toNat) (special t.toNat (modeOf m1 m0) fsqrt) s

/-- VRSQ (R406). -/
def execVrsq (d : BitVec 4) (m0 : BitVec 1) (a : BitVec 4) (m1 : BitVec 1) (t : BitVec 5) (y : BitVec 3) (s : State) :
    Host.Outcome State Fault Refusal :=
  vec1 (.vrsq d m0 a m1 t y) d a y (typeBits t.toNat) (typeBits t.toNat) (special t.toNat (modeOf m1 m0) frsq) s

/-- VEXP2 (R406). -/
def execVexp2 (d : BitVec 4) (m0 : BitVec 1) (a : BitVec 4) (m1 : BitVec 1) (t : BitVec 5) (y : BitVec 3) (s : State) :
    Host.Outcome State Fault Refusal :=
  vec1 (.vexp2 d m0 a m1 t y) d a y (typeBits t.toNat) (typeBits t.toNat) (special t.toNat (modeOf m1 m0) fexp2) s

/-- VRCP (R406). -/
def execVrcp (d : BitVec 4) (m0 : BitVec 1) (a : BitVec 4) (m1 : BitVec 1) (t : BitVec 5) (y : BitVec 3) (s : State) :
    Host.Outcome State Fault Refusal :=
  vec1 (.vrcp d m0 a m1 t y) d a y (typeBits t.toNat) (typeBits t.toNat) (special t.toNat (modeOf m1 m0) frcp) s

/-- Convert one element (R404): equal types return the input, but for a NaN; unused container bits are written 0 (R82). -/
def convElem (ts td : Nat) (mode : Rnd) (c : Nat) (r : BitVec 32) : Nat × BitVec 32 :=
  let p := encType td mode r (elemVal ts c)
  if ts = td && elemVal ts c != .nan then (if ts = 11 then c / 2 ^ 13 * 2 ^ 13 else c, p.2) else p

/-- VCVT (R404). -/
def execVcvt (d : BitVec 4) (m0 : BitVec 1) (a : BitVec 4) (m1 : BitVec 1) (ts td : BitVec 5) (y : BitVec 3) (s : State) :
    Host.Outcome State Fault Refusal :=
  vec1 (.vcvt d m0 a m1 ts td y) d a y (typeBits ts.toNat) (typeBits td.toNat) (convElem ts.toNat td.toNat (modeOf m1 m0)) s

/-- Byte `k` of a register copy. -/
def byteAt (b k : Nat) : Nat := b / 2 ^ (8 * k) % 256

/-- Replace byte `k` of a register copy. -/
def byteSet (b k v : Nat) : Nat := b - byteAt b k * 2 ^ (8 * k) + v % 256 * 2 ^ (8 * k)

/-- The blocks of a VQNT, in ascending order (R411). -/
def quantBlocks (t : Nat) (mode : Rnd) (l : List FVal) (fuel : Nat) (r : BitVec 32) : List Block × BitVec 32 :=
  match fuel with
  | 0 => ([], r)
  | k + 1 =>
    if l.isEmpty then ([], r)
    else
      let p := encBlock t mode r (l.take 32)
      let q := quantBlocks t mode (l.drop 32) k p.2
      (p.1 :: q.1, q.2)

/-- The scale register with the scales, and SPEC of E2M1X, of its blocks (R411). -/
def quantScales (t : Nat) (old : Nat) (l : List Block) (g : Nat) : Nat :=
  match l with
  | [] => old
  | b :: r =>
    let v := byteSet old g b.scale
    quantScales t (if t = 0 then byteSet v (32 + g) b.spec else v) r (g + 1)

/-- One active combination of VQNT: codes to vd, scales to vb (R411). -/
def quantStep (t src : Nat) (mode : Rnd) (n : Nat) (d a b : BitVec 4) (u : LiftTag) (x : Ctx) (m : Nat) : Ctx :=
  let l := (getEls (copyOf (vecGet x.v a.toNat vregReset) u m).toNat (typeBits src) n).map (elemVal src)
  let q := quantBlocks t mode l n x.rngs
  let vd := vecGet x.v d.toNat vregReset
  let x := { x with
    rngs := q.2
    v := vecSet x.v d.toNat (setCopy vd u m (BitVec.ofNat 4096
      (putEls (copyOf vd u m).toNat (typeBits t) (q.1.flatMap fun b : Block => b.codes)))) }
  let vb := vecGet x.v b.toNat vregReset
  { x with v := vecSet x.v b.toNat (setCopy vb u m (BitVec.ofNat 4096 (quantScales t (copyOf vb u m).toNat q.1 0))) }

/-- VQNT (R411). -/
def execVqnt (d : BitVec 4) (m0 : BitVec 1) (a : BitVec 4) (m1 : BitVec 1) (b : BitVec 4) (m2 : BitVec 1) (t : BitVec 5) (y : BitVec 3)
    (s : State) : Host.Outcome State Fault Refusal :=
  let i : Instr := .vqnt d m0 a m1 b m2 t y
  let src := if m2 = 1 then 10 else 12
  wingIssue i y [] [] (do
    let n ← shaped i (typeBits src)
    illopIf (n % 32 != 0) i
    let v ← rdV a
    let u ← unionOf [v.tag]
    let l := activeOver (← me) u
    markWings l false
    setV d fun v => growReg v u
    setV b fun v => growReg v u
    setMe fun x => l.foldl (quantStep t.toNat src (modeOf m1 m0) n d a b u) x) s

/-- VDQ (R405). -/
def execVdq (d : BitVec 4) (m0 : BitVec 1) (a : BitVec 4) (m1 : BitVec 1) (b : BitVec 4) (m2 : BitVec 1) (t : BitVec 5) (y : BitVec 3)
    (s : State) : Host.Outcome State Fault Refusal :=
  let i : Instr := .vdq d m0 a m1 b m2 t y
  let dst := if m2 = 1 then 10 else 12
  wingIssue i y [] [] (do
    let n ← shaped i (typeBits dst)
    illopIf (n % 32 != 0) i
    overVec d [a, b] fun c old r =>
      let codes := getEls (c.getD 0 0) (typeBits t.toNat) n
      let p := mapRng (fun l r => fenc (fmtOf dst) (modeOf m1 m0) r
        (blockVal t.toNat (codes.getD l 0) (byteAt (c.getD 1 0) (l / 32)) (byteAt (c.getD 1 0) (32 + l / 32)))) (List.range n) r
      (putEls old (typeBits dst) p.1, p.2)) s

/-- VAND (R401). -/
def execVand (d a b : BitVec 4) (t : BitVec 5) (y : BitVec 3) (s : State) : Host.Outcome State Fault Refusal :=
  vec2 (.vand d a b t y) d a b y (typeBits t.toNat) (fun p r => (p.1 &&& p.2, r)) s

/-- VOR (R401). -/
def execVor (d a b : BitVec 4) (t : BitVec 5) (y : BitVec 3) (s : State) : Host.Outcome State Fault Refusal :=
  vec2 (.vor d a b t y) d a b y (typeBits t.toNat) (fun p r => (p.1 ||| p.2, r)) s

/-- VXOR (R401). -/
def execVxor (d a b : BitVec 4) (t : BitVec 5) (y : BitVec 3) (s : State) : Host.Outcome State Fault Refusal :=
  vec2 (.vxor d a b t y) d a b y (typeBits t.toNat) (fun p r => (p.1 ^^^ p.2, r)) s

/-- A left shift: by the width or more it gives 0, or the clamp of a non-zero element (R416). -/
def elemShl (t : Nat) (sat : Bool) (a n : Nat) : Nat :=
  if n < typeBits t then narrow t sat (intVal t a * (2 ^ n : Nat))
  else if sat then narrow t true (intVal t a * (2 ^ typeBits t : Nat)) else 0

/-- A right shift, towards minus infinity (R416). -/
def elemShr (t a n : Nat) : Nat := intBits t (intVal t a / (2 ^ min n (typeBits t) : Nat))

/-- VSHL (R416). -/
def execVshl (d a b : BitVec 4) (m2 : BitVec 1) (t : BitVec 5) (y : BitVec 3) (s : State) : Host.Outcome State Fault Refusal :=
  vec2 (.vshl d a b m2 t y) d a b y (typeBits t.toNat) (fun p r => (elemShl t.toNat (m2 = 1) p.1 p.2, r)) s

/-- VSHR (R416). -/
def execVshr (d a b : BitVec 4) (t : BitVec 5) (y : BitVec 3) (s : State) : Host.Outcome State Fault Refusal :=
  vec2 (.vshr d a b t y) d a b y (typeBits t.toNat) (fun p r => (elemShr t.toNat p.1 p.2, r)) s

/-- VSEL (R414). -/
def execVsel (d a b : BitVec 4) (t : BitVec 5) (y : BitVec 3) (s : State) : Host.Outcome State Fault Refusal :=
  vec3 (.vsel d a b t y) d a b y (typeBits t.toNat) (fun p r => (cleanEl t.toNat (if p.1 != 0 then p.2.1 else p.2.2), r)) s

/-- VCMP (R403). -/
def execVcmp (d : BitVec 4) (m0 : BitVec 1) (a : BitVec 4) (m1 : BitVec 1) (b : BitVec 4) (m2 : BitVec 1) (t : BitVec 5) (y : BitVec 3)
    (s : State) : Host.Outcome State Fault Refusal :=
  vec2 (.vcmp d m0 a m1 b m2 t y) d a b y (typeBits t.toNat) (fun p r =>
    (if vcond (m2.toNat * 4 + m1.toNat * 2 + m0.toNat) (elemVal t.toNat p.1) (elemVal t.toNat p.2) then 2 ^ typeBits t.toNat - 1 else 0, r)) s

/-- The first element of a reduction: a NaN becomes canonical, unused container bits 0 (R82, R88). -/
def accFirst (t c : Nat) : Nat := if isFloat t then (encType t .rne 0 (elemVal t c)).1 else c

/-- One combination of a reduction (R412). -/
def redElem (op t : Nat) (mode : Rnd) (a b : Nat) (r : BitVec 32) : Nat × BitVec 32 :=
  match op with
  | 0 => arith t mode false r (fadd (elemVal t a) (elemVal t b)) (intVal t a + intVal t b)
  | 1 => (elemMin t a b, r)
  | 2 => (elemMax t a b, r)
  | 3 => (a &&& b, r)
  | 4 => (a ||| b, r)
  | _ => (a ^^^ b, r)

/-- The place of the result of the group that holds flat position `k` of an axis (R412). -/
def redSlot (axis cols k : Nat) : Nat :=
  match axis with
  | 0 => k / cols * cols
  | 1 => k % cols
  | _ => 0

/-- Reduce elements in ascending flat position from `k` on, each into its group: so RNGS steps in ascending i * columns + j of the element added
(R91, R398), and each group goes in its own order (R412). `acc` holds the groups begun, by the place of their result. -/
def redScan (op t axis cols : Nat) (mode : Rnd) (l : List Nat) (k : Nat) (acc : SMap Nat) (r : BitVec 32) : SMap Nat × BitVec 32 :=
  match l with
  | [] => (acc, r)
  | e :: rest =>
    let g := redSlot axis cols k
    let p := match mapGet acc g with
      | none => (accFirst t e, r)
      | some a => redElem op t mode a e r
    redScan op t axis cols mode rest (k + 1) (mapSet acc g p.1) p.2

/-- VRED (R412). -/
def execVred (d : BitVec 4) (m0 : BitVec 1) (a : BitVec 4) (m1 : BitVec 1) (op : BitVec 3) (axis : BitVec 2) (t : BitVec 5) (y : BitVec 3)
    (s : State) : Host.Outcome State Fault Refusal :=
  let i : Instr := .vred d m0 a m1 op axis t y
  let w := typeBits t.toNat
  wingIssue i y [] [] (do
    let n ← shaped i w
    let x ← me
    overVec d [a] fun c old r =>
      let p := redScan op.toNat t.toNat axis.toNat (shapeCols x) (modeOf m1 m0) (getEls (c.getD 0 0) w n) 0 [] r
      (putEls old w (p.1.foldl (fun l g => listSet l g.1 g.2) (getEls old w n)), p.2)) s

/-- VBCST (R402): it executes once and leaves vd untagged. -/
def execVbcst (d : BitVec 4) (a t : BitVec 5) (y : BitVec 3) (s : State) : Host.Outcome State Fault Refusal :=
  let i : Instr := .vbcst d a t y
  let w := typeBits t.toNat
  wingIssue i y [a] [] (do
    let n ← shaped i w
    let c := (← rd a).toNat % 2 ^ w
    setV d fun v => setCopy v tagNone 0 (BitVec.ofNat 4096 (putEls (copyOf v tagNone 0).toNat w (List.replicate n (cleanEl t.toNat c))))
    markWings [0] false) s

/-- VMOV (R410). -/
def execVmov (d a : BitVec 4) (t : BitVec 5) (y : BitVec 3) (s : State) : Host.Outcome State Fault Refusal :=
  vec1 (.vmov d a t y) d a y (typeBits t.toNat) (typeBits t.toNat) (fun c r => (c, r)) s

/-- The running sums of VSCAN from flat position `k`; `l` holds the elements of va and vb (R241). -/
def scanFrom (t cols : Nat) (mode : Rnd) (sat : Bool) (l : List (Nat × Nat)) (k acc : Nat) (r : BitVec 32) : List Nat × BitVec 32 :=
  match l with
  | [] => ([], r)
  | (a, b) :: rest =>
    let p := if k % cols = 0 || b != 0 then (accFirst t a, r)
      else arith t mode sat r (fadd (elemVal t acc) (elemVal t a)) (intVal t acc + intVal t a)
    let q := scanFrom t cols mode sat rest (k + 1) p.1 p.2
    (p.1 :: q.1, q.2)

/-- VSCAN (R241, R413). -/
def execVscan (d : BitVec 4) (m0 : BitVec 1) (a : BitVec 4) (m1 : BitVec 1) (b : BitVec 4) (m2 : BitVec 1) (t : BitVec 5) (y : BitVec 3)
    (s : State) : Host.Outcome State Fault Refusal :=
  let i : Instr := .vscan d m0 a m1 b m2 t y
  let w := typeBits t.toNat
  wingIssue i y [] [] (do
    let n ← shaped i w
    let cols := shapeCols (← me)
    overVec d [a, b] fun c old r =>
      let p := scanFrom t.toNat cols (modeOf m1 m0) (m2 = 1) ((getEls (c.getD 0 0) w n).zip (getEls (c.getD 1 0) w n)) 0 0 r
      (putEls old w p.1, p.2)) s

/-- VTRN (R417). -/
def execVtrn (d a : BitVec 4) (t : BitVec 5) (y : BitVec 3) (s : State) : Host.Outcome State Fault Refusal :=
  let i : Instr := .vtrn d a t y
  let w := typeBits t.toNat
  wingIssue i y [] [] (do
    let n ← shaped i w
    let x ← me
    let rows := shapeRows x
    let cols := shapeCols x
    illopIf (decide (16 < cols)) i
    overVec d [a] fun c old r =>
      let e := getEls (c.getD 0 0) w n
      (putEls old w ((List.range n).map fun k => cleanEl t.toNat (e.getD (k % rows * cols + k / rows) 0)), r)) s

end Sys2Proof.Machine
end

