-- ==== Sys2Proof/Machine/VecMem.lean ====
section
/-! DEFINITION. Tensor maps, and the vector loads and stores (R56, R172 to R175, R205, R207, R240, R350, R351, R388, R408). -/

namespace Sys2Proof.Machine

/-- Bits [hi:lo] of a map image (R56). -/
def imgBits (b : BitVec 512) (hi lo : Nat) : Nat := b.toNat / 2 ^ lo % 2 ^ (hi + 1 - lo)

/-- BASE of a map (R56). -/
def mapBase (q : MapReg) : Reg := ⟨BitVec.ofNat 128 (imgBits q.img 127 0), q.capTag⟩
/-- EXTk (R56). -/
def mapExt (q : MapReg) (k : Nat) : Nat := imgBits q.img (143 + 16 * k) (128 + 16 * k)
/-- STRk (R56). -/
def mapStr (q : MapReg) (k : Nat) : Int := sxInt (imgBits q.img (255 + 64 * k) (192 + 64 * k)) 64
/-- LSTR (R56). -/
def mapLstr (q : MapReg) : Int := sxInt (imgBits q.img 479 448) 32
/-- FMT (R56). -/
def mapFmt (q : MapReg) : Nat := imgBits q.img 483 480
/-- NDIM (R56). -/
def mapNdim (q : MapReg) : Nat := imgBits q.img 495 488

/-- A map that R56 refuses at first use. -/
def mapBad (q : MapReg) : Bool :=
  mapNdim q == 0 || decide (4 < mapNdim q) || mapFmt q == 14 || (List.range (mapNdim q)).any fun k => mapExt q k == 0

/-- A map register of the executing context. -/
def rdM (r : BitVec 4) : M MapReg := do return vecGet (← me).m r.toNat mapRegReset

/-- The indices of flat element `l` of a map of three or four dimensions (R351). -/
def splitFlat (ext : List Nat) (l : Nat) : List Nat :=
  match ext with
  | [] => []
  | e :: r => match r with
    | [] => [l]
    | _ => l % ext1 e :: splitFlat r (l / ext1 e)

/-- The indices of shaped element (i, j), of which `cols` stand in a row, along the map's dimensions (R207, R351). -/
def elemIdx (q : MapReg) (cols i j : Nat) : List Nat :=
  match mapNdim q with
  | 1 => [i * cols + j]
  | 2 => [j, i]
  | n => splitFlat ((List.range n).map (mapExt q)) (i * cols + j)

/-- Every index lies within its extent (R207, R351). -/
def idxIn (q : MapReg) (l : List Nat) : Bool := (List.range l.length).all fun k => decide (l.getD k 0 < mapExt q k)

/-- A format whose elements are packed within bytes (R351). -/
def isPacked (f : Nat) : Bool := f ≤ 2 || f = 5 || f = 6

/-- Where packed element `x` of a row lies: byte offset in the row, first bit, bytes touched (R85, R351). -/
def packedAt (f x : Nat) : Nat × Nat × Nat :=
  let b := x / 32 * blockBytes f
  let e := x % 32 * typeBits f
  (b + e / 8, e % 8, (e % 8 + typeBits f + 7) / 8)

/-- The address of an element, its first bit there and its bytes, for an instance offset (R207, R351). -/
def elemAt (q : MapReg) (n : Nat) (l : List Nat) : W64 × Nat × Nat :=
  let f := mapFmt q
  let base : Int := (capAddr (mapBase q).bits).toNat + n * mapLstr q
  let from_ := if isPacked f then 1 else 0
  let off : Int := (List.range l.length).foldl (fun a k => if from_ ≤ k then a + l.getD k 0 * mapStr q k else a) 0
  if isPacked f then
    let p := packedAt f (l.headD 0)
    (toW (base + off + p.1), p.2.1, p.2.2)
  else (toW (base + off), 0, typeBits f / 8)

/-- The single accesses of an element: its address and size, or the bytes of a packed one. -/
def elemAccesses (f : Nat) (e : W64 × Nat × Nat) : List (W64 × Nat) :=
  if isPacked f then (List.range e.2.2).map fun k => (e.1 + natW k, 1) else [(e.1, e.2.2)]

/-- Run the instances of a widened memory instruction from the one at which it resumes (R205); those that are complete stay so over a stall. -/
def runInstances (body : Nat → M Unit) (l : List Nat) : M Unit := do
  match l with
  | [] => return
  | m :: r =>
    keepPart m (← partOf m)
    tryCatch (body m) fun e => match e with
      | .trap t => do
        setMe fun x => { x with resume := m }
        throw (.trap t)
      | e => throw e
    runInstances body r

/-- Instances of the executing instruction that have not completed (R205). -/
def instancesLeft (u : LiftTag) : M (List Nat) := do
  let start ← startInstance
  return (activeOver (← me) u).filter fun m => start ≤ m

/-- The checks of R104 over the accesses of one element; `r` is the number of the map register. -/
def checkElem (q : MapReg) (r : Nat) (k : Access) (l : List (W64 × Nat)) : M (List (W64 × Place)) := do
  match l with
  | [] => return []
  | a :: t =>
    let p ← access (mapBase q) r a.1 a.2 k
    let s ← checkElem q r k t
    return (a.1, p.1) :: s

/-- A place some bytes further on. -/
def placePlus (p : Place) (n : Nat) : Place :=
  match p with
  | .cell c o => .cell c (o + n)
  | .phys a uc key => .phys (a + n) uc key
  | .engine o => .engine (o + n)

/-- `n` bytes from a place on lie in one page. -/
def onePage (p : Place) (n : Nat) : Bool :=
  match p with
  | .phys a _ _ => a / 4096 == (a + n - 1) / 4096
  | _ => true

/-- Read checked accesses of `n` bytes each, in order. -/
def readPlaces (n : Nat) (refresh : Bool) (l : List (W64 × Place)) : M (List Byte) := do
  match l with
  | [] => return []
  | p :: r =>
    let b ← loadShared p.2 n refresh
    return b ++ (← readPlaces n refresh r)

/-- Read checked accesses of `n` bytes each that follow one another and are atomic together: as one load; where they lie on two pages, each from its home as
it is at this moment (R122). -/
def readSpan (n : Nat) (l : List (W64 × Place)) : M (List Byte) := do
  match l with
  | [] => return []
  | a :: _ =>
    if onePage a.2 (l.length * n) && l.all fun e => e.2 == placePlus a.2 (e.1 - a.1).toNat then loadShared a.2 (l.length * n) false
    else readPlaces n true l

/-- Read elements through a map that are atomic together: an element alone, or packed elements that share bytes (R104, R122, R207). -/
def readGroup (q : MapReg) (r : Nat) (g : List (W64 × Nat × Nat)) : M (List Nat) := do
  let f := mapFmt q
  let p ← checkElem q r accLoad (g.flatMap (elemAccesses f)).eraseDups
  let b ← readSpan (if isPacked f then 1 else typeBits f / 8) p
  return g.map fun e => ofBytes (b.drop (e.1 - (g.headD (0, 0, 0)).1).toNat) / 2 ^ e.2.1 % 2 ^ typeBits f

/-- A packed element shares a byte with the next one (R122). -/
def sharesByte (f : Nat) (e : W64 × Nat × Nat) (l : List (W64 × Nat × Nat)) : Bool :=
  match l with
  | [] => false
  | n :: _ => isPacked f && decide (e.1.toNat ≤ n.1.toNat) && decide (n.1.toNat < e.1.toNat + e.2.2)

/-- Elements in groups that are atomic together (R122). -/
def tieGroups (f : Nat) (l : List (W64 × Nat × Nat)) : List (List (W64 × Nat × Nat)) :=
  match l with
  | [] => []
  | e :: t => match tieGroups f t with
    | [] => [[e]]
    | g :: r => if sharesByte f e t then (e :: g) :: r else [e] :: g :: r

/-- Read groups of elements of instance `m` in ascending order behind the elements already read; each group is kept as it is read (R122). -/
def readGroups (q : MapReg) (r m : Nat) (done : List Nat) (l : List (List (W64 × Nat × Nat))) : M (List Nat) := do
  match l with
  | [] => return done
  | g :: t =>
    pausePoint done.length
    let v ← readGroup q r g
    keepPart m (done ++ v)
    readGroups q r m (done ++ v) t

/-- The elements of an instance, those read before a stall not again (R122). -/
def instanceElems (q : MapReg) (r m : Nat) (l : List (W64 × Nat × Nat)) : M (List Nat) := do
  let done ← partOf m
  readGroups q r m done (tieGroups (mapFmt q) (l.drop done.length))

/-- The index lists of the shaped elements, in ascending (i, j). -/
def shapedIdx (q : MapReg) (rows cols : Nat) : List (List Nat) :=
  (List.range (rows * cols)).map fun l => elemIdx q cols (l / cols) (l % cols)

/-- The checks of LDV and STV before any access (R55, R56, R207, R350). -/
def mapForm (i : Instr) (q : MapReg) : M (List (List Nat)) := do
  illopIf (mapBad q || mapFmt q == 15) i
  let _ ← shaped i (typeBits (mapFmt q))
  let x ← me
  let l := shapedIdx q (shapeRows x) (shapeCols x)
  illopIf (!l.all (idxIn q)) i
  return l

/-- LDV through a map (R207, R350, R351). -/
def execLdv (d m : BitVec 4) (y : BitVec 3) (s : State) : Host.Outcome State Fault Refusal :=
  let i : Instr := .ldv d m y
  issue i (cyc y) [] [] false (do
    let q ← rdM m
    let l ← mapForm i q
    let u ← unionOf [q.lift]
    runInstances (fun n => do
      let e ← instanceElems q m.toNat n (l.map (elemAt q n))
      setV d fun v => setCopy v u n (BitVec.ofNat 4096 (putEls (copyOf v u n).toNat (typeBits (mapFmt q)) (e.map (cleanEl (mapFmt q)))))) (← instancesLeft u)
    setV d fun v => growReg v u) s

/-- A map image with its reserved bytes 62 and 63 as 0 (R5, R56). -/
def imgClean (n : Nat) : BitVec 512 := BitVec.ofNat 512 (n % 2 ^ 496)

/-- The map register that the 64 bytes of an image and a tag make: the reserved bits of a tagged base read 0 (R5, R51, R56). -/
def mapImage (n : Nat) (tag : Bool) (lift : LiftTag) : MapReg :=
  let cap := formCap (BitVec.ofNat 128 n) tag
  ⟨imgClean (n / 2 ^ 128 * 2 ^ 128 + cap.bits.toNat), cap.tag, lift⟩

/-- Read the 64 bytes of a map image, 16 at a time. -/
def readImage (p : Place) (fuel off : Nat) : M (List Byte) := do
  match fuel with
  | 0 => return []
  | k + 1 =>
    let b ← loadShared (placePlus p off) 16 false
    return b ++ (← readImage p k (off + 16))

/-- LDV of a map image (R105, R207). -/
def execLdvImg (d : BitVec 5) (m : BitVec 4) (y : BitVec 3) (s : State) : Host.Outcome State Fault Refusal :=
  issue (.ldvImg d m y) (cyc y) [d] [] false (do
    let c ← rdReg d
    let r ← access c d.toNat (capAddr c.bits) 64 accLoad
    let b ← readImage r.1 4 0
    let t ← loadTagShared r.1
    let q := mapImage (ofBytes b) (t && hasPerm c.bits permLC && (isCellPlace r.1 || r.2)) tagNone
    setMe fun x => { x with m := vecSet x.m m.toNat q }) s

/-- LDV of a stream (R174, R350): it waits for the element at the read index. An element that lies in the undo log of a pair raises PERM with the address of
its first byte in the relative mesh form (DESIGN CHOICE, log 86: R110 names no form). -/
def execLdvStream (d : BitVec 4) (n : BitVec 3) (t : BitVec 5) (y : BitVec 3) (s : State) : Host.Outcome State Fault Refusal :=
  let i : Instr := .ldvStream d n t y
  issue i (cyc y) [] [] false (do
    let c ← shaped i (typeBits t.toNat)
    match vecGet (← me).s n.toNat none with
    | none => illop i
    | some st =>
      notSpec
      let k ← myCore
      let kept := match k.twin with
        | some w => w.kept.any fun e => match e with
          | .elem _ m _ => m == n.toNat
          | _ => false
        | none => false
      if st.rd < st.wr then
        let e := 2 ^ st.elog
        let s ← get
        let o := st.base + st.rd * e % st.len
        faultIf (undoLog s (coreNum s s.cur.core) o e) cPERM (natW (0xD000000000000000 + o))
        let nb := min e ((c * typeBits t.toNat + 7) / 8)
        let b ← loadPlace (.cell (coreNum s s.cur.core) o) nb false
        setMe fun x => { x with s := vecSet x.s n.toNat (some { st with rd := st.rd + 1 }) }
        setV d fun v => setCopy v tagNone 0 (BitVec.ofNat 4096 (putEls (copyOf v tagNone 0).toNat 8 (b.map BitVec.toNat)))
      else
        setCore fun k => { k with twin := k.twin.map fun w => { w with due := w.due || kept } }
        stall) s

/-- Bits of bytes put over those of a store, from byte `o` of it on. -/
def overPatch (d : List (Byte × Byte)) (o : Nat) (d2 : List (Byte × Byte)) : List (Byte × Byte) :=
  (List.range (max d.length (o + d2.length))).map fun j =>
    let old := d.getD j (0xFF, 0)
    if o ≤ j then
      let new := d2.getD (j - o) (0xFF, 0)
      (old.1 &&& new.1, patchByte old.2 new.1 new.2)
    else old

/-- Two stores of one instance in a row: bits of a byte that both touch make them one store of up to 16 bytes (R122, R127). `near` joins stores of
neighbouring bytes too. Neighbouring bytes of an element that lie on two pages are one store as well. -/
def joinStore (near : Nat) (b e : W64 × BufKind) : List (W64 × BufKind) :=
  let o := e.1.toNat - b.1.toNat
  let meets := fun (p : Place) (d : List (Byte × Byte)) (o : Nat) (q : Place) (n : Nat) =>
    decide (b.1.toNat ≤ e.1.toNat) && decide (o < d.length + near) && placePlus p o == q && onePage p (o + n) && decide (o + n ≤ 16)
  match b.2, e.2 with
  | .patch p d, .patch q d2 =>
    if meets p d o q d2.length then [(b.1, .patch p (overPatch d o d2))]
    else if near = 1 ∧ b.1.toNat ≤ e.1.toNat ∧ o = d.length then [(b.1, .split p d q d2)]
    else [b, e]
  | .patch p d, .split q d2 r m => if meets p d o q d2.length then [(b.1, .split p (overPatch d o d2) r m)] else [b, e]
  | .split p d q m, .patch r d2 =>
    let o := o - d.length
    if b.1.toNat + d.length ≤ e.1.toNat ∧ meets q m o r d2.length then [(b.1, .split p d q (overPatch m o d2))] else [b, e]
  | _, _ => [b, e]

/-- Put one store behind those of an instance. -/
def addStore (near : Nat) (l : List (W64 × BufKind)) (e : W64 × BufKind) : List (W64 × BufKind) :=
  match l with
  | [] => [e]
  | [b] => joinStore near b e
  | b :: r => b :: addStore near r e

/-- The store of one element: its bytes, or the bits of the bytes that a packed one touches. -/
def elemStores (f v : Nat) (e : W64 × Nat × Nat) (p : List (W64 × Place)) : List (W64 × BufKind) :=
  if isPacked f then
    ((List.range p.length).map fun k =>
      let w := v * 2 ^ e.2.1 / 2 ^ (8 * k)
      let hit := (2 ^ typeBits f - 1) * 2 ^ e.2.1 / 2 ^ (8 * k)
      let a := p.getD k (0, .engine 0)
      (a.1, BufKind.patch a.2 [(~~~(BitVec.ofNat 8 hit), BitVec.ofNat 8 w)])).foldl (addStore 1) []
  else p.map fun a => (a.1, .store a.2 (toBytes v e.2.2) none none)

/-- Mark the stores that share the hold entry of an earlier one of their STV: those to the same 64-byte block (R388). -/
def markShares (seen : List Nat) (l : List (W64 × BufKind)) : List (W64 × Bool × BufKind) :=
  match l with
  | [] => []
  | (a, b) :: r =>
    let blk := a.toNat / 64
    (a, seen.contains blk, b) :: markShares (blk :: seen) r

/-- The stores of one instance, every element checked first (R388). -/
def instanceStores (q : MapReg) (r : Nat) (l : List ((W64 × Nat × Nat) × Nat)) : M (List (W64 × BufKind)) := do
  match l with
  | [] => return []
  | (e, v) :: t =>
    let p ← checkElem q r (accStore false) (elemAccesses (mapFmt q) e)
    let rest ← instanceStores q r t
    return elemStores (mapFmt q) v e p ++ rest

/-- The stores of every instance, up to the first that faults (R205, R388). -/
def allStores (f : Nat → M (List (W64 × BufKind))) (l : List Nat) : M (List (W64 × BufKind) × Option (Nat × Trap)) := do
  match l with
  | [] => return ([], none)
  | m :: r =>
    let p ← tryCatch (do return Except.ok (← f m)) fun e => match e with
      | .trap t => return .error t
      | e => throw e
    match p with
    | .error t => return ([], some (m, t))
    | .ok l =>
      let q ← allStores f r
      return (l.foldl (addStore 0) [] ++ q.1, q.2)

/-- Stores that an instruction has begun to place are placed on; otherwise `first` finds them (R127). -/
def resumeStores (first : M (List (W64 × BufKind) × Option (Nat × Trap))) : M Unit := do
  match (← me).waiting with
  | some (.stores l fin) => placeStores l fin
  | _ =>
    let p ← first
    recordUsed (p.1.flatMap fun e => (storePlaces e.2).map (·.1))
    placeStores (markShares [] p.1) p.2

/-- STV through a map (R207, R351, R388). -/
def execStv (d m : BitVec 4) (y : BitVec 3) (s : State) : Host.Outcome State Fault Refusal :=
  let i : Instr := .stv d m y
  issue i (cyc y) [] [] false (resumeStores (do
    let q ← rdM m
    let l ← mapForm i q
    let v ← rdV d
    let u ← unionOf [v.tag, q.lift]
    allStores (fun n => do
      let els := (getEls (copyOf v u n).toNat (typeBits (mapFmt q)) l.length).map (cleanEl (mapFmt q))
      instanceStores q m.toNat ((l.map (elemAt q (crossIdx u q.lift n))).zip els)) (← instancesLeft u))) s

/-- STV of a map image (R105, R207, R388). -/
def execStvImg (d : BitVec 5) (m : BitVec 4) (y : BitVec 3) (s : State) : Host.Outcome State Fault Refusal :=
  let i : Instr := .stvImg d m y
  issue i (cyc y) [d] [] false (resumeStores (do
    let q ← rdM m
    illopIf (q.lift != tagNone) i
    let c ← rdReg d
    let a := capAddr c.bits
    let r ← access c d.toNat a 64 (accStore q.capTag)
    let first : W64 × BufKind := (a, .store r.1 (toBytes (imgBits q.img 127 0) 16) (some q.capTag) none)
    return (first :: (List.range 6).map fun k =>
      (a + natW (16 + 8 * k), .store (placePlus r.1 (16 + 8 * k)) (toBytes (imgBits q.img (191 + 64 * k) (128 + 64 * k)) 8) none none), none))) s

/-- The places of the elements that one instance of VGATH reads, every index and address checked, in ascending (i, j) (R240, R408). -/
def gatherPlaces (q : MapReg) (r nT : Nat) (l : List Nat) : M (List (List (W64 × Place))) := do
  match l with
  | [] => return []
  | c :: t =>
    let idx := sxInt c 32
    let a : Int := (capAddr (mapBase q).bits).toNat + nT * mapLstr q + idx * mapStr q 0
    faultIf (decide (idx < 0) || decide ((mapExt q 0 : Int) ≤ idx)) cCAPB (toW a)
    let p ← checkElem q r accLoad (elemAccesses (mapFmt q) (toW a, 0, typeBits (mapFmt q) / 8))
    return p :: (← gatherPlaces q r nT t)

/-- Read checked elements of instance `m` in ascending order behind those already read (R122, R240). -/
def gatherRead (n m : Nat) (done : List Nat) (l : List (List (W64 × Place))) : M (List Nat) := do
  match l with
  | [] => return done
  | p :: t =>
    pausePoint done.length
    let v := ofBytes (← readPlaces n false p)
    keepPart m (done ++ [v])
    gatherRead n m (done ++ [v]) t

/-- The elements of one instance of VGATH: all checked, then read (R240, R408). -/
def gatherEls (q : MapReg) (r m nT : Nat) (l : List Nat) : M (List Nat) := do
  let p ← gatherPlaces q r nT l
  let done ← partOf m
  gatherRead (typeBits (mapFmt q) / 8) m done (p.drop done.length)

/-- VGATH (R240, R408). -/
def execVgath (d a b : BitVec 4) (t : BitVec 5) (y : BitVec 3) (s : State) : Host.Outcome State Fault Refusal :=
  let i : Instr := .vgath d a b t y
  wingIssue i y [] [] (do
    let q ← rdM b
    illopIf (mapBad q || mapNdim q != 1 || mapFmt q != t.toNat) i
    let n ← shaped i (max 32 (typeBits t.toNat))
    let v ← rdV a
    let u ← unionOf [v.tag, q.lift]
    setMe fun x => { x with gathering := true }
    runInstances (fun m => do
      let e ← gatherEls q b.toNat m (crossIdx u q.lift m) (getEls (copyOf v u m).toNat 32 n)
      setV d fun w => setCopy w u m (BitVec.ofNat 4096 (putEls (copyOf w u m).toNat (typeBits t.toNat) (e.map (cleanEl t.toNat))))) (← instancesLeft u)
    setV d fun w => growReg w u
    markWings (activeOver (← me) u) false) s

end Sys2Proof.Machine
end

