-- ==== Sys2Proof/Machine/Matrix.lean ====
section
/-! DEFINITION. Matrix leases, matrix instructions and tile fetches
(R20, R24, R98 to R100, R157, R186 to R195, R203 to R205, R208, R209, R356 to R359, R363, R367, R368, R390, R395). -/

namespace Sys2Proof.Machine

/-- The position code of a front as seen from a wing (R23). -/
def frontCode (wing front : Nat) : Nat :=
  (front % 272 / 16 + 1 - wing % 272 / 16) * 3 + (front % 16 + 1 - wing % 16)

/-- Fronts that may bind a wing: those at most one site away on its die (R16). -/
def nearSites (site : Nat) : List Nat := (List.range 9).filterMap (codeSite site)

/-- NSHARE of a wing: the fronts whose bindings include it (R16). -/
def nshare (s : State) (site : Nat) : Nat := ((nearSites site).filter fun f => (members s f).contains site).length

/-- The wing is included in the bindings of two or more fronts (R24). -/
def isShared (s : State) (site : Nat) : Bool := decide (2 ≤ nshare s site)

/-- The context that a sender names holds the matrix lease of a wing. -/
def holdsLease (s : State) (f : Sender) (site : Nat) : Bool :=
  match (getWing s site).lease with
  | some l => decide (l.holder = f)
  | none => false

/-- A matrix instruction needs the lease of every shared wing it runs on (R24, R193); a lease with 64 instructions issued under it is over
once the last has completed (R194). -/
def needLease (sites : List Nat) : M Unit := do
  let s ← get
  let f ← meSender
  faultIf (sites.any fun t => isShared s t && !holdsLease s f t) cLEASE 0
  await_ (!(sites.any fun t => isShared s t && match (getWing s t).lease with
    | some l => decide (64 ≤ l.used)
    | none => false))

/-- A matrix instruction has run on these wings: their leases count it (R194, R195). -/
def countLease (sites : List Nat) : M Unit :=
  modify fun s => sites.foldl (fun s t => onWing s t fun w => { w with lease := w.lease.map fun l => { l with used := l.used + 1 } }) s

/-- The shared wings of the executing front, in ascending site order (R195). -/
def sharedWings : M (List Nat) := do
  let s ← get
  let site ← mySite
  return (List.range 1088).filter fun t => (members s site).contains t && isShared s t

/-- Take the leases of the wings in their order, waiting for each (R24, R194, R195). -/
def takeLeases (l : List Nat) : M Unit := do
  match l with
  | [] => return
  | t :: r =>
    let s ← get
    let f ← meSender
    if holdsLease s f t then takeLeases r
    else
      if (getWing s t).leaseWait.contains f then pure () else modify fun s => onWing s t fun w => { w with leaseWait := w.leaseWait ++ [f] }
      stall

/-- MLEASE, and the request that a restored context makes again (R193 to R195). -/
def leaseBody : M Unit := do
  let s ← get
  let f ← meSender
  let core := f.core
  let l ← sharedWings
  if l.isEmpty then return
  else
    await_ (!(s.wings.any fun p => match p.2.lease with
      | some l => l.holder.core == core && l.holder != f
      | none => false))
    takeLeases l

/-- MLEASE (R193, R356). -/
def execMlease (y : BitVec 3) (s : State) : Host.Outcome State Fault Refusal :=
  let i : Instr := .mlease y
  wingIssue i y [] [] (do
    let s ← get
    let f ← meSender
    let l ← sharedWings
    let again : Bool := (curCtx s).waiting == some .mlease || match (curCore s).twin with
      | some t => t.retrying
      | none => false
    illopIf (!l.isEmpty && l.all (holdsLease s f) && !again) i
    notSpec
    setMe fun x => { x with waiting := some .mlease }
    leaseBody) s

/-- MREL (R193, R357). -/
def execMrel (y : BitVec 3) (s : State) : Host.Outcome State Fault Refusal :=
  wingIssue (.mrel y) y [] [] (do
    notSpec
    let f ← meSender
    modify fun s => { s with wings := s.wings.map fun p => (p.1, { p.2 with lease := match p.2.lease with
      | some l => if l.holder = f then none else some l
      | none => none }) }) s

/-- The physical tile of a wing: the good half of each member supplies four accumulators of a composite (R20). -/
def tilePlace (s : State) (w : List Nat) (t : Nat) : Nat × Nat :=
  match w with
  | [a] => (a, t)
  | _ =>
    let site := w.getD (t / 4) 0
    (site, (if (getWing s site).health = .halfB then 4 else 0) + t % 4)

/-- One accumulator tile. -/
def getTile (s : State) (p : Nat × Nat) : Tile := vecGet (getWing s p.1).acc p.2 tileReset

/-- Replace one accumulator tile. -/
def putTile (s : State) (p : Nat × Nat) (t : Tile) : State := onWing s p.1 fun w => { w with acc := vecSet w.acc p.2 t }

/-- Elements from a function, in canonical form: an element of 0 is not listed. -/
def tileEls (f : Nat → W64) : SMap W64 := (List.range 1024).filterMap fun n => if f n = 0 then none else some (n, f n)

/-- How the four sub-arrays work on an M by N tile: none for a single one, else the row and column block of each (R186). -/
def arrangement (m n : Nat) : Option (Option (Nat → Nat × Nat)) :=
  if m = 32 ∧ n = 32 then some none
  else if m = 32 ∧ n = 128 then some (some fun s => (0, s))
  else if m = 64 ∧ n = 64 then some (some fun s => (s / 2, s % 2))
  else if m = 128 ∧ n = 32 then some (some fun s => (s, 0))
  else none

/-- The tiles that combination `m` of accumulator `ad` uses (R186, R203). -/
def accTiles (s : State) (site ad m : Nat) (fused : Bool) : List (Nat × Nat) :=
  let ws := wingsOf s site
  let w := ws.getD (m % ext1 ws.length) []
  if fused then (List.range 4).map fun k => tilePlace s w (2 * k + ad)
  else [tilePlace s w (2 * ((ad / 2 + m / ext1 ws.length) % 4) + ad % 2)]

/-- K of an operand format (R187); 0 for a format that no matrix operand has. -/
def kOf (f : Nat) : Nat :=
  if f = 0 || f = 5 || f = 6 then 128 else if f ≤ 4 || f = 7 || f = 8 then 64 else if 9 ≤ f && f ≤ 13 then 32 else 0

/-- The base address of instance `n` of an operand (R209). -/
def opBase (q : MapReg) (n : Nat) : W64 := toW ((capAddr (mapBase q).bits).toNat + n * mapLstr q)

/-- Bytes of one row of an operand (R188). -/
def rowBytes (f k : Nat) : Nat := k / 32 * blockBytes f

/-- The address of a row. -/
def rowAddr (q : MapReg) (base : W64) (r : Nat) : W64 := toW (base.toNat + r * mapStr q 1)

/-- An address lies in mesh space by its top bits. -/
def inMesh (a : W64) : Bool := bits a 63 60 == 0xC || bits a 63 60 == 0xD

/-- The format rules of R188 for one instance's base: the banks' formats in cell memory, no shelf in global memory. -/
def baseBad (s : State) (q : MapReg) (base : W64) (k : Nat) : Bool :=
  let f := mapFmt q
  let rb := rowBytes f k
  if inMesh base then
    f ≤ 4 && (List.range (mapExt q 1)).any fun r =>
      let a := rowAddr q base r
      bankFmt (curCore s) (bits a 19 16) != f || bankFmt (curCore s) (bits (a + natW (rb - 1)) 19 16) != f
  else bits base 63 60 != 0xE && 1 ≤ f && f ≤ 4

/-- The addresses of the shelf bytes of one row's blocks: of formats 1 to 4 in cell memory (R109, R188). -/
def shelfAddrs (q : MapReg) (a : W64) (k : Nat) : List W64 :=
  let f := mapFmt q
  if inMesh a && 1 ≤ f && f ≤ 4 then
    (List.range (k / 32)).map fun n =>
      let b := a + natW (n * blockBytes f)
      natW (b.toNat / 65536 * 65536 + 0xF000 + b.toNat % 65536 / blockBytes f)
  else []

/-- Steps 2 and 3 of R104 over the rows of an operand and their shelf bytes. -/
def rowBounds (q : MapReg) (base : W64) (k r n : Nat) : M Unit := do
  match n with
  | 0 => return
  | m + 1 =>
    let a := rowAddr q base r
    let _ ← orFault (checkBounds (mapBase q).bits a (rowBytes (mapFmt q) k) accCopySrc)
    (shelfAddrs q a k).forM fun b => do
      let _ ← orFault (checkBounds (mapBase q).bits b 1 accCopySrc)
    rowBounds q base k (r + 1) m

/-- The pieces of one row, of at most 16 bytes and within 16-byte blocks, with their places (R104, R188). -/
def rowPieces (q : MapReg) (reg : Nat) (a : W64) (n fuel : Nat) : M (List (Place × Nat)) := do
  match fuel with
  | 0 => return []
  | k + 1 =>
    if n = 0 then return []
    else
      let m := min n (16 - a.toNat % 16)
      let p ← access (mapBase q) reg a m accCopySrc
      let r ← rowPieces q reg (a + natW m) (n - m) k
      return (p.1, m) :: r

/-- The pieces of the rows from `r` on; the shelf bytes of each row are checked with it. -/
def allPieces (q : MapReg) (reg : Nat) (base : W64) (k r n : Nat) : M (List (List (Place × Nat))) := do
  match n with
  | 0 => return []
  | m + 1 =>
    let rb := rowBytes (mapFmt q) k
    let a := rowAddr q base r
    let p ← rowPieces q reg a rb (rb + 1)
    (shelfAddrs q a k).forM fun b => do
      let _ ← access (mapBase q) reg b 1 accCopySrc
    let t ← allPieces q reg base k (r + 1) m
    return p :: t

/-- The checks of R104 and R188 over every byte of an operand, and its pieces by rows. In cell memory the base is aligned within its bank,
where blocks are counted (R109, R170). In engine space every access but one of 8 bytes is misaligned (R104 step 4). -/
def checkOperand (q : MapReg) (reg : Nat) (base : W64) (k : Nat) : M (List (List (Place × Nat))) := do
  let f := mapFmt q
  faultIf (!q.capTag) cCAPT (natW reg)
  rowBounds q base k 0 (mapExt q 1)
  let at_ := if inMesh base then bits base 15 0 else base.toNat
  faultIf (at_ % blockBytes f != 0 || mapStr q 1 % (blockBytes f : Nat) != 0 || bits base 63 60 == 0xE) cALIGN base
  allPieces q reg base k 0 (mapExt q 1)

/-- A line that a tile fetch of the die is still fetching (R192). -/
def fetching (s : State) (die : Nat) (p : Place) : Bool :=
  match p with
  | .phys pa _ _ => s.cores.any fun c => dieOf c.1 == die && c.2.copies.any fun q => isFetch q && q.runs.any fun r => r.src.toNat / 128 == pa / 128
  | _ => false

/-- Read one piece of an operand, behind a tile fetch that is still bringing its line (R191, R192). -/
def readPiece (p : Place × Nat) : M (List Byte) := do
  let s ← get
  await_ (!fetching s (dieOf s.cur.core) p.1)
  loadShared p.1 p.2 false

/-- Read the pieces of an operand in order, each once (R122, R191): what each gave, the latest first, and whether all are read. A piece of `none` stands for
the scale of a block that has none. A pause, or a piece that must be waited for, leaves the rest for later. -/
def readList (l : List (Option (Place × Nat))) (acc : List (List Nat)) (count : Nat) : M (List (List Nat) × Bool) := do
  match l with
  | [] => return (acc, true)
  | none :: t => readList t ([0] :: acc) (count + 1)
  | some p :: t =>
    if ← pausesAt count then return (acc, false)
    else
      let b ← tryCatch (do return some (← readPiece p)) fun e => match e with
        | .stall => return none
        | e => throw e
      match b with
      | none => return (acc, false)
      | some b => readList t (b.map BitVec.toNat :: acc) (count + 1)

/-- The bytes that a piece gives. -/
def pieceSize (p : Option (Place × Nat)) : Nat := (p.map fun q => q.2).getD 1

/-- The pieces behind those that gave the first `n` bytes. -/
def piecesLeft (l : List (Option (Place × Nat))) (n : Nat) : List (Option (Place × Nat)) :=
  match l with
  | [] => []
  | p :: t => if n = 0 then p :: t else piecesLeft t (n - pieceSize p)

/-- Go on reading pieces of which some are read: all bytes so far, and whether those are all. -/
def readOn (l : List (Option (Place × Nat))) (done : List Nat) : M (List Nat × Bool) := do
  let rest := piecesLeft l done.length
  let r ← readList rest [] (l.length - rest.length)
  return (done ++ r.1.reverse.flatten, r.2)

/-- The bytes of an instance's pieces; those read before a stall are not read again (R191). -/
def instanceBytes (m : Nat) (l : List (Option (Place × Nat))) : M (List Nat) := do
  let r ← readOn l (← partOf m)
  if r.2 then return r.1
  else
    keepPart m r.1
    stall

/-- The values of one block: its scale stands in the block for E2M1X and on the shelf of its bank for formats 1 to 4 (R84 to R86, R109). An E2M1X block with
a NaN special counts as a NaN block whatever its codes (R98). -/
def blockVals (f : Nat) (l : List Byte) (x : Nat) : List FVal :=
  let p := ofBytes (if f = 0 then l.take 16 else l)
  if f = 0 && fdecode (fmtOf 3) (l.getD 17 0).toNat == .nan then List.replicate 32 .nan
  else (List.range 32).map fun j =>
    let c := unpackBits (typeBits f) p j
    if f = 0 then blockVal 0 c (l.getD 16 0).toNat (l.getD 17 0).toNat
    else if f ≤ 4 then blockVal f c x 0
    else elemVal f c

/-- The piece that holds the scale of block `n` of a row, none for formats and memories without a shelf; `a` is the place of the row's first byte. -/
def scalePiece (f : Nat) (a : Place) (n : Nat) : Option (Place × Nat) :=
  match a with
  | .cell c o =>
    let off := o + n * blockBytes f
    if 1 ≤ f && f ≤ 4 then some (.cell c (off / 65536 * 65536 + 0xF000 + off % 65536 / blockBytes f), 1) else none
  | _ => none

/-- The pieces of each row of an operand with the scales of its blocks behind them, one row after another. -/
def operandPieces (f k : Nat) (l : List (List (Place × Nat))) : List (Option (Place × Nat)) :=
  l.flatMap fun p => p.map some ++ (List.range (k / 32)).map (scalePiece f (p.headD (.engine 0, 0)).1)

/-- The values of one row of `k` elements. -/
def rowVals (f k : Nat) (l : List Nat) : List FVal :=
  (List.range (k / 32)).flatMap fun n =>
    blockVals f (((l.drop (n * blockBytes f)).take (blockBytes f)).map (BitVec.ofNat 8)) (l.getD (rowBytes f k + n) 0)

/-- The values of an operand of `n` rows. -/
def operandVals (f k n : Nat) (l : List Nat) : List (List FVal) :=
  let w := rowBytes f k + k / 32
  (List.range n).map fun r => rowVals f k ((l.drop (r * w)).take w)

/-- The exact sum of products of two rows (R98, R99). -/
def dot (a b : List FVal) : FVal :=
  match (a.zip b).map fun p => fmul p.1 p.2 with
  | [] => .fin false 0 0
  | p :: r => r.foldl fadd p

/-- The value scaled by 2^e. -/
def fscale (v : FVal) (e : Int) : FVal :=
  match v with
  | .fin n m k => .fin n m (k + e)
  | w => w

/-- The integers of the blocks of two rows in K64 mode, added, and whether a block holds a NaN (R98). -/
def k64Sum (e : Int) (a b : List FVal) (fuel : Nat) : Int × Bool :=
  match fuel with
  | 0 => (0, false)
  | n + 1 =>
    let s := dot (a.take 32) (b.take 32)
    let r := k64Sum e (a.drop 32) (b.drop 32) n
    if s = .nan then (r.1, true) else (rneInt (fscale s (-e)) + r.1, r.2)

/-- One element of an accumulator tile after an MMA or MMAS: its bits, OV and NV (R98, R99). -/
def accElem (k64 : Bool) (e : Int) (a b : List FVal) (old : W64) : W64 × Bool × Bool :=
  if k64 then
    let q := k64Sum e a b (a.length / 32)
    let r := k64Add old.toInt q.1
    (toW r.1, r.2, q.2)
  else
    let r := f64Add old.toNat (dot a b)
    (natW r.1, false, r.2)

/-- One 32 by 32 tile after an MMA or MMAS on its rows of A and B (R186, R189). -/
def accTile (k64 : Bool) (e : Int) (ra rb : List (List FVal)) (t : Tile) : Tile :=
  let res := (List.range 1024).map fun n => accElem k64 e (ra.getD (n / 32) []) (rb.getD (n % 32) []) (mapGetD t.els n 0)
  { t with
    els := tileEls fun n => (res.getD n (0, false, false)).1
    ov := t.ov || res.any fun r => r.2.1
    nv := t.nv || res.any fun r => r.2.2 }

/-- The tiles of one instance after an MMA or MMAS. -/
def accBlock (k64 : Bool) (e : Int) (fused : Option (Nat → Nat × Nat)) (ra rb : List (List FVal)) (l : List Tile) : List Tile :=
  (List.range l.length).map fun k =>
    let p := match fused with
      | some f => f k
      | none => (0, 0)
    accTile k64 e ((ra.drop (32 * p.1)).take 32) ((rb.drop (32 * p.2)).take 32) (l.getD k tileReset)

/-- Set the lift tag of an accumulator register: on member 0's tile, and on all four of a fused one (R199, R203). -/
def setAccTag (site ad : Nat) (fused : Bool) (u : LiftTag) : M Unit :=
  modify fun s =>
    let w := (wingsOf s site).getD 0 []
    let l := if fused then (List.range 4).map fun k => tilePlace s w (2 * k + ad) else [tilePlace s w ad]
    l.foldl (fun s p => putTile s p { getTile s p with tag := u }) s

/-- Write the tiles of one instance; as registers of their own they are untagged (R203). -/
def putTiles (l : List (Nat × Nat)) (t : List Tile) : M Unit :=
  modify fun s => (l.zip t).foldl (fun s p => putTile s p.1 { p.2 with tag := tagNone }) s

/-- The checks of R186 to R189 that need no address; the arrangement and K. -/
def matrixForm (i : Instr) (ok : Nat → Bool) (ad : Nat) (a b : MapReg) : M (Option (Nat → Nat × Nat) × Nat) := do
  illopIf (mapBad a || mapBad b || mapNdim a != 2 || mapNdim b != 2 || !ok (mapFmt a) || !ok (mapFmt b)) i
  let k := min (kOf (mapFmt a)) (kOf (mapFmt b))
  illopIf (mapExt a 0 != k || mapExt b 0 != k) i
  match arrangement (mapExt a 1) (mapExt b 1) with
  | none => illop i
  | some f =>
    illopIf (f.isSome && decide (2 ≤ ad)) i
    return (f, k)

/-- A matrix instruction of another context is under way on the front, or one of another front that has bound a wing of `sites` (R191). -/
def matrixBusy (s : State) (sites : List Nat) : Bool :=
  s.cores.any fun c => c.2.ctxs.any fun p => p.2.doing.isSome &&
    if c.1 = s.cur.core then p.1 != s.cur.cx else (members s (siteOf s c.1)).any sites.contains

/-- A matrix instruction on the wings of `sites` waits while an earlier one is under way: a sub-array works on them in the order of their dispatch (R191). -/
def matrixTurn (sites : List Nat) : M Unit := do await_ (!matrixBusy (← get) sites)

/-- The work of MMA or MMAS over `u`, on an accumulator of tag `tag` with these tiles: as it stood when the instruction stalled or faulted part-way, else
from the start. An untagged accumulator that a widened one adds to is read now, and so are the copies of one with other levels than `u`; copies over `u`
are read by their instances (R199, R204, R209). -/
def startWork (u tag : LiftTag) (tiles : Nat → List (Nat × Nat)) : M MatWork := do
  let s ← get
  let x ← me
  let copies := if tag == u then [] else (List.range (tagCount tag)).map fun c => (c, (tiles c).map (getTile s))
  let w := match x.doing, (if x.resuming = 0 then none else x.kept) with
    | some w, _ => w
    | none, some w => w
    | none, none => { lift := tag, tiles := copies, b := [], whole := false, done := [] }
  setMe fun x => { x with doing := some w }
  return w

/-- What an instance of MMA or MMAS adds to (R199, R203, R209): what an earlier instance of the instruction left in the same tiles, the untagged accumulator
as it was read, or its copy as it stands, which an earlier instance may have written since it was read. -/
def baseTiles (s : State) (tiles : Nat → List (Nat × Nat)) (u : LiftTag) (w : MatWork) (n : Nat) : List Tile :=
  let c := crossIdx u w.lift n
  let written := fun t : List (Nat × Nat) => w.done.any fun m => tiles m == t
  if written (tiles n) then (tiles n).map (getTile s)
  else if w.lift != u && (w.lift == tagNone || written (tiles c)) then mapGetD w.tiles c []
  else (tiles c).map (getTile s)

/-- Read the untagged B of a widened instruction, once, before its first instance `m` (R204). -/
def readOnce (w : MatWork) (m : Nat) (l : List (Option (Place × Nat))) : M MatWork := do
  let r ← readOn l w.b
  let w := { w with b := r.1, whole := r.2 }
  setMe fun x => { x with doing := some w }
  if w.whole then return w
  else
    keepPart m []
    stall

/-- MMA and MMAS (R98, R99, R186 to R191, R203 to R205, R209, R358, R359). -/
def matrixBody (i : Instr) (k64 : Bool) (e : Int) (ok : Nat → Bool) (ad : Nat) (ma mb : BitVec 4) : M Unit := do
  let a ← rdM ma
  let b ← rdM mb
  let form ← matrixForm i ok ad a b
  let fused := form.1.isSome
  let s ← get
  let x ← me
  let site ← mySite
  let acc := getTile s ((accTiles s site ad 0 false).headD (site, ad))
  let tags := [acc.tag, a.lift, b.lift]
  let bad := (tagFault x.lframe tags).isSome
  let u := tagUnion tags
  let l := if bad then [] else activeOver x u
  let g := ext1 (wingsOf s site).length
  let insts := if bad then [(0, 0)] else l.map fun n => (crossIdx u a.lift n, crossIdx u b.lift n)
  let sites := ((if bad then [0] else l).flatMap fun m => instSites s site m).eraseDups
  -- one that is under way has passed its checks
  if x.doing.isNone then
    illopIf (decide ((if fused then g else 4 * g) < l.length)) i
    illopIf (insts.any fun p => baseBad s a (opBase a p.1) form.2 || baseBad s b (opBase b p.2) form.2) i
    needLease sites
    let _ ← unionOf tags
    notSpec
    wingWrite
    matrixTurn sites
  else pure ()
  let shared_ := b.lift == tagNone && u != tagNone && !l.isEmpty
  let left ← instancesLeft u
  let tiles := fun n : Nat => accTiles s site ad n fused
  let work ← startWork u acc.tag tiles
  let early ← (if shared_ && !work.whole then do
      let p ← checkOperand b mb.toNat (opBase b 0) form.2
      readOnce work (left.headD 0) (operandPieces (mapFmt b) form.2 p)
    else pure work : M MatWork)
  tryCatch (runInstances (fun n => do
    let pa ← checkOperand a ma.toNat (opBase a (crossIdx u a.lift n)) form.2
    let pb ← (if shared_ then pure [] else checkOperand b mb.toNat (opBase b (crossIdx u b.lift n)) form.2 : M _)
    let la := operandPieces (mapFmt a) form.2 pa
    let raw ← instanceBytes n (la ++ operandPieces (mapFmt b) form.2 pb)
    let size := (la.map pieceSize).sum
    let va := operandVals (mapFmt a) form.2 (mapExt a 1) (raw.take size)
    let vb := operandVals (mapFmt b) form.2 (mapExt b 1) (if shared_ then early.b else raw.drop size)
    let now := ((← me).doing).getD early
    putTiles (tiles n) (accBlock k64 e form.1 va vb (baseTiles (← get) tiles u now n))
    setAccTag site ad fused u
    setMe fun x => { x with doing := some { now with done := now.done ++ [n] } }) left) fun t => do
      match t with
      | .trap _ => setMe fun x => { x with kept := match x.doing with
        | some w => if w.done.isEmpty then x.kept else some w
        | none => x.kept }
      | _ => pure ()
      throw t
  setAccTag site ad fused u
  countLease sites
  markWings l true

/-- MMA (R189, R358). -/
def execMma (d : BitVec 3) (a b : BitVec 4) (y : BitVec 3) (s : State) : Host.Outcome State Fault Refusal :=
  let i : Instr := .mma d a b y
  wingIssue i y [] [] (matrixBody i false 0 (fun f => f = 4 || (9 ≤ f && f ≤ 13)) d.toNat a b) s

/-- MMAS (R189, R359). -/
def execMmas (d : BitVec 3) (ehi : BitVec 2) (a b : BitVec 4) (elo : BitVec 7) (y : BitVec 3) (s : State) : Host.Outcome State Fault Refusal :=
  let i : Instr := .mmas d ehi a b elo y
  wingIssue i y [] [] (matrixBody i true (sxInt (ehi.toNat * 128 + elo.toNat) 9) (fun f => f ≤ 3 || (5 ≤ f && f ≤ 8)) d.toNat a b) s

/-- MZERO (R190, R208, R368). -/
def execMzero (d y : BitVec 3) (s : State) : Host.Outcome State Fault Refusal :=
  wingIssue (.mzero d y) y [] [] (do
    let s ← get
    let site ← mySite
    let p := (accTiles s site d.toNat 0 false).headD (site, d.toNat)
    let sites := instSites s site 0
    needLease sites
    notSpec
    wingWrite
    matrixTurn sites
    modify fun s => putTile s p tileReset
    countLease sites
    markWings [0] true) s

/-- The control word of MRDA and MWRA (R208). -/
structure AccCtl where
  exp : Int
  clr : Bool
  flg : Bool
  rnd : Rnd
  f64 : Bool
  row0 : Nat
deriving DecidableEq, Repr, Inhabited

/-- Read the control word, with the ILLOP cases of R208. -/
def accCtl (i : Instr) (w : W64) (t : Nat) : M AccCtl := do
  let _ ← shaped i (typeBits t)
  let x ← me
  illopIf (bits w 63 25 != 0 || bits w 15 12 != 0 || bits w 7 6 != 0 || bits w 9 8 == 3 || decide (32 < bits w 4 0 + shapeRows x) ||
    decide (32 < shapeCols x)) i
  return ⟨sxInt (bits w 24 16) 9, bitAt w 11, bitAt w 10, rndOf (bits w 9 8), bitAt w 5, bits w 4 0⟩

/-- The value that MRDA reads at flat position `l` of the shape (R208). -/
def mrdaVal (c : AccCtl) (t : Tile) (cols l : Nat) : FVal :=
  if c.flg then ofInt (if l = 0 then (if t.ov then 1 else 0) + (if t.nv then 2 else 0) else 0)
  else
    let w := mapGetD t.els ((c.row0 + l / cols) * 32 + l % cols) 0
    if c.f64 then fdecode (fmtOf 13) w.toNat else fscale (ofInt w.toInt) c.exp

/-- The sites and combinations of an accumulator instruction over one tag: ILLOP for more combinations than the members hold tiles (R203), then
its LEASE check, which comes before AXOVF (R363). -/
def accOver (i : Instr) (tag : LiftTag) : M (List Nat × List Nat) := do
  let s ← get
  let x ← me
  let site ← mySite
  let bad := (tagFault x.lframe [tag]).isSome
  let l := if bad then [0] else activeOver x tag
  illopIf (decide (4 * ext1 (wingsOf s site).length < l.length)) i
  let sites := (l.flatMap fun m => instSites s site m).eraseDups
  needLease sites
  let _ ← unionOf [tag]
  return (l, sites)

/-- One instance of MRDA. -/
def mrdaStep (c : AccCtl) (t : Nat) (n cols : Nat) (d : BitVec 4) (u : LiftTag) (p : Nat × Nat) (m : Nat) : M Unit := do
  let tile := getTile (← get) p
  setMe fun x =>
    let r := mapRng (fun l r => encType t c.rnd r (mrdaVal c tile cols l)) (List.range n) x.rngs
    let v := vecGet x.v d.toNat vregReset
    { x with rngs := r.2, v := vecSet x.v d.toNat (setCopy v u m (BitVec.ofNat 4096 (putEls (copyOf v u m).toNat (typeBits t) r.1))) }
  if c.clr then modify fun s => putTile s p { tile with ov := false, nv := false } else pure ()

/-- MRDA (R208, R363). -/
def execMrda (d : BitVec 4) (a : BitVec 3) (b t : BitVec 5) (y : BitVec 3) (s : State) : Host.Outcome State Fault Refusal :=
  let i : Instr := .mrda d a b t y
  wingIssue i y [b] [] (do
    let c ← accCtl i (← rd b) t.toNat
    let s ← get
    let x ← me
    let site ← mySite
    let u := (getTile s ((accTiles s site a.toNat 0 false).headD (site, a.toNat))).tag
    let o ← accOver i u
    notSpec
    if c.clr then wingWrite else pure ()
    matrixTurn o.2
    o.1.forM fun m => mrdaStep c t.toNat (shapeRows x * shapeCols x) (shapeCols x) d u
      ((accTiles s site a.toNat m false).headD (site, a.toNat)) m
    setV d fun v => growReg v u
    countLease o.2
    markWings o.1 true) s

/-- One element that MWRA converts: its bits, OV, NV and RNGS (R367). -/
def mwraVal (c : AccCtl) (t code : Nat) (r : BitVec 32) : (W64 × Bool × Bool) × BitVec 32 :=
  let v := elemVal t code
  if c.f64 then
    let p := fenc (fmtOf 13) c.rnd r v
    ((natW p.1, false, v = .nan), p.2)
  else
    let p := toInt c.rnd r (fscale v (-c.exp)) (2 ^ 64)
    let q := satSigned 64 p.1
    ((toW q.1, q.2, v = .nan), p.2)

/-- The elements that MWRA converts, in ascending order. -/
def mwraVals (c : AccCtl) (t : Nat) (l : List Nat) (r : BitVec 32) : List (W64 × Bool × Bool) × BitVec 32 :=
  match l with
  | [] => ([], r)
  | e :: rest =>
    let p := mwraVal c t e r
    let q := mwraVals c t rest p.2
    (p.1 :: q.1, q.2)

/-- A tile after MWRA: CLR first, then the flags or the data (R367). -/
def mwraTile (c : AccCtl) (cols : Nat) (tile : Tile) (first : Nat) (l : List (W64 × Bool × Bool)) : Tile :=
  let t := if c.clr then { tile with ov := false, nv := false } else tile
  if c.flg then { t with ov := first % 2 == 1, nv := first / 2 % 2 == 1 }
  else
    let at_ := fun n : Nat =>
      let i := n / 32
      let j := n % 32
      if c.row0 ≤ i && j < cols && (i - c.row0) * cols + j < l.length then (l.getD ((i - c.row0) * cols + j) (0, false, false)).1 else mapGetD t.els n 0
    { t with
      els := tileEls at_
      ov := t.ov || l.any fun r => r.2.1
      nv := t.nv || l.any fun r => r.2.2 }

/-- One instance of MWRA. -/
def mwraStep (c : AccCtl) (t : Nat) (n cols : Nat) (v : VReg) (u : LiftTag) (p : Nat × Nat) (m : Nat) : M Unit := do
  let els := getEls (copyOf v u m).toNat (typeBits t) n
  let r := mwraVals c t els (← me).rngs
  if c.flg then pure () else setMe fun x => { x with rngs := r.2 }
  modify fun s => putTile s p { mwraTile c cols (getTile s p) (els.headD 0) r.1 with tag := tagNone }

/-- MWRA (R367). -/
def execMwra (d : BitVec 3) (a : BitVec 4) (b t : BitVec 5) (y : BitVec 3) (s : State) : Host.Outcome State Fault Refusal :=
  let i : Instr := .mwra d a b t y
  wingIssue i y [b] [] (do
    let c ← accCtl i (← rd b) t.toNat
    let s ← get
    let x ← me
    let site ← mySite
    let v ← rdV a
    let o ← accOver i v.tag
    notSpec
    wingWrite
    matrixTurn o.2
    o.1.forM fun m => mwraStep c t.toNat (shapeRows x * shapeCols x) (shapeCols x) v v.tag
      ((accTiles s site d.toNat m false).headD (site, d.toNat)) m
    setAccTag site d.toNat false v.tag
    countLease o.2
    markWings o.1 true) s

/-- The L2 set of a line on a die (R118). -/
def l2SetOf (line : Nat) : Nat × Nat := (homeSlice (line * 128), Config.l2Set line)

/-- The lines of a fetch that are pinned: those whose set holds fewer than eight pinned ways when their turn comes (R192). -/
def pinLines (held : List Nat) (l acc : List Nat) : List Nat :=
  match l with
  | [] => acc
  | n :: r =>
    if held.contains n then pinLines held r (setAdd acc n)
    else if (held.filter fun h => l2SetOf h == l2SetOf n).length < 8 then pinLines (n :: held) r (setAdd acc n)
    else pinLines held r acc

/-- The lines that the pieces of an operand touch, ascending, with key and caching of their pages. Ascending address order is that of the physical line
numbers (DESIGN CHOICE, log 81: R192 does not say whether physical or virtual addresses count). -/
def pieceLines (l : List (List (Place × Nat))) : SMap (Nat × Bool) :=
  l.foldl (fun m r => r.foldl (fun m p => match p.1 with
    | .phys pa uc key => mapSet m (pa / 128) (key, uc)
    | _ => m) m) []

/-- The lines of every active instance's tile, by instance (R192, R390). -/
def fetchLines (q : MapReg) (reg k : Nat) (l : List Nat) : M (List (SMap (Nat × Bool))) := do
  match l with
  | [] => return []
  | n :: r =>
    let p ← checkOperand q reg (opBase q n) k
    let t ← fetchLines q reg k r
    return pieceLines p :: t

/-- The K that a fetched tile may have: that of its own format, or 64 beside a wider operand of MMAS (R187, R192). -/
def fetchK (q : MapReg) : Bool :=
  let k := kOf (mapFmt q)
  mapExt q 0 == k || k == 128 && mapExt q 0 == 64

/-- A fetch on its way: one run for each line, with the key and caching of its page. -/
def newFetch (c : Core) (f : Sender) (tok slot : Nat) (runs : List Run) : Copy :=
  { id := c.nextCopy, src := f, tok := tok, kind := .tfetch slot, all := runs, runs := runs, flying := [], srcFmts := [], dstFmts := [],
    failed := [], scaled := false, queue := (c.launch.map (·.queue)).getD 0, begun := false, fault := none, err := none }

/-- TFETCH (R192, R390). The pins of a composite are held by the wing of its first half (DESIGN CHOICE, log 82: R20 lists lanes, sub-arrays and accumulators
alone). -/
def execTfetch (slot : BitVec 3) (m : BitVec 4) (k y : BitVec 3) (s : State) : Host.Outcome State Fault Refusal :=
  let i : Instr := .tfetch slot m k y
  wingIssue i y [] [] (do
    let q ← rdM m
    illopIf (mapBad q || mapNdim q != 2 || kOf (mapFmt q) == 0 || (1 ≤ mapFmt q && mapFmt q ≤ 4) || !fetchK q ||
      !(mapExt q 1 == 32 || mapExt q 1 == 64 || mapExt q 1 == 128) || bits (capAddr (mapBase q).bits) 63 60 != 0) i
    let s ← get
    let site ← mySite
    let sites := instSites s site 0
    needLease sites
    let u ← unionOf [q.lift]
    notSpec
    let x ← me
    await_ (decide ((vecGet x.k k.toNat tokenReset).count < 255))
    let l ← fetchLines q m.toNat (mapExt q 0) (activeOver x u)
    wingWrite
    pushRelease true
    let w := sites.headD site
    let lines := l.flatMap fun p => p.map (·.1)
    let die := dieOf s.cur.core
    modify fun s => onWing s w fun g => { g with pins := mapErase g.pins slot.toNat }
    modify fun s => onWing s w fun g => { g with pins := mapSet g.pins slot.toNat (pinLines (pinnedLines s die) lines []) }
    let f ← meSender
    let all := l.foldl (fun m p => p.foldl (fun m e => mapSet m e.1 e.2) m) []
    let runs : List Run := all.map fun e => ⟨natW (e.1 * 128), 0, e.2.1, 128, if e.2.2 then 1 else 0⟩
    setMe fun x => tokenAdd x k.toNat
    setCore fun c => { c with nextCopy := c.nextCopy + 1, copies := c.copies ++ [newFetch c f k.toNat slot.toNat runs] }
    if runs.isEmpty then modify fun s => finishCopies s s.cur.core else pure ()
    countLease sites
    markWings [0] true) s

/-- TUNPIN (R192, R395). -/
def execTunpin (slot y : BitVec 3) (s : State) : Host.Outcome State Fault Refusal :=
  wingIssue (.tunpin slot y) y [] [] (do
    let s ← get
    let site ← mySite
    let sites := instSites s site 0
    needLease sites
    notSpec
    wingWrite
    modify fun s => onWing s (sites.headD site) fun g => { g with pins := mapErase g.pins slot.toNat }
    countLease sites
    markWings [0] true) s

end Sys2Proof.Machine
end

