-- ==== Sys2Proof/Machine/System.lean ====
section
/-! DEFINITION. System registers, BIND, the translation caches' invalidation, and pairing two cores
(R16 to R19, R57, R58, R113, R255, R256, R296, R327, R328, R391, R396). -/

namespace Sys2Proof.Machine

/-- The mask of the tokens for which a condition holds, from bit `at_` on. -/
def tokenMask (x : Ctx) (at_ : Nat) (f : Token → Bool) : Nat :=
  (List.range 8).foldl (fun a k => if f (vecGet x.k k tokenReset) then a + 2 ^ (at_ + k) else a) 0

/-- KSTAT (R57, R166). -/
def kstat (x : Ctx) : W64 := natW (tokenMask x 0 (fun t => t.count == 0) + tokenMask x 8 fun t => t.err)

/-- BIND of a front as it reads (R16): NSHARE counts the fronts whose bindings include MEM0's wing. -/
def bindWord (s : State) (site : Nat) : W64 :=
  let b := (getFront s site).bind
  natW (b.toNat % 2 ^ 24 + nshare s ((members s site).headD site) % 8 * 2 ^ 24)

/-- The current state of a cluster: the lower-clocked of its requested and its imposed state, or the state of a thermal hold (R25, R271). -/
def stateOf (k : Cluster) : BitVec 3 := BitVec.ofNat 3 (max k.request.toNat (max k.imposed.toNat k.hold.toNat))

/-- A cluster heads for its state (R271, R272). -/
def retarget (k : Cluster) : Cluster := { k with target := if stateOf k = k.current then none else some (stateOf k) }

/-- A system register of R57 as the executing context reads it. -/
def sysRead (s : State) (n : Nat) : W64 :=
  let k := curCore s
  let x := curCtx s
  let v := viewCore s s.cur.core
  let site := siteOf s s.cur.core
  let cl := getCluster s (clusterOf site)
  match n with
  | 0x00 => natW (coreNum s v)
  | 0x01 => natW (coreY v * 32 + coreX v)
  | 0x02 => natW (siteLoc site)
  | 0x03 => k.launchId.setWidth 64
  | 0x04 => k.instar.setWidth 64
  | 0x05 => k.stages.setWidth 64
  | 0x06 => x.shape.setWidth 64
  | 0x07 => x.lmask
  | 0x08 => natW x.ldepth
  | 0x09 => natW (frameWord x.lframe)
  | 0x0A => bindWord s site
  | 0x0B => s.mg.time
  | 0x0C => x.tstamp.setWidth 64
  | 0x0D => natW (horizon k)
  | 0x0E => x.rngs.setWidth 64
  | 0x0F => kstat x
  | 0x10 => boolW x.chksb
  | 0x11 => x.trapcause
  | 0x12 => x.trappc
  | 0x13 => x.trapval
  | 0x14 => x.trapvec
  | 0x15 => natW (k.twinPartner * 2 ^ 32 + k.twinState.toNat)
  | 0x16 => x.energy
  | 0x17 => natW (cl.request.toNat + (stateOf cl).toNat * 2 ^ 8)
  | 0x18 => s.mg.capPeak.setWidth 64
  | 0x19 => s.mg.capAvg.setWidth 64
  | _ => natW (bankFmt k (n % 16))

/-- Registers whose reads are inputs of a twinned pair (R256). -/
def sysInput (n : Nat) : Bool := n == 0x02 || n == 0x0B || n == 0x0D || n == 0x0F || n == 0x16

/-- CSRR (R327). -/
def execCsrr (d : BitVec 5) (i : BitVec 10) (y : BitVec 3) (s : State) : Host.Outcome State Fault Refusal :=
  issue (.csrr d i y) (cyc y) [] [d] false (do
    let v := sysRead (← get) i.toNat
    wrLate d 2 (← (if sysInput i.toNat then inputW v else pure v))) s

/-- The reason of R17 for which a binding is refused, or none. -/
def bindReason (s : State) (c cx : Nat) (v : W64) : Option Nat :=
  let site := siteOf s c
  let k := getCore s c
  let used := modeMembers (bits v 2 0)
  let l := bindSites site v
  let num := coreNum s c
  if 4 ≤ bits v 2 0 then some 1
  else if l.length < used then some 2
  else if l.eraseDups.length < used then some 3
  else if l.any (fun t =>
      let h := (getWing s t).health
      if bits v 2 0 = 1 then !(h == .halfA || h == .halfB) else h != .whole) then some 4
  else if l.any (fun t => decide (4 < ((nearSites t).filter fun f => f != site && (members s f).contains t).length + 1)) then some 5
  else if cx != 0 then some 6
  else if s.wings.any (fun p => match p.2.lease with
        | some q => q.holder.core == num
        | none => false) ||
      k.ctxs.any (fun p => p.2.ldepth != 0) || s.saved.any (fun q => q.cores.any fun r => r.number = num && !r.core.ops.isEmpty) then some 7
  else if k.twin.isSome then some 8
  else none

/-- BIND, and CSRW to BIND (R17, R18, R296): dispatch stops, the wing operations under way complete, then the table of R17 decides. -/
def bindBody (v : W64) : M Unit := do
  notSpec
  let cx := (← get).cur.cx
  setCore fun k => { k with bindDrain := setAdd k.bindDrain cx }
  let k ← myCore
  await_ (k.marks.isEmpty && k.ops.isEmpty && !(k.ctxs.any fun p => dispatchedOp p.2))
  setCore fun k => { k with bindDrain := setDel k.bindDrain cx }
  let s ← get
  match bindReason s s.cur.core s.cur.cx v with
  | some r => fault cBINDF (natW r)
  | none =>
    let site := siteOf s s.cur.core
    modify fun s => putFront s site { getFront s site with bind := natW (bits v 23 8 * 2 ^ 8 + bits v 2 0) }

/-- BIND (R296). -/
def execBind (a : BitVec 5) (y : BitVec 3) (s : State) : Host.Outcome State Fault Refusal :=
  issue (.bind a y) (cyc y) [a] [] false (do bindBody (← rd a)) s

/-- A request for a performance state (R271); 6 and 7 are ignored. -/
def requestState (s : State) (cl : Nat) (v : W64) : State :=
  if bits v 2 0 ≤ 5 then putCluster s cl (retarget { getCluster s cl with request := BitVec.ofNat 3 (bits v 2 0) }) else s

/-- A cap as it is stored (R58). -/
def clampCap (v : W64) : BitVec 11 := BitVec.ofNat 11 (max 350 (min 1000 (bits v 10 0)))

/-- LMASK after a write (R197). -/
def maskWrite (x : Ctx) (v : W64) : W64 := if x.ldepth = 0 then v else natW (v.toNat % 2 ^ tagCount x.lframe)

/-- The effect of CSRW on any register but BIND (R57, R58, R328). -/
def sysWrite (n : Nat) (v : W64) : M Unit := do
  let s ← get
  match n with
  | 0x06 => setMe fun x => { x with shape := v.setWidth 10 }
  | 0x07 => setMe fun x => { x with lmask := maskWrite x v }
  | 0x0E => setMe fun x => { x with rngs := if v.setWidth 32 = (0 : BitVec 32) then 1 else v.setWidth 32 }
  | 0x10 => setMe fun x => { x with chksb := bitAt v 0 }
  | 0x11 => setMe fun x => { x with trapcause := natW (bits v 9 0) }
  | 0x12 => setMe fun x => if x.handler then { x with trappc := v, resume := 0, kept := none } else { x with trappc := v }
  | 0x13 => setMe fun x => { x with trapval := v }
  | 0x14 => setMe fun x => { x with trapvec := natW (v.toNat / 2 * 2) }
  | 0x17 => if s.mg.mgcfg then modify fun s => requestState s (clusterOf (siteOf s s.cur.core)) v else pure ()
  | 0x18 => if s.mg.mgcfg then modify fun s => { s with mg := { s.mg with capPeak := clampCap v } } else pure ()
  | 0x19 => if s.mg.mgcfg then modify fun s => { s with mg := { s.mg with capAvg := clampCap v } } else pure ()
  | _ =>
    if 0x20 ≤ n ∧ bits v 3 0 ≠ 14 then
      setCore fun k => { k with bfmt := if bits v 3 0 = 15 then mapErase k.bfmt (n % 16) else mapSet k.bfmt (n % 16) (bits v 3 0) }
    else pure ()

/-- CSRW (R328). -/
def execCsrw (a : BitVec 5) (i : BitVec 10) (y : BitVec 3) (s : State) : Host.Outcome State Fault Refusal :=
  issue (.csrw a i y) (cyc y) [a] [] false (do
    let v ← rd a
    if i.toNat = 0x0A then bindBody v else sysWrite i.toNat v) s

/-- A buffered event that has been translated to a physical address. -/
def kindPhys (b : BufKind) : Bool := (storePlaces b).any fun p => match p.1 with
  | .phys _ _ _ => true
  | _ => false

/-- A held effect that has been translated to a physical address. -/
def heldPhys (e : Effect) : Bool :=
  match e with
  | .buf b _ => kindPhys b
  | .red _ => true
  | _ => false

/-- A context holds an access that was translated by an entry that `drop` selects: an effect of its speculative task, or, when its address space is `mine`, a
store of an STV that it has not placed yet (R44, R113). -/
def ctxVia (drop : TlbEntry → Bool) (mine : Bool) (x : Ctx) : Bool :=
  (x.status == .task && match x.task with
    | some t => t.held.any heldPhys && t.used.any drop
    | none => false) ||
  mine && match x.waiting with
  | some (.stores l _) => l.any fun e => kindPhys e.2.2
  | _ => false

/-- A core holds an access that was translated by a dropped entry: in a context, or, when its address space is one of those dropped, in what its pair holds or
has yet to release (R113, R256, R258). -/
def coreVia (asid : Option Nat) (drop : TlbEntry → Bool) (k : Core) : Bool :=
  let mine := asid.all fun q => k.launch.any fun l => l.queue = q
  k.ctxs.any (fun p => ctxVia drop mine p.2) || mine && match k.twin with
    | some t => t.held.any heldPhys || t.released.any heldPhys
    | none => false

/-- Some core, or one of a saved launch, holds an access that was translated by an entry which a TLBI drops: one of address space `asid`, or of any (R113). -/
def heldVia (s : State) (asid : Option Nat) (drop : TlbEntry → Bool) : Bool :=
  s.cores.any (fun c => coreVia asid drop c.2) || s.saved.any fun v => v.cores.any fun k =>
    coreVia asid drop k.core || (asid.all fun q => k.core.launch.any fun l => l.queue = q) && k.core.buf.any fun e => kindPhys e.kind

/-- What a TLBI that starts now must see completed (R113). -/
def tlbiWait (s : State) : Wait :=
  .tlbi (s.cores.map fun c => (c.1, c.2.left + c.2.buf.length)) s.nextRed
    ((s.cores.map fun c => (2 * c.1, c.2.nextPiece)) ++ s.cores.map fun c => (2 * c.1 + 1, c.2.nextCopy))

/-- The accesses that a TLBI waits for have completed (R113). -/
def tlbiDone (s : State) (left : SMap Nat) (reds : Nat) (pieces : SMap Nat) : Bool :=
  s.cores.all fun c =>
    decide (mapGetD left c.1 0 ≤ c.2.left) &&
    (!(s.reds.any fun r => decide (r.id < reds))) &&
    (c.2.copies.all fun q =>
      (q.flying.all fun p => p.done || p.place.isNone || !decide (p.ord < mapGetD (pieces.filter fun e => e.1 = 2 * c.1) (2 * c.1) 0)) &&
      !(isFetch q && decide (q.id < mapGetD (pieces.filter fun e => e.1 = 2 * c.1 + 1) (2 * c.1 + 1) 0)))

/-- TLBI (R113, R391): when its own earlier stores are visible, so that every walk from then on reads them, the entries go; it completes when the accesses
that used them have. The entries are of address space `asid`, or of any. In a twinned pair the primary performs it after a checkpoint. -/
def tlbiBody (asid : Option Nat) (drop : TlbEntry → Bool) : M Unit := do
  notSpec
  twinBoundary
  let _ ← shared (do
    match (← me).waiting with
    | some (.tlbi left reds pieces) =>
      let s ← get
      await_ (tlbiDone s left reds pieces && !heldVia s asid drop)
      modify fun s => dropEntries s drop
      return 0
    | _ =>
      drainOwn
      releaseAt (← meSender) (bufNext (← myCore)) (← myDie) 2
      modify fun s => dropEntries s drop
      let s ← get
      setMe fun x => { x with waiting := some (tlbiWait s) }
      stall)

/-- TLBI.all (R391). -/
def execTlbiAll (y : BitVec 3) (s : State) : Host.Outcome State Fault Refusal :=
  issue (.tlbiAll y) (cyc y) [] [] false (tlbiBody none fun _ => true) s

/-- TLBI.as (R391). -/
def execTlbiAs (a : BitVec 5) (y : BitVec 3) (s : State) : Host.Outcome State Fault Refusal :=
  let i : Instr := .tlbiAs a y
  issue i (cyc y) [a] [] false (do
    let v ← rd a
    illopIf (bits v 63 4 != 0) i
    tlbiBody (some v.toNat) fun e => e.asid = v.toNat) s

/-- TLBI.va (R391). -/
def execTlbiVa (a b : BitVec 5) (y : BitVec 3) (s : State) : Host.Outcome State Fault Refusal :=
  let i : Instr := .tlbiVa a b y
  issue i (cyc y) [a, b] [] false (do
    let v ← rd a
    let q ← rd b
    illopIf (bits q 63 4 != 0 || bits v 63 48 != 0) i
    tlbiBody (some q.toNat) fun e => covers e q.toNat v.toNat) s

/-- The status of TWIN (R255): the first condition of its table that holds. -/
def twinStatus (s : State) (num : Nat) : Nat :=
  let c := s.cur.core
  let k := curCore s
  let f := senderOf s s.cur
  match localCore s num with
  | none => 2
  | some q =>
    if q = viewCore s c then 2
    else if absent s q || !coreFree s q then 1
    else if s.cur.cx != 0 then 3
    else if k.ctxs.any (fun p => p.1 != 0 && p.2.status != .free) || k.queues.any (fun p => !p.2.isEmpty) || (curCtx s).ldepth != 0 ||
        s.leases.any (fun l => l.holder = f) || s.wings.any (fun p => match p.2.lease with
          | some l => l.holder = f
          | none => false) then 4
    else if k.twin.isSome || (getCore s q).twin.isSome then 5
    else 0

/-- The first restart point of a core of a pair, from its context (R258). -/
def twinStart (s : State) (c partner : Nat) (primary : Bool) (x : Ctx) : Twin :=
  { partner := partner, primary := primary, retrying := false, retired := 0, total := 0, undo := 0, crc := 0,
    point := ⟨x, (getCore s c).cell, (getCore s c).tags, (getCore s c).bfmt⟩, held := [], kept := [], feed := [], fed := 0, lands := [], landed := 0, due := false, released := [] }

/-- Pair the executing core with core `q`, after the TWIN has retired (R255): cell memory and the control context are copied, bank 15 of both
becomes the undo log, the first interval begins. -/
def pairUp (s : State) (q : Nat) : State :=
  let p := s.cur.core
  let s := completeCore s q
  let low := fun k : Core => { k with
    cell := k.cell.filter fun b => decide (b.1 < 0xF0000)
    tags := k.tags.filter fun g => decide (g < 0xF000) }
  let s := onCore s p low
  let k := getCore s p
  let x := getCtx s ⟨p, 0⟩
  let z := { x with epoch := (getCore s q).epochs + 1 }
  let s := onCore s q fun w => { w with
    cell := k.cell
    tags := k.tags
    bfmt := k.bfmt
    launch := k.launch
    launchId := k.launchId
    instar := k.instar
    stages := k.stages
    epochs := w.epochs + 1
    ctxs := mapSet w.ctxs 0 z
    twinState := 1
    twinPartner := coreNum s p }
  let s := onCore s p fun w => { w with twinState := 1, twinPartner := coreNum s q, twin := some (twinStart s p q true x) }
  noteCore (noteCore (onCore s q fun w => { w with twin := some (twinStart s q p false z) }) p) q

/-- TWIN (R255, R396). -/
def execTwin (d a : BitVec 5) (y : BitVec 3) (s : State) : Host.Outcome State Fault Refusal :=
  match issue (.twin d a y) (cyc y) [a] [d] false (do
    let num := bits (← rd a) 21 0
    let r ← shared (do return natW (twinStatus (← get) num))
    if r = 0 then
      drainOwn
      setCore fun k => { k with twinState := 1, twinPartner := num }
    else pure ()
    wr d r) s with
  | .next s' =>
    if (curCore s').twinState = 1 ∧ (curCore s').twin.isNone then
      match localCore s' (curCore s').twinPartner with
      | some q => .next (pairUp s' q)
      | none => .next s'
    else .next s'
  | r => r

end Sys2Proof.Machine
end

