-- ==== Sys2Proof/Machine/Launch.lean ====
section
/-! DEFINITION. Launch queues, floods and completion, and writes of engine and system space
(R5, R12, R16, R26 to R34, R36, R116, R118, R171, R264, R274, R278, R280). -/

namespace Sys2Proof.Machine

/-- ENTRY (R28). -/
def dEntry (d : List W64) : W64 := d.getD 0 0
/-- MONARCH. -/
def dMonarch (d : List W64) : Nat := bits (d.getD 2 0) 37 16
/-- QUEUE. -/
def dQueue (d : List W64) : Nat := bits (d.getD 2 0) 15 12
/-- DIST. -/
def dCyclic (d : List W64) : Bool := bitAt (d.getD 2 0) 8
/-- LEVEL. -/
def dLevel (d : List W64) : Nat := bits (d.getD 2 0) 7 6
/-- The stage count S. -/
def dStages (d : List W64) : Nat := bits (d.getD 2 0) 5 0 + 1
/-- ARG. -/
def dArg (d : List W64) : W64 := d.getD 3 0
/-- RTAB. -/
def dRtab (d : List W64) : Nat := bits (d.getD 4 0) 51 32
/-- ARGLEN. -/
def dArglen (d : List W64) : Nat := bits (d.getD 4 0) 31 0
/-- CHRY. -/
def dChry (d : List W64) : W64 := d.getD 5 0
/-- The address of the chrysalis area of a core of a launch, by core number: 4 MiB for each core from CHRY on (R249, R250). -/
def areaOf (d : List W64) (num : Nat) : Nat := (dChry d).toNat + (num - dBase d) * 0x400000

/-- Units of a launch (R33). -/
def dUnits (d : List W64) : Nat := if dLevel d = 0 then dCount d else if dLevel d = 1 then dCount d / 16 else dCount d / 256

/-- The first check of R29 that fails at acceptance; 0 for none. -/
def descCode (device : Nat) (d : List W64) : Nat :=
  if bits (d.getD 1 0) 63 55 != 0 || bits (d.getD 1 0) 31 22 != 0 || bits (d.getD 2 0) 63 38 != 0 || bits (d.getD 2 0) 11 9 != 0 ||
      bits (d.getD 4 0) 63 52 != 0 || bits (d.getD 6 0) 63 32 != 0 || d.getD 7 0 != 0 || dLevel d = 3 then 1
  else if dCount d = 0 || dBase d / 1024 != device || decide (device * 1024 + 1024 < dBase d + dCount d) ||
      (dLevel d != 0 && (dBase d % 256 != 0 || dCount d % 256 != 0)) || decide (dUnits d < dStages d) then 2
  else if bits (dEntry d) 63 48 != 0 || bitAt (dEntry d) 0 || dRtab d % 1024 != 0 then 4
  else 0

/-- A descriptor with its LAUNCHID written (R28). -/
def withId (d : List W64) (id : Nat) : List W64 := listSet d 6 (natW (bits (d.getD 6 0) 63 32 * 2 ^ 32 + id))

/-- A queue is enabled (R27). -/
def queueOn (q : Queue) : Bool := decide (4 ≤ q.qsize.toNat) && decide (q.qsize.toNat ≤ 16)

/-- The queue takes submissions: it is enabled and not halted, and the firmware has passed its check (R27, R29, R282). -/
def queueTakes (s : State) (q : Queue) : Bool := queueOn q && !q.halted && !s.mg.recovery

/-- Physical address of the ring slot of a count (R27). -/
def slotAddr (q : Queue) (n : Nat) : Nat := q.qbase.toNat + 64 * (n % 2 ^ q.qsize.toNat)

/-- The next launch ID, and the one after it (R28). -/
def nextId (s : State) : Nat × State := (s.nextLaunch, { s with nextLaunch := if s.nextLaunch = 0xFFFFFFFF then 1 else s.nextLaunch + 1 })

/-- Read 64 bytes of a ring slot (R27): none while the row is leased. A bad sector leaves its record, and its bytes are a free value (log 6). -/
def slotRead (s : State) (pa : Nat) : Option (List Byte × State) :=
  if isHost pa then some (memReads s.mem.host (pa % 2 ^ 51) 64, s)
  else if !inHbm s pa then some (List.replicate 64 0, s)
  else if isLeased s pa 64 then none
  else
    let r := bankRead (mergeHome s (pa / 128)) noCore pa 64
    some (r.1, r.2.2)

/-- Write bytes of a ring slot; none while the row is leased. -/
def slotWrite (s : State) (pa : Nat) (l : List Byte) : Option State :=
  if isHost pa then some (onMem s fun g => { g with host := memWrites g.host (pa % 2 ^ 51) l })
  else if !inHbm s pa then some s
  else match homeWrite pa l 0 s with
    | .ok _ s' => some s'
    | .error _ _ => none

/-- What is done for a core by an engine acts on that core's die, and its errors name the core. -/
def asCore {α : Type} (c : Nat) (act : M α) : M α := fun s =>
  match act { s with cur := ⟨c, 0⟩ } with
  | .ok a z => .ok a { z with cur := s.cur }
  | .error e z => .error e { z with cur := s.cur }

/-- Write bytes at a virtual address through the page table of a queue (R249, R253). -/
def areaWrite (q c va : Nat) (l : List Byte) (fuel : Nat) : M Unit := do
  match fuel with
  | 0 => return
  | k + 1 =>
    if l.isEmpty then return
    else
      let p ← asCore c (pieceTranslate q c (natW va) accCopyDst)
      let n := min l.length (4096 - va % 4096)
      asCore c (homeWrites (dieOf c) p.1 (l.take n) p.2.2.1 (n + 1))
      areaWrite q c (va + n) (l.drop n) k

/-- Read bytes the same way (R254). -/
def areaRead (q c va n fuel : Nat) : M (List Byte) := do
  match fuel with
  | 0 => return []
  | k + 1 =>
    if n = 0 then return []
    else
      let p ← asCore c (pieceTranslate q c (natW va) accCopySrc)
      let m := min n (4096 - va % 4096)
      let b ← asCore c (homeReads p.1 m p.2.2.1 (m + 1))
      let r ← areaRead q c (va + m) (n - m) k
      return b ++ r

/-- Doublewords of bytes. -/
def dwords (l : List Byte) (n : Nat) : List W64 := (List.range n).map fun j => natW (ofBytes ((l.drop (8 * j)).take 8))

/-- Submit `n` descriptors from count `at_` on: each is read, checked and given its ID, which is written to its slot (R27, R29). -/
def submit (s : State) (qn at_ n : Nat) : Option State :=
  match n with
  | 0 => some s
  | k + 1 =>
    let q := getQueue s qn
    match slotRead s (slotAddr q at_) with
    | none => none
    | some (b, s) =>
      let d := dwords b 8
      let (id, s) := nextId s
      match slotWrite s (slotAddr q at_ + 48) (toBytes id 4) with
      | none => none
      | some s =>
        let code := descCode s.device d
        let q := { q with
          slots := q.slots ++ [⟨withId d id, id, code, none⟩]
          qstat := if code = 0 then q.qstat else BitVec.ofNat 40 (code + id * 2 ^ 8) }
        submit (putQueue s qn q) qn ((at_ + 1) % 2 ^ 32) k

/-- QHEAD moves past the rejected descriptors at the head (R27). -/
def passRejected (q : Queue) (fuel : Nat) : Queue :=
  match fuel with
  | 0 => q
  | k + 1 =>
    match q.slots with
    | [] => q
    | z :: r => if z.code = 0 then q else passRejected { q with qhead := q.qhead + 1, slots := r, pendingAt := none } k

/-- QHEAD of a queue settles. -/
def settle (s : State) (qn : Nat) : State :=
  let q := getQueue s qn
  putQueue s qn (passRejected q (q.slots.length + 1))

/-- A descriptor that was pushed on e15 has come to its end: its word with the outcome can be popped (R27, R29). -/
def answerPush (s : State) (z : Slot) (w : W64) : State :=
  if z.pushed.isNone then s
  else { s with launchResults := s.launchResults.map fun r => if r.waits && r.word = natW z.id then { r with word := w, waits := false } else r }

/-- Descriptors are discarded without a status: the words of those that were pushed carry status 0 (DESIGN CHOICE, log 42: R27 writes no status for them and
gives every push a word). -/
def dropSlots (s : State) (l : List Slot) : State := l.foldl (fun s z => answerPush s z (natW z.id)) s

/-- A write of QTAIL (R27, R29): none while a slot cannot be read. -/
def writeTail (s : State) (qn : Nat) (v : W64) : Option State :=
  let q := getQueue s qn
  let t := v.setWidth 32
  let count := (t - q.qhead).toNat
  if !queueOn q || s.mg.recovery then some (putQueue s qn { q with qtail := t })
  else if 2 ^ q.qsize.toNat < count then some (putQueue s qn { q with qtail := t, qstat := 5, halted := true })
  else if q.halted then some (putQueue s qn { q with qtail := t })
  else
    let have_ := q.slots.length
    let s := dropSlots (putQueue s qn { q with qtail := t, slots := q.slots.take count }) (q.slots.drop count)
    (submit s qn ((q.qhead.toNat + have_) % 2 ^ 32) (count - have_)).map fun s => settle s qn

/-- A write of QSIZE empties the queue (R27). -/
def writeSize (s : State) (qn : Nat) (v : W64) : State :=
  let q := getQueue s qn
  dropSlots (putQueue s qn { q with qsize := v.setWidth 5, qhead := q.qtail, slots := [], halted := false, pendingAt := none }) q.slots

/-- A write of L2WAYSd (R116, R118): a value outside its ranges is ignored; a change writes back and drops what the far ways of the die hold,
and waits for rows under lease (R158). -/
def writeWays (s : State) (die : Nat) (v : W64) : Option State :=
  let far := bits v 3 0
  let shadow := bits v 11 8
  if 8 < far ∨ 12 < shadow ∨ 20 < far + shadow then some s
  else if BitVec.ofNat 12 (shadow * 2 ^ 8 + far) = vecGet s.mem.l2ways die 0 then some s
  else if farWaits s die then none
  else some (onMem (flushFar s die) fun g => { g with
    far := mapErase g.far die
    l2ways := vecSet g.l2ways die (BitVec.ofNat 12 (shadow * 2 ^ 8 + far)) })

/-- A write of DIECTLd (R274, R278): PARK asks for the die to be parked, and clearing it withdraws that or starts unparking. -/
def writePark (s : State) (die : Nat) (v : W64) : State :=
  let on := bitAt v 0
  let parked := vecGet s.mg.parked die false
  { s with mg := { s.mg with
      diectl := vecSet s.mg.diectl die on
      diePending := vecSet s.mg.diePending die (on && !parked)
      unparking := vecSet s.mg.unparking die (!on && parked) } }

/-- A write of a queue block (R27). -/
def writeQueue (s : State) (qn r : Nat) (v : W64) : Option State :=
  match r with
  | 0 => some (putQueue s qn { getQueue s qn with qbase := natW (v.toNat / 64 * 64) })
  | 1 => some (writeSize s qn v)
  | 3 => writeTail s qn v
  | 4 => some (putQueue s qn { getQueue s qn with qprio := v.setWidth 3 })
  | _ => some s

/-- A write of MGCFG (R58, R278): without CORECAP the caps and every PSTATE read the host's values. -/
def writeConfig (s : State) (corecap : Bool) : State :=
  if corecap then { s with mg := { s.mg with mgcfg := true } }
  else
    let back := fun p : Nat × Cluster => (p.1, if p.2.request = p.2.requestHost then p.2 else retarget { p.2 with request := p.2.requestHost })
    { s with
      clusters := s.clusters.map back
      mg := { s.mg with mgcfg := false, capPeak := s.mg.capPeakHost, capAvg := s.mg.capAvgHost } }

/-- The host or the management controller writes CAPPEAK, CAPAVG or the PSTATE of a cluster (R58). -/
def hostValue (s : State) (r : HostReg) (v : W64) : State :=
  match r with
  | .capPeak => { s with mg := { s.mg with capPeak := clampCap v, capPeakHost := clampCap v } }
  | .capAvg => { s with mg := { s.mg with capAvg := clampCap v, capAvgHost := clampCap v } }
  | .pstate n =>
    let z := requestState s n v
    if bits v 2 0 ≤ 5 then putCluster z n { getCluster z n with requestHost := BitVec.ofNat 3 (bits v 2 0) } else z
  | .engine _ => s

/-- A write of engine and system space by the host or the management controller, or by a core, which writes no host register (R5, R116, R278).
None while it must wait. -/
def engineWrite (s : State) (host : Bool) (off : Nat) (v : W64) : Option State :=
  if off % 8 != 0 || (host && s.mg.recovery) then some s
  else if off < 0x400 then writeQueue s (off / 64) (off % 64 / 8) v
  else if off = 0x3018 then some { s with mg := { s.mg with pwrlim := s.mg.pwrlim &&& ~~~v.setWidth 2 } }
  else if !host then some s
  else if 0x800 ≤ off ∧ off < 0x900 then
    if off % 16 = 0 then some (onMem s fun g => { g with troot := vecSet g.troot ((off - 0x800) / 16) (natW (bits v 51 12 * 2 ^ 12 + bits v 0 0)) })
    else some s
  else if 0x2008 ≤ off ∧ off < 0x2028 then writeWays s ((off - 0x2008) / 8) v
  else if off = 0x3020 then some (writeConfig s (bitAt v 0))
  else if 0x3028 ≤ off ∧ off < 0x3048 then some (writePark s ((off - 0x3028) / 8) v)
  else if off = 0x3068 then some { s with mg := { s.mg with preq := v.setWidth 34 } }
  else some s

/-- The state after a write, or the same state while it waits. -/
def orWait (s : State) (r : Option State) : Host.Outcome State Fault Refusal := .next (r.getD s)

/-- QSIZE_WRITE (R27). -/
def execQsizeWrite (q : BitVec 4) (v : BitVec 64) (s : State) : Host.Outcome State Fault Refusal :=
  orWait s (engineWrite s true (q.toNat * 64 + 8) v)

/-- QTAIL_WRITE (R27, R29). -/
def execQtailWrite (q : BitVec 4) (v : BitVec 64) (s : State) : Host.Outcome State Fault Refusal :=
  orWait s (engineWrite s true (q.toNat * 64 + 24) v)

/-- DIECTL_WRITE (R274). -/
def execDiectlWrite (die : BitVec 2) (v : BitVec 64) (s : State) : Host.Outcome State Fault Refusal :=
  orWait s (engineWrite s true (0x3028 + die.toNat * 8) v)

/-- PWRLIM_CLEAR (R278). -/
def execPwrlimClear (v : BitVec 64) (s : State) : Host.Outcome State Fault Refusal := orWait s (engineWrite s true 0x3018 v)

/-- L2WAYS_WRITE (R118). -/
def execL2waysWrite (die : BitVec 2) (v : BitVec 64) (s : State) : Host.Outcome State Fault Refusal :=
  orWait s (engineWrite s true (0x2008 + die.toNat * 8) v)

/-- The engine reads the `n`-th push on e15 (R27): its result word, and the descriptor in its queue's ring when it was accepted. A context's pushes are
read in their order. The word of an accepted push waits for the descriptor's flood, which decides about code 3 (DESIGN CHOICE, log 42: R27 gives a push one
word, and R29 sends code 3, which is known only at flood time, to it). -/
def readPush (s : State) (n : Nat) : Option State :=
  match s.launchPushes[n]? with
  | none => none
  | some p =>
    if (s.launchPushes.take n).any fun z => z.src = p.src then none
    else
      let s := { s with launchPushes := listDel s.launchPushes n }
      let answer := fun (s : State) (w : Nat) => { s with launchResults := s.launchResults ++ [⟨p.src, natW w, false⟩] }
      let code := descCode s.device p.desc
      let qn := dQueue p.desc
      let q := getQueue s qn
      if code != 0 then
        let r := nextId s
        some (answer r.2 (code * 2 ^ 32 + r.1))
      else if !queueTakes s q || decide (2 ^ q.qsize.toNat ≤ (q.qtail - q.qhead).toNat) then some (answer s (5 * 2 ^ 32))
      else
        let r := nextId s
        let d := withId p.desc r.1
        match slotWrite r.2 (slotAddr q q.qtail.toNat) (d.flatMap fun w => toBytes w.toNat 8) with
        | none => none
        | some s =>
          let s := putQueue s qn { q with qtail := q.qtail + 1, slots := q.slots ++ [⟨d, r.1, 0, some p.src⟩] }
          some { s with launchResults := s.launchResults ++ [⟨p.src, natW r.1, true⟩] }

/-- E15_LAUNCH_PUSH (R27, R29). -/
def execE15LaunchPush (n : Nat) (s : State) : Host.Outcome State Fault Refusal := orWait s (readPush s n)

/-- Who waits for cores: the head of a queue, or a saved launch (R30, R254). -/
structure Claim where
  prio : Nat
  queue : Nat
  saved : Option Nat
  cores : List Nat
  pendingAt : Option Nat
  ready : Bool
deriving DecidableEq, Repr, Inhabited

/-- Every core of a claim is free; an absent core is no obstacle to a head, which is then rejected (R29, R30). -/
def coresFree (s : State) (l : List Nat) : Bool := l.all fun c => absent s c || coreFree s c

/-- A suspect cluster takes no new flood (R265). -/
def suspectCore (s : State) (c : Nat) : Bool := (getCluster s (clusterOf (siteOf s c))).suspect

/-- The cores that a saved launch returns to: its range, and the secondaries of its pairs (R254, R255). -/
def returnCores (s : State) (l : Launch) : List Nat :=
  (dCores l.desc ++ (s.saved.filter fun (v : SavedLaunch) => v.id = l.id).flatMap fun (v : SavedLaunch) => v.cores.map fun (k : SavedCore) => k.number % 1024).eraseDups

/-- The saved launches of a queue and a priority as claims (R254). -/
def savedClaims (s : State) (qn prio : Nat) : List Claim :=
  (s.launches.filter fun l => l.saved && l.queue = qn && l.prio = prio).map fun l =>
    ⟨l.prio, l.queue, some l.id, returnCores s l, l.pendingAt, (returnCores s l).all fun c => !absent s c && coreFree s c⟩

/-- The head of a queue as a claim. -/
def headClaim (s : State) (qn prio : Nat) : List Claim :=
  let q := getQueue s qn
  match q.slots with
  | [] => []
  | z :: _ =>
    if queueTakes s q && q.qprio.toNat = prio then [⟨prio, qn, none, dCores z.desc, q.pendingAt, coresFree s (dCores z.desc)⟩] else []

/-- Every claim, in the order of step 1 of R30. -/
def claims (s : State) : List Claim :=
  (List.range 8).flatMap fun p => (List.range 16).flatMap fun j =>
    let qn := (s.lastFlood + 1 + j) % 16
    savedClaims s qn (7 - p) ++ headClaim s qn (7 - p)

/-- Two claims overlap. -/
def overlaps (a b : Claim) : Bool := a.cores.any fun c => b.cores.contains c

/-- A pending claim blocks another (R30 step 3). -/
def blockedBy (a b : Claim) : Bool :=
  overlaps a b && match b.pendingAt with
    | none => false
    | some n => decide (a.prio < b.prio) || (a.prio == b.prio && match a.pendingAt with
      | none => true
      | some m => decide (n < m))

/-- Note that a claim is pending from now on. -/
def setPending (s : State) (c : Claim) : State :=
  let n := s.pendOrder
  let s := { s with pendOrder := n + 1 }
  match c.saved with
  | some id => { s with launches := s.launches.map fun l => if l.id = id then { l with pendingAt := some n } else l }
  | none => putQueue s c.queue { getQueue s c.queue with pendingAt := some n }

/-- Claims whose range is not free become pending, in their order (R30 step 3). -/
def markPending (s : State) : State :=
  (claims s).foldl (fun s c => if !c.ready && c.pendingAt.isNone then setPending s c else s) s

/-- A claim can be served: its cores are free, no pending claim blocks it, no cluster of a head's range is suspect (R30, R265). -/
def claimServed (s : State) (c : Claim) : Bool :=
  c.ready && !((claims s).any fun d => blockedBy c d) && !(c.saved.isNone && c.cores.any (suspectCore s))

/-- The claim that the engine serves next (R30); one that reaches a sleeping cluster waits for the wake (R273). -/
def chosen (s : State) : Option Claim := (claims s).find? fun c => claimServed s c && !(c.cores.any (asleep s))

/-- The instar of a core (R33). -/
def instarOf (s : State) (d : List W64) (c : Nat) : Nat :=
  let num := coreNum s c
  let b := dBase d % 1024
  let u := if dLevel d = 0 then num - dBase d else if dLevel d = 1 then logicalCluster c - logicalCluster b else dieOf c - dieOf b
  if dCyclic d then u % dStages d else u * dStages d / dUnits d

/-- The control context of a core at the start of a launch (R32). -/
def floodCtx (s : State) (d : List W64) (c : Nat) (arg : Reg) : Ctx :=
  let num := coreNum s c
  let x := ctxReset num 0
  let reg := fun n => dataReg (natW n)
  { x with
    status := .live
    epoch := (getCore s c).epochs + 1
    fetched := (getCtx s ⟨c, 0⟩).fetched
    pc := dEntry d
    c := vecSet (vecSet (vecSet (vecSet (vecSet (vecSet x.c 1 (reg num)) 2 (reg (dBase d))) 3 (reg (dCount d))) 4 (reg (instarOf s d c))) 5
      (reg (dStages d))) 6 arg }

/-- The doublewords of the routine table from an offset on that are not 0 (R36). -/
def tableWords (cell : Memory) (off n : Nat) : SMap W64 :=
  (List.range n).filterMap fun j =>
    let w := natW (ofBytes (memReads cell (off + 8 * j) 8))
    if w = 0 then none else some (j, w)

/-- What a core that begins anew keeps of its helpers: the parcels that their fronts have fetched ahead (R126; log 62). -/
def fetchedOnly (num : Nat) (l : SMap Ctx) : SMap Ctx :=
  (l.filter fun p => p.1 != 0 && !p.2.fetched.isEmpty).map fun p => (p.1, { ctxReset num p.1 with fetched := p.2.fetched })

/-- The flood reaches a core (R32, R36). What is still on its way from the uses before it goes on. -/
def floodCore (s : State) (d : List W64) (id qn c : Nat) : State :=
  let k := getCore s c
  let arg := capOver 0b100100 (dArg d).toNat ((dArg d).toNat + dArglen d)
  putCore s c { coreReset with
    ctxs := (0, floodCtx s d c arg) :: fetchedOnly (coreNum s c) k.ctxs
    cell := k.cell
    tags := k.tags
    launch := some { id := id, queue := qn, base := dBase d, count := dCount d, monarch := dMonarch d, arg := arg, chry := dChry d, saved := false }
    launchId := BitVec.ofNat 32 id
    instar := BitVec.ofNat 6 (instarOf s d c)
    stages := BitVec.ofNat 7 (dStages d)
    epochs := k.epochs + 1
    classes := tableWords k.cell (dRtab d) 64
    chans := tableWords k.cell (dRtab d + 512) 64
    reserved := k.reserved
    buf := k.buf
    left := k.left
    tail := k.tail
    seqOut := k.seqOut
    copies := k.copies
    nextCopy := k.nextCopy
    nextPiece := k.nextPiece
    ops := k.ops
    nextOp := k.nextOp
    marks := k.marks }

/-- A head is rejected with code 3: in QSTAT, or for a push in its POPE word (R27, R29). -/
def rejectLate (s : State) (qn : Nat) (z : Slot) : State :=
  match z.pushed with
  | some _ => answerPush s z (natW (3 * 2 ^ 32 + z.id))
  | none => putQueue s qn { getQueue s qn with qstat := BitVec.ofNat 40 (3 + z.id * 2 ^ 8) }

/-- A launch takes free cores: earlier launches complete on them, and their dies acquire what was stored before its descriptor was submitted
(R27, R34, R153). -/
def takeCores (s : State) (l : List Nat) : State :=
  (l.map dieOf).eraseDups.foldl acquireDie (l.foldl completeCore s)

/-- The head of a queue floods, or is rejected with code 3 when a core of its range is absent (R27, R29, R30). -/
def floodHead (s : State) (qn : Nat) : State :=
  let q := getQueue s qn
  match q.slots with
  | [] => s
  | z :: r =>
    let s := putQueue s qn { q with qhead := q.qhead + 1, slots := r, pendingAt := none }
    if (dCores z.desc).any (absent s) then
      settle (rejectLate s qn z) qn
    else
      let s := takeCores (answerPush s z (natW z.id)) (dCores z.desc)
      let s := { s with
        lastFlood := qn
        launches := s.launches ++ [{ id := z.id, queue := qn, prio := q.qprio.toNat, desc := z.desc, doneOn := [], sealedSeen := false,
                                     saved := false, pendingAt := none }] }
      settle ((dCores z.desc).foldl (fun s c => noteCore (floodCore s z.desc z.id qn c) c) s) qn

/-- FLOOD (R29 to R33): the engine serves the next head whose turn it is. -/
def execFlood (s : State) : Host.Outcome State Fault Refusal :=
  let s := markPending s
  match chosen s with
  | some c => if c.saved.isNone then .next (floodHead s c.queue) else .next s
  | none => .next s

/-- LAUNCH_COMPLETE (R34, R238): a core of a launch has become free. A flood, a restore or a TWIN that takes the core first completes it there (R34). A
sealed core has counted as complete when it was sealed (R264). -/
def execLaunchComplete (core : Nat) (s : State) : Host.Outcome State Fault Refusal :=
  match (getCore s core).launch with
  | none => .next s
  | some l => if (getCore s core).isSealed then .next (finishLaunch s l.id) else .next (completeCore s core)

/-- A front at power-on (R16). -/
def frontAtPower (f : Nat × Front) : Nat × Front := (f.1, { f.2 with bind := f.2.repair, tlb := [] })

/-- POWER_ON (R12, R15, R16, R23, R24, R30, R57): everything at its reset value; repair data, the core table and the device's number stay. The whole
package begins anew, with the links untrained. -/
def execPowerOn (s : State) : Host.Outcome State Fault Refusal :=
  .next { State.reset with
    agenda := s.agenda
    tick := s.tick
    cur := s.cur
    device := s.device
    coreTable := s.coreTable
    fronts := s.fronts.map frontAtPower
    wings := s.wings.map fun w => (w.1, { wingReset with health := w.2.health })
    mem := { State.reset.mem with hbmtop := s.mem.hbmtop, host := s.mem.host }
    mg := { State.reset.mg with links := s.mg.links.map fun l => { l with lanes := 0, degraded := false, down := true } } }

end Sys2Proof.Machine
end

