-- ==== Sys2Proof/Machine/LoadStore.lean ====
section
/-! DEFINITION. Loads, stores, atomics, reductions and fences (R131, R143 to R152, R289, R320, R336, R340, R341, R348, R349, R374, R385, R387). -/

namespace Sys2Proof.Machine

/-- Steps 1 to 4 of R104, then PAGE for an address outside global space, then translation: LDG, STG, GAMO, GCAS and RED. -/
def accessGlobal (cap : Reg) (r : Nat) (a : W64) (n : Nat) (k : Access) : M (Place × Bool) := do
  faultIf (!cap.tag) cCAPT (natW r)
  let _ ← orFault (checkBounds cap.bits a n k)
  faultIf (a.toNat % n != 0 || bits a 63 60 == 0xE && n != 8) cALIGN a
  let s ← get
  match spaceOf s s.cur.core a with
  | some (.global va) => translate s.cur.core va a k
  | _ => fault cPAGE a

/-- The checks of AMO and CAS (R289): mesh space only, the executing core only. The offset in own cell memory. -/
def accessOwn (cap : Reg) (r : Nat) (a : W64) (n : Nat) : M Nat := do
  faultIf (!cap.tag) cCAPT (natW r)
  let _ ← orFault (checkBounds cap.bits a n accAtomic)
  faultIf (a.toNat % n != 0 || bits a 63 60 == 0xE && n != 8) cALIGN a
  let s ← get
  match spaceOf s s.cur.core a with
  | some (.cell d o) =>
    faultIf (d != coreNum s s.cur.core) cREMOTELD a
    faultIf (undoLog s d o n) cPERM a
    return o
  | _ => fault cPAGE a

/-- LD (R348). -/
def execLd (d a : BitVec 5) (sz : BitVec 3) (off : BitVec 7) (y : BitVec 3) (s : State) : Host.Outcome State Fault Refusal :=
  issue (.ld d a sz off y) (cyc y) [a] [d] false (do
    let c ← rdReg a
    let r ← access c a.toNat (memAddr c off.toInt (sizeOf_ sz)) (sizeOf_ sz) accLoad
    loadScalar d sz.toNat c r.1 r.2 false) s

/-- LDG (R349). -/
def execLdg (d a : BitVec 5) (sz : BitVec 3) (acq : BitVec 1) (sc : BitVec 2) (off : BitVec 4) (y : BitVec 3) (s : State) :
    Host.Outcome State Fault Refusal :=
  issue (.ldg d a sz acq sc off y) (cyc y) [a] [d] false (do
    let c ← rdReg a
    let r ← accessGlobal c a.toNat (memAddr c off.toInt (sizeOf_ sz)) (sizeOf_ sz) accLoad
    if acq = 1 && decide (2 ≤ sc.toNat) then
      notSpec
      loadScalar d sz.toNat c r.1 r.2 true
      modify fun s => acquireDie s (dieOf s.cur.core)
    else loadScalar d sz.toNat c r.1 r.2 (decide (2 ≤ sc.toNat))) s

/-- ST (R385). -/
def execSt (d a : BitVec 5) (sz : BitVec 3) (off : BitVec 7) (y : BitVec 3) (s : State) : Host.Outcome State Fault Refusal :=
  issue (.st d a sz off y) (cyc y) [d, a] [] false (do
    let c ← rdReg a
    let v ← rdReg d
    let p := memAddr c off.toInt (sizeOf_ sz)
    let r ← access c a.toNat p (sizeOf_ sz) (accStore (sz = 7 && v.tag))
    storeScalar p sz.toNat v r.1 none) s

/-- STG (R387). -/
def execStg (d a : BitVec 5) (sz : BitVec 3) (rel : BitVec 1) (sc : BitVec 2) (off : BitVec 4) (y : BitVec 3) (s : State) :
    Host.Outcome State Fault Refusal :=
  issue (.stg d a sz rel sc off y) (cyc y) [d, a] [] false (do
    let c ← rdReg a
    let v ← rdReg d
    let p := memAddr c off.toInt (sizeOf_ sz)
    let r ← accessGlobal c a.toNat p (sizeOf_ sz) (accStore (sz = 7 && v.tag))
    storeScalar p sz.toNat v r.1 (if rel = 1 then some sc.toNat else none)) s

/-- The new word of AMO and GAMO, over `8n` bits (R289, R340). The codes are those of AMO. -/
def amoNew (op n old v : Nat) : Nat :=
  let sg := fun x : Nat => sxInt x (8 * n)
  match op with
  | 0 => v
  | 1 => (old + v) % 2 ^ (8 * n)
  | 2 => old &&& v
  | 3 => old ||| v
  | 4 => old ^^^ v
  | 5 => if sg v < sg old then v else old
  | 6 => if sg old < sg v then v else old
  | 7 => if v < old then v else old
  | _ => if old < v then v else old

/-- One indivisible update of own cell memory (R131, R289): `f` gives the new word, or none to leave it. The old value is returned. In a twinned pair the
word that it writes enters the fingerprint as a store does; GAMO, GCAS and RED enter nothing (DESIGN CHOICE, log 90: R257 speaks of stores and names no
atomic). -/
def amoUpdate (cap : Reg) (r n : Nat) (f : Nat → Option Nat) : M W64 := do
  let o ← accessOwn cap r (capAddr cap.bits) n
  notSpec
  drainOwn
  let s ← get
  let old := ofBytes (memReads (curCore s).cell o n)
  match f old with
  | some v =>
    twinStore o (toBytes v n) none
    crcStore (capAddr cap.bits) (toBytes v n)
  | none => pure ()
  return toW (sxInt old (8 * n))

/-- AMO (R289). -/
def execAmo (d a b : BitVec 5) (op : BitVec 4) (w64 : BitVec 1) (y : BitVec 3) (s : State) : Host.Outcome State Fault Refusal :=
  issue (.amo d a b op w64 y) (cyc y) [a, b] [d] false (do
    let c ← rdReg a
    let n := if w64 = 1 then 8 else 4
    let v := (← rd b).toNat % 2 ^ (8 * n)
    wr d (← amoUpdate c a.toNat n fun old => some (amoNew op.toNat n old v))) s

/-- CAS (R320). -/
def execCas (d a b : BitVec 5) (w64 : BitVec 1) (y : BitVec 3) (s : State) : Host.Outcome State Fault Refusal :=
  issue (.cas d a b w64 y) (cyc y) [d, a, b] [d] false (do
    let c ← rdReg a
    let n := if w64 = 1 then 8 else 4
    let want := (← rd d).toNat % 2 ^ (8 * n)
    let v := (← rd b).toNat % 2 ^ (8 * n)
    wr d (← amoUpdate c a.toNat n fun old => if old = want then some v else none)) s

/-- A RED of the executing context on the line of a place is still on its way. -/
def redsGone (p : Place) : M Unit := do await_ (!(← redPending p 8))

/-- One atomic read-modify-write at the home slice, or at the host, as a release and an acquire of its scope (R120, R131, R146, R151, R340). In a twinned
pair the primary performs it, and its old value is an input (R256). -/
def gamoUpdate (p : Place) (n sc : Nat) (f : Nat → Option Nat) : M W64 := do
  notSpec
  twinFlush
  shared (do
    drainOwn
    redsGone p
    let die ← myDie
    releaseAt (← meSender) (bufNext (← myCore)) die sc
    match p with
    | .phys pa _ key =>
      let old ← if isHost pa then pure (ofBytes (memReads (← get).mem.host (pa % 2 ^ 51) n)) else do
        await_ (!isLeased (← get) pa n)
        modify fun s => (wordsOf pa n).foldl (fun s w => recallWord s w none) (mergeFar s die (pa / 128))
        let b ← homeRead pa n key
        -- the far ways of its die hold nothing older than what it reads
        modify fun s => (wordsOf pa n).foldl (fun s w => farDrop s die w) s
        pure (ofBytes b)
      match f old with
      | some v =>
        if isHost pa then modify fun s => onMem s fun g => { g with host := memWrites g.host (pa % 2 ^ 51) (toBytes v n) }
        else homeWrite pa (toBytes v n) key
      | none => pure ()
      if 2 ≤ sc then modify fun s => acquireDie s die else pure ()
      return natW old
    | _ => return 0)

/-- The place lies in host memory. -/
def hostPlace (p : Place) : Bool :=
  match p with
  | .phys pa _ _ => isHost pa
  | _ => false

/-- GAMO (R340); its operation 7 is the unsigned maximum. -/
def execGamo (d a b : BitVec 5) (op : BitVec 3) (sc : BitVec 2) (y : BitVec 3) (s : State) : Host.Outcome State Fault Refusal :=
  issue (.gamo d a b op sc y) (cyc y) [a, b] [d] false (do
    let c ← rdReg a
    let p := capAddr c.bits
    let r ← accessGlobal c a.toNat p 8 accAtomic
    faultIf (hostPlace r.1 && decide (2 ≤ op.toNat)) cPERM p
    let v := (← rd b).toNat
    wr d (← gamoUpdate r.1 8 sc.toNat fun old => some (amoNew (if op = 7 then 8 else op.toNat) 8 old v))) s

/-- GCAS (R341). -/
def execGcas (d a b : BitVec 5) (w64 : BitVec 1) (sc : BitVec 2) (y : BitVec 3) (s : State) : Host.Outcome State Fault Refusal :=
  issue (.gcas d a b w64 sc y) (cyc y) [d, a, b] [d] false (do
    let c ← rdReg a
    let n := if w64 = 1 then 8 else 4
    let r ← accessGlobal c a.toNat (capAddr c.bits) n accAtomic
    let want := (← rd d).toNat % 2 ^ (8 * n)
    let v := (← rd b).toNat % 2 ^ (8 * n)
    let old ← gamoUpdate r.1 n sc.toNat fun old => if old = want then some v else none
    wr d (toW (sxInt old.toNat (8 * n)))) s

/-- RED (R374): it is on its way, or held in a speculative task or a twinned pair. -/
def execRed (t : BitVec 3) (a b : BitVec 5) (op y : BitVec 3) (s : State) : Host.Outcome State Fault Refusal :=
  issue (.red t a b op y) (cyc y) [a, b] [] false (do
    let c ← rdReg a
    let p := capAddr c.bits
    let n := redSize t.toNat
    let r ← accessGlobal c a.toNat p n (accStore false)
    faultIf (hostPlace r.1 && !(op = 0 && decide (t.toNat ≤ 3))) cPERM p
    let f ← meSender
    let e : Red := ⟨(← get).nextRed, bufNext (← myCore), f, r.1, t.toNat, op.toNat, natW ((← rd b).toNat % 2 ^ (8 * n))⟩
    if isSpec (← me) then holdEffect (.red e)
    else if (← myCore).twin.isSome then twinHold (.red e)
    else modify fun s => { s with reds := s.reds ++ [e], nextRed := s.nextRed + 1 }) s

/-- FENCE (R150, R336). -/
def execFence (sc : BitVec 2) (y : BitVec 3) (s : State) : Host.Outcome State Fault Refusal :=
  issue (.fence sc y) (cyc y) [] [] false (do
    notSpec
    twinFlush
    drainOwn
    releaseAt (← meSender) (bufNext (← myCore)) (← myDie) sc.toNat
    if sc = 3 then setMe fun x => { x with fetched := [] } else pure ()
    if 2 ≤ sc.toNat then modify fun s => acquireDie s (dieOf s.cur.core) else pure ()) s

end Sys2Proof.Machine
end

