-- ==== Sys2Proof/Machine/Arrivals.lean ====
section
/-! DEFINITION. What leaves a core and what arrives: the store buffer, stores and messages under way, refusals, CALLAT values, REDs, barrier
arrivals and completions (R13, R37, R38, R41, R107, R120, R127 to R129, R137, R138, R140, R144, R147, R149, R152, R236 to R239, R252, R261,
R273, R279). -/

namespace Sys2Proof.Machine

/-- A thing on its way to another device goes out through a Boltex port (R279). -/
def goesOut (s : State) (num : Nat) : Bool := (localCore s num).isNone && linkUp s

/-- Something leaves the package. -/
def sendOut (s : State) (src dst : Nat) : State := { s with mg := { s.mg with outbound := s.mg.outbound ++ [(src, dst)] } }

/-- A message's entry is no longer only reserved (R37). -/
def unreserve (s : State) (m : Msg) : State :=
  match m.room with
  | some c => onCore s c fun k => { k with reserved := mapSet k.reserved m.chn (mapGetD k.reserved m.chn 0 - 1) }
  | none => s

/-- The places of a sender on a channel (R36). -/
def senderSlots (k : Core) (chn num : Nat) : List Nat :=
  ((List.range (boundSenders k chn).length).filter fun j => (boundSenders k chn).getD j 0 = num).map fun j => chn * 4 + j

/-- The check of R38 that refuses a message at a core, or none. -/
def refusal (s : State) (c : Nat) (m : Msg) : Option Trap :=
  let k := getCore s c
  let slots := senderSlots k m.chn m.src.core
  let ordered := m.kind == .evtick || (m.kind == .msgt && classOrdered k m.cls)
  let named := m.kind == .msg || m.kind == .msgt
  if absent s c || !resident s c then some (msgErr m.dst)
  else if named && !classValid k m.cls then some (msgErr m.dst)
  else if m.kind == .msg && classOrdered k m.cls then some (msgErr m.dst)
  else if ordered && (!chanOrd k m.chn || slots.isEmpty) then some (msgErr m.dst)
  else if ordered && slots.any (fun j => decide (m.ts < mapGetD k.senderLast j 0)) then some ⟨cORDER, false, natW m.ts⟩
  else none

/-- A message is accepted: its sender's last timestamp, its place in the queue, the wake event (R37, R38, R47). -/
def accept (s : State) (c : Nat) (m : Msg) : State :=
  let k := getCore s c
  let ordered := m.kind == .evtick || (m.kind == .msgt && classOrdered k m.cls)
  let s := onCore s c fun k => { k with
    senderLast := if ordered then (senderSlots k m.chn m.src.core).foldl (fun l j => mapSet l j m.ts) k.senderLast else k.senderLast
    queues := if m.kind == .evtick then k.queues else mapSet k.queues m.chn (chanQueue k m.chn ++ [m]) }
  if m.kind == .evtick then s else wakeAll s c 0

/-- A message reaches a core of the package (R38): accepted or refused. An error message that finds no launch or no VALID class is discarded
(R261). -/
def receive (s : State) (c : Nat) (m : Msg) : State :=
  if m.kind == .error then
    if absent s c || !resident s c || !classValid (getCore s c) m.cls then s else accept s c m
  else
    let s := unreserve s m
    match refusal s c m with
    | some t => refuse s m t
    | none => accept s c m

/-- An error message waits for room in its queue (R261). -/
def errorWaits (s : State) (c : Nat) (m : Msg) : Bool :=
  m.kind == .error && decide (16 ≤ (chanQueue (getCore s c) m.chn).length + mapGetD (getCore s c).reserved m.chn 0)

/-- A flight may arrive: nothing that the same core sent earlier to the same target is still under way, and the target is awake
(R13, R39, R149, R273). -/
def mayArrive (s : State) (n : Nat) (f : Flight) : Bool :=
  !((s.flights.take n).any fun g => g.src.core = f.src.core && g.dst = f.dst) &&
    (match localCore s f.dst with
      | some c => !asleep s c
      | none => true)

/-- The latest speculative task of a core in commit order. -/
def latestSpec (k : Core) : Option (Nat × Task) :=
  k.ctxs.foldl (fun best p =>
    match p.2.task with
    | some t =>
      if isSpec p.2 then
        match best with
        | none => some (p.1, t)
        | some b => if commitBefore k b.2.msg t.msg then some (p.1, t) else best
      else best
    | none => best) none

/-- The queued ordered message of a core that is first in commit order. -/
def firstQueued (k : Core) : Option Msg :=
  (k.queues.flatMap fun p => p.2.filter fun m => msgOrdered k m).foldl (fun best m =>
    match best with
    | none => some m
    | some b => if commitBefore k m b then some m else best) none

/-- Take the first message of a queue that equals this one. -/
def takeMsg (l : List Msg) (m : Msg) : List Msg :=
  match l with
  | [] => []
  | q :: r => if q = m then r else q :: takeMsg r m

/-- A queued message is dispatched into a helper, and its channel is the last granted of its priority (R39, R40). One from another die is acquired (R144). -/
def dispatchMsg (s : State) (c h : Nat) (m : Msg) : State :=
  let s := onCore s c fun k => { k with
    queues := mapSet k.queues m.chn (takeMsg (chanQueue k m.chn) m), lastGrant := mapSet k.lastGrant (chanPrio k m.chn) m.chn }
  let s := match localCore s m.src.core with
    | some d => if dieOf d = dieOf c then s else acquireDie s (dieOf c)
    | none => acquireDie s (dieOf c)
  taskStart s ⟨c, h⟩ m

/-- R46: with no helper free, the latest speculative task gives way to an earlier queued ordered message: its own message returns to the head of its queue,
and the earlier one is dispatched into the freed helper. The queue may then hold more than the 16 entries of R37 (DESIGN CHOICE, log 44: R46 does not say
what happens when they are taken or reserved). -/
def reclaim (s : State) (c : Nat) : State :=
  let k := getCore s c
  if (freeHelper s c).isSome then s
  else match firstQueued k, latestSpec k with
    | some m, some (x, t) =>
      if commitBefore k m t.msg then
        let id : CtxId := ⟨c, x⟩
        let s := onCtx (withdraw s id) id fun z => { ctxOver z .free with task := none }
        let s := onCore s c fun k => { k with queues := mapSet k.queues t.msg.chn ({ t.msg with rolls := t.msg.rolls + 1 } :: chanQueue k t.msg.chn) }
        dispatchMsg s c x m
      else s
    | _, _ => s

/-- A message flight ends at its target: kept by a pair until its checkpoint, refused when the target is not there, else received
(R38, R46, R256, R279). -/
def messageEnds (s : State) (n : Nat) (f : Flight) (m : Msg) : State :=
  let s := { s with flights := listDel s.flights n }
  match localCore s f.dst with
  | none => if goesOut s f.dst then sendOut s f.src.core f.dst else if m.kind == .error then s else refuse s m (msgErr f.dst)
  | some c =>
    let c := viewCore s c
    match (getCore s c).twin with
    | some _ => onCore s c fun k => { k with twin := k.twin.map fun t => { t with kept := t.kept ++ [.msg m] } }
    | none => reclaim (receive s c m) c

/-- A message arrival event for the kinds of `want` (R38). -/
def messageEvent (want : MsgKind → Bool) (n : Nat) (s : State) : Host.Outcome State Fault Refusal :=
  match s.flights[n]? with
  | none => .next s
  | some f =>
    match f.cargo with
    | .msg m =>
      if !want m.kind || !mayArrive s n f || (match localCore s f.dst with
          | some c => errorWaits s (viewCore s c) m
          | none => false) then .next s
      else .next (messageEnds s n f m)
    | _ => .next s

/-- MESSAGE_ARRIVAL (R38). -/
def execMessageArrival (n : Nat) (s : State) : Host.Outcome State Fault Refusal :=
  messageEvent (fun k => k == .msg || k == .msgt || k == .error) n s

/-- EVTICK_ARRIVAL (R38). -/
def execEvtickArrival (n : Nat) (s : State) : Host.Outcome State Fault Refusal := messageEvent (fun k => k == .evtick) n s

/-- CALLAT_ARRIVAL (R38, R41). -/
def execCallatArrival (n : Nat) (s : State) : Host.Outcome State Fault Refusal := messageEvent (fun k => k == .callat) n s

/-- A call is no longer awaited. -/
def callOver (x : Ctx) (call : Nat) : Ctx := { x with awaiting := x.awaiting.filter fun a => a.call != call }

/-- The value of a call lands in its register, or the call is over without one (R41). -/
def landCall (x : Ctx) (call : Nat) (v : Option W64) : Ctx :=
  match x.awaiting.find? fun a => a.call = call, v with
  | some a, some w => { setReg (callOver x call) a.reg (dataReg w) with wake := x.wake ||| 4 }
  | _, _ => callOver x call

/-- Both cores of a pair have executed as much (R256). -/
def inStep (s : State) (c : Nat) : Bool :=
  match (getCore s c).twin with
  | none => true
  | some t => match (getCore s t.partner).twin with
    | some u => t.total == u.total
    | none => true

/-- A pair takes the outcome of a call at one count of retired instructions, and again at that count after a rollback (R256, R259). -/
def landInPair (s : State) (c call : Nat) (v : Option W64) : State :=
  let put := fun (s : State) (d : Nat) =>
    let s := onCtx s ⟨d, 0⟩ fun x => landCall x call v
    onCore s d fun k => { k with twin := k.twin.map fun t => { t with lands := t.lands.take t.landed ++ ⟨t.retired, call, v⟩ :: t.lands.drop t.landed, landed := t.landed + 1 } }
  match (getCore s c).twin with
  | some t => put (put s c) t.partner
  | none => s

/-- The outcome of a call reaches its caller, with the token's part (R41). -/
def callReturns (s : State) (f : Sender) (call : Nat) (v : Option W64) (err : Option Trap) : State :=
  let asks := fun x : Ctx => x.awaiting.find? fun a => a.call = call
  let kept := s.saved.flatMap fun q => q.cores.filter fun k => savedUse k f
  let tok : Option Await := match findSender s f with
    | some id => asks (getCtx s id)
    | none => kept.findSome? fun k => (mapGet k.core.ctxs f.cx).bind asks
  match tok with
  | none => s
  | some a =>
    let s := match (findSender s f).bind fun id => (getCore s id.core).twin.map fun _ => id.core with
      | some c => landInPair s c call v
      | none => onPair s f fun x => landCall x call v
    tokenDoneFor s f a.tok err

/-- The core of a sender is in step with its partner, if it has one. -/
def senderInStep (s : State) (f : Sender) : Bool :=
  match findSender s f with
  | some id => inStep s id.core
  | none => true

/-- REFUSAL_RETURN (R38, R41, R238): the sender takes its fault deferred; a refused call is over, a refused arrival leaves its barrier idle. -/
def execRefusalReturn (n : Nat) (s : State) : Host.Outcome State Fault Refusal :=
  match s.refused[n]? with
  | none => .next s
  | some r =>
    if !senderInStep s r.dst then .next s
    else
      let s := { s with refused := listDel s.refused n }
      let s := match r.call with
        | some c => callReturns s r.dst c none none
        | none => s
      let s := match r.bar with
        | some b => onPair s r.dst (idleBar b)
        | none => s
      .next (deferTo s r.dst r.trap none)

/-- A register in the chrysalis area of a launch, of the context that a sender names, takes a value without a tag (R41, R251); a core outside the launch's
range has no area. -/
def landArea (l : Launch) (f : Sender) (r : Nat) (v : W64) : M Unit := do
  if !decide (dBase l.desc ≤ f.core) || !decide (f.core < dBase l.desc + dCount l.desc) then return
  else
    let c := f.core % 1024
    let at_ := areaOf l.desc f.core + 0x100000 + f.cx * 0x4000
    let n := ofBytes (← areaRead l.queue c (at_ + 0x200) 8 9)
    areaWrite l.queue c (at_ + 0x200) (toBytes (if n / 2 ^ r % 2 = 1 then n - 2 ^ r else n) 8) 9
    areaWrite l.queue c (at_ + 16 * r) (toBytes v.toNat 16) 17

/-- A call's register in the chrysalis area of a caller whose launch is saved takes the value there, in a pair in both cores' areas (R41, R251, R256). A page
that can no longer be written takes nothing; none while the write must wait. -/
def landSaved (s : State) (f : Sender) (call : Nat) (v : W64) : Option State :=
  let held := s.saved.filter fun q => q.cores.any fun k => savedUse k f
  let regs := held.flatMap fun q => q.cores.flatMap fun k =>
    if savedUse k f then (((mapGet k.core.ctxs f.cx).map fun x => x.awaiting.filter fun a => a.call = call && a.reg != 0).getD []).map fun a => a.reg.toNat
    else []
  match held.head?.bind fun q => s.launches.find? fun l => l.id = q.id, regs with
  | some l, r :: _ =>
    let act : M Unit := do
      landArea l f r v
      match savedTwin s f with
      | some t => landArea l t.2 r v
      | none => return
    match act s with
    | .ok _ z => some z
    | .error (.trap _) _ => some s
    | .error _ _ => none
  | _, _ => some s

/-- CALLAT_DEPOSIT (R41, R144): the value lands in the caller's register and its token loses the call; a call whose callee failed leaves its
error. From another die it is an acquire. -/
def execCallatDeposit (n : Nat) (s : State) : Host.Outcome State Fault Refusal :=
  match s.deposits[n]? with
  | none => .next s
  | some d =>
    if !senderInStep s d.dst then .next s
    else match (match d.val with
        | some v => landSaved s d.dst d.call v
        | none => some s) with
      | none => .next s
      | some s =>
        let s := { s with deposits := listDel s.deposits n }
        let s := match localCore s d.dst.core with
          | some c => if dieOf c = dieOf (d.callee % 1024) && d.callee / 1024 = s.device then s else acquireDie s (dieOf c)
          | none => s
        .next (callReturns s d.dst d.call d.val (if d.val.isSome then none else some (msgErr d.callee)))

/-- Bytes of a cell memory with some bits replaced. -/
def patchCell (s : State) (c off : Nat) (l : List (Byte × Byte)) (by_ : Option CtxId) : State :=
  cellPut s c off (patchBytes (memReads (getCore s c).cell off l.length) l) none by_

/-- REMOTE_STORE_ARRIVAL (R45, R107, R129, R252): a store reaches its target core, or is refused. A pair keeps it until its checkpoint. -/
def execRemoteStoreArrival (n : Nat) (s : State) : Host.Outcome State Fault Refusal :=
  match s.flights[n]? with
  | none => .next s
  | some f =>
    let run := fun (off len : Nat) (keep : Kept) (put : State → Nat → State) =>
      if !mayArrive s n f then s
      else
        let s := { s with flights := listDel s.flights n }
        let no := { s with refused := s.refused ++ [⟨f.src, msgErr f.dst, none, none⟩] }
        match localCore s f.dst with
        | none => if goesOut s f.dst then sendOut s f.src.core f.dst else no
        | some c =>
          if !accepts s f.dst || undoLog s f.dst off len then no
          else match (getCore s c).twin with
            | none => put s c
            | some _ => onCore s (viewCore s c) fun k => { k with twin := k.twin.map fun t => { t with kept := t.kept ++ [keep] } }
    match f.cargo with
    | .store off l cap => .next (run off l.length (.store f.src off l cap) fun s c => cellPut s c off l cap none)
    | .patch off l => .next (run off l.length (.patch f.src off l) fun s c => patchCell s c off l none)
    | _ => .next s

/-- A store that meets a bad sector leaves it recorded and poisoned (R115). -/
def storeDone (r : EStateM.Result Stop State Unit) (pa : Nat) : Option State :=
  match r with
  | .ok _ s => some s
  | .error (.trap t) s => some (poisonWith s pa t none)
  | .error _ _ => none

/-- An entry of a sender's store buffer, the `n`th to enter it, reaches global memory (R119, R147, R148). -/
def storeGlobal (s : State) (f : Sender) (n die pa : Nat) (l : List Byte) (uc : Bool) (key : Nat) (cap : Option Bool) (rel : Option Nat) :
    Option State :=
  storeDone ((do
    match rel with
    | some sc => releaseAt f n die sc
    | none => pure ()
    physWrite die pa l uc key cap (decide (2 ≤ rel.getD 0))) s) pa

/-- Some bits of bytes of global memory (R351). -/
def patchGlobal (s : State) (die pa : Nat) (uc : Bool) (key : Nat) (l : List (Byte × Byte)) : Option State :=
  storeDone (physPatch die pa l uc key none false s) pa

/-- The oldest entry leaves for a core number; a message or arrival is a release at the narrowest scope that holds both ends (R144, R239). -/
def launchFlight (s : State) (c : Nat) (src : Sender) (dst : Nat) (g : Cargo) (releases : Bool) : Option State :=
  let sc := scopeTo s c dst
  match (if releases then releaseAt src (getCore s c).left (dieOf c) sc else pure ()) s with
  | .ok _ s => some { s with flights := s.flights ++ [⟨src, dst, g, decide (sc < 2)⟩] }
  | .error _ _ => none

/-- Some bits of the bytes at a place, for a sender of a core; none while the store must wait (R351). -/
def patchAt (s : State) (c : Nat) (src : Sender) (p : Place) (l : List (Byte × Byte)) : Option State :=
  match p with
  | .cell d o => if d = coreNum s c then some (patchCell s c o l (findUse s src)) else launchFlight s c src d (.patch o l) false
  | .phys pa uc key => patchGlobal s (dieOf c) pa uc key l
  | .engine _ => some s

/-- What the oldest entry of a store buffer does when it leaves; none while it must wait (R127 to R129, R137, R138). -/
def performEntry (s : State) (c : Nat) (e : BufEntry) : Option State :=
  let num := coreNum s c
  let by_ := findUse s e.src
  match e.kind with
  | .store (.cell d o) l cap _ =>
    if d = num then some (cellPut s c o l cap by_) else launchFlight s c e.src d (.store o l cap) false
  | .store (.phys pa uc key) l cap rel => storeGlobal s e.src (getCore s c).left (dieOf c) pa l uc key cap rel
  | .store (.engine o) l _ _ => engineWrite s false o (natW (ofBytes l))
  | .patch p l => patchAt s c e.src p l
  | .split p l q m => (patchAt s c e.src p l).bind fun s => patchAt s c e.src q m
  | .msg m => launchFlight s c e.src m.dst (.msg m) true
  | .arrive n count home => launchFlight s c e.src home (.arrive n count) true
  | .wing _ blk filled =>
    match filled with
    | none => none
    | some m => some (m.foldl (fun s b => cellPut s c (blk * 64 + b.1) [b.2] none by_) s)

/-- The next block of a BPST that holds the tail takes the place that has come free (R128). -/
def advanceTail (k : Core) : Core :=
  match k.tail with
  | none => k
  | some t =>
    match t.blocks with
    | [] => { k with tail := none }
    | b :: r => { k with
        buf := k.buf ++ [⟨t.src, .wing t.op b.1 b.2⟩]
        tail := if r.isEmpty then none else some { t with blocks := r } }

/-- The core that sent what a pair keeps until its checkpoint, when it left a store buffer. -/
def keptSender (k : Kept) : Option Nat :=
  match k with
  | .store f _ _ _ => some f.core
  | .patch f _ _ => some f.core
  | .msg m => if m.kind == .error then none else some m.src.core
  | .elem _ _ _ => none

/-- What a core sent in die order to another core of its die is not performed there yet: it is on its way, or a pair keeps it until its checkpoint
(R138, R256). -/
def dieOrderWaits (s : State) (core : Nat) : Bool :=
  let num := coreNum s core
  s.flights.any (fun g => g.inDie && g.src.core = num) ||
    s.cores.any fun p => dieOf p.1 == dieOf core && match p.2.twin with
      | some t => t.kept.any fun k => keptSender k == some num
      | none => false

/-- STORE_BUFFER_DRAIN (R127): the oldest entry of a core's store buffer leaves; an entry that takes its place in die order at another core is
performed before the next one leaves (R138). An error that the store meets names its core (R281). -/
def execStoreBufferDrain (core : Nat) (s : State) : Host.Outcome State Fault Refusal :=
  match (getCore s core).buf with
  | [] => .next s
  | e :: r =>
    if dieOrderWaits s core then .next s
    else match performEntry { s with cur := ⟨core, e.src.cx⟩ } core e with
      | none => .next s
      | some z => .next (onCore { z with cur := s.cur } core fun k => advanceTail { k with buf := r, left := k.left + 1 })

/-- A release that a context issued before a RED still stands in its core's store buffer (R145). -/
def behindRelease (s : State) (c : Nat) (r : Red) : Bool :=
  let k := getCore s c
  (List.range k.buf.length).any fun j => decide (k.left + j < r.behind) && match k.buf[j]? with
    | some e => e.src = r.src && (releaseScope s c e.kind).isSome
    | none => false

/-- RED_PERFORM (R120, R123, R145, R152): a RED reaches its line behind the earlier stores of its context to the line and behind its releases. -/
def execRedPerform (n : Nat) (s : State) : Host.Outcome State Fault Refusal :=
  match s.reds[n]? with
  | none => .next s
  | some r =>
    let c := r.src.core % 1024
    let die := dieOf c
    match r.place with
    | .phys pa uc key =>
      let own := (getCore s c).buf.any fun e => e.src = r.src && (storeLines e.kind).contains (pa / 128)
      if own || behindRelease s c r then .next s
      else
        let act : M Unit := if isHost pa || uc then redDirect pa r.typ r.op r.val.toNat key
          else if inHbm s pa then redLine (if atHome s die pa uc then homeDie pa else die) pa r.typ r.op r.val.toNat key
          else pure ()
        match act s with
        | .ok _ z => .next { z with reds := listDel z.reds n }
        | .error _ _ => .next s
    | _ => .next { s with reds := listDel s.reds n }

/-- OWNED_WORD_TIMEOUT (R147): a word that its die has owned for 50 microseconds since its last store is written back. -/
def execOwnedWordTimeout (die word : Nat) (s : State) : Host.Outcome State Fault Refusal :=
  match farGet s die word with
  | none => .next s
  | some f =>
    if f.owned && decide (f.since.toNat + 50000 ≤ s.mg.time.toNat) && !isLeased s (word * 8) 8 then .next (writeBack s die word) else .next s

/-- The die of a barrier home whose phase has a participant on another die: what happened on that die before the phase is released to the others before
they go on (R239). -/
def wideHome (s : State) (c : Nat) (l : List Sender) : Option Nat :=
  if l.all fun g => match localCore s g.core with
    | some d => dieOf d == dieOf c
    | none => false then none
  else some (dieOf c)

/-- What the cores of a die have sent to other dies has arrived, their REDs are performed, and the die's owned words are written back (R147, R239). -/
def releaseWide (die : Nat) : M Unit := do
  let s ← get
  let on := fun num d : Nat => match localCore s num with
    | some k => dieOf k == d
    | none => false
  await_ (!(s.flights.any fun g => on g.src.core die && !on g.dst die && match g.cargo with
    | .msg m => m.kind != .error
    | _ => true))
  await_ (!(s.reds.any fun r => on r.src.core die))
  releaseDie die

/-- The home counts an arrival (R238): it opens a phase or joins one of equal count; a full phase completes and closes. None refuses it. -/
def countArrival (s : State) (c : Nat) (f : Sender) (n count : Nat) : Option State :=
  let k := getCore s c
  let phase := (mapGet k.barHome n).getD ⟨count, []⟩
  if phase.count != count then none
  else
    let l := phase.arrived ++ [f]
    if l.length < count then some (onCore s c fun k => { k with barHome := mapSet k.barHome n ⟨count, l⟩ })
    else
      let s := onCore s c fun k => { k with barHome := mapErase k.barHome n }
      some { s with completions := s.completions ++ l.map fun g => ⟨g, n, wideHome s c l⟩ }

/-- BARRIER_ARRIVAL (R236, R238). -/
def execBarrierArrival (n : Nat) (s : State) : Host.Outcome State Fault Refusal :=
  match s.flights[n]? with
  | none => .next s
  | some f =>
    match f.cargo with
    | .arrive b count =>
      if !mayArrive s n f then .next s
      else
        let s := { s with flights := listDel s.flights n }
        let no := { s with refused := s.refused ++ [⟨f.src, msgErr f.dst, none, some b⟩] }
        match localCore s f.dst with
        | none => if goesOut s f.dst then .next (sendOut s f.src.core f.dst) else .next no
        | some c => if absent s c || !resident s c then .next no else .next ((countArrival s c f.src b count).getD no)
    | _ => .next s

/-- BARRIER_COMPLETION (R237, R239, R47): a completion reaches a context of the phase. In a pair both cores take it. -/
def execBarrierCompletion (n : Nat) (s : State) : Host.Outcome State Fault Refusal :=
  match s.completions[n]? with
  | none => .next s
  | some b =>
    match (match b.wide with
      | some d => releaseWide d
      | none => pure ()) s, senderInStep s b.dst with
    | .error _ _, _ => .next s
    | _, false => .next s
    | .ok _ s, true =>
      let s := { s with completions := listDel s.completions n }
      let done := fun x : Ctx => { x with bar := vecModify x.bar b.bar fun z => if z.st == .waiting then { z with st := .done } else z }
      .next (onUse (onPair s b.dst done) b.dst fun x => { x with wake := x.wake ||| 16 })

end Sys2Proof.Machine
end

