-- ==== Sys2Proof/Machine/BitPlane.lean ====
section
/-! DEFINITION. Bit-plane arrays: field descriptors, the checks at issue, what each array operation does to the rows, and the array
instructions (R94 to R97, R125, R128, R133 to R135, R210 to R235, R285, R299 to R312, R393). -/

namespace Sys2Proof.Machine

/-- ROW (R213). -/
def fdRow (w : W64) : Nat := bits w 8 0
/-- W (R213). -/
def fdW (w : W64) : Nat := bits w 13 9 + 1
/-- SGN (R213). -/
def fdSgn (w : W64) : Bool := bitAt w 14
/-- SA0 (R213). -/
def fdSa0 (w : W64) : Nat := bits w 21 16
/-- The number of addressed sub-arrays (R213). -/
def fdSubs (w : W64) : Nat := bits w 27 22 + 1
/-- PEN (R213). -/
def fdPen (w : W64) : Bool := bitAt w 28
/-- PROW (R213). -/
def fdProw (w : W64) : Nat := bits w 37 29
/-- CROW (R213). -/
def fdCrow (w : W64) : Nat := bits w 46 38
/-- Kc, the decay shift of class c (R213). -/
def fdK (w : W64) (c : Nat) : Nat := bits w (50 + 4 * c) (47 + 4 * c)

/-- The kinds of array operation, as far as their checks and row sets differ (R214, R224). -/
inductive ArrayKind where
  | two (sat : Bool)
  | copy (sat : Bool)
  | logic
  | compare
  | select
  | setField
  | decay
  | trace
  | reward
  | rows (f : Nat) (keep : Bool)
  | load (pat es : Nat)
  | store (es : Nat)
deriving DecidableEq, Repr, Inhabited

/-- The kind of an array instruction; none for any other. -/
def arrayKind (i : Instr) : Option ArrayKind :=
  match i with
  | .bpadd _ _ _ sat _ => some (.two (sat = 1))
  | .bpsub _ _ _ sat _ => some (.two (sat = 1))
  | .bpmul _ _ _ sat _ => some (.two (sat = 1))
  | .bpcopy _ _ sat _ => some (.copy (sat = 1))
  | .bpand _ _ _ _ _ => some .logic
  | .bpcmp _ _ _ _ _ => some .compare
  | .bpsel _ _ _ _ => some .select
  | .bpset _ _ _ => some .setField
  | .bpdecay _ _ => some .decay
  | .trstep _ _ _ _ => some .trace
  | .bpmacc _ _ _ _ => some .reward
  | .bprow _ _ _ f keep _ => some (.rows f.toNat (keep = 1))
  | .bpld _ _ es pat _ => some (.load pat.toNat es.toNat)
  | .bpst _ _ es _ => some (.store es.toNat)
  | _ => none

/-- An operation that can set flags (R214). -/
def setsFlags (k : ArrayKind) : Bool :=
  match k with
  | .two sat => sat
  | .copy sat => sat
  | .decay => true
  | .trace => true
  | .reward => true
  | _ => false

/-- An operation that writes rows (R224). -/
def writesRows (k : ArrayKind) : Bool :=
  match k with
  | .store _ => false
  | .rows f _ => f != 7
  | _ => true

/-- Rows of a field of `n` rows from `r` on. -/
def rowsFrom (r n : Nat) : List Nat := (List.range n).map fun j => r + j

/-- The source rows of an operation, the predicate and class rows aside (R224). -/
def sourceRows (k : ArrayKind) (d a b : W64) : List Nat :=
  let fa := rowsFrom (fdRow a) (fdW a)
  let fb := rowsFrom (fdRow b) (fdW b)
  let fd := rowsFrom (fdRow d) (fdW d)
  match k with
  | .two _ => fa ++ fb
  | .copy _ => fa
  | .logic => fa ++ fb
  | .compare => fa ++ fb
  | .select => fa ++ fb
  | .setField => []
  | .decay => fd
  | .trace => fd ++ fa ++ fb
  | .reward => fd ++ fa
  | .rows f _ => if f = 6 then [] else rowsFrom (fdRow a) (fdW d) ++ rowsFrom (fdRow b) (fdW d)
  | .load _ _ => []
  | .store _ => fd

/-- Every row an operation reads (R224). -/
def readRows (k : ArrayKind) (d a b : W64) : List Nat :=
  sourceRows k d a b ++ (if fdPen d then [fdProw d] else []) ++
    (match k with
      | .decay => [fdCrow d, fdCrow d + 1]
      | .trace => [fdCrow d, fdCrow d + 1]
      | _ => [])

/-- Every row an operation writes: its destination, and the FLAG group when it can set flags (R224). -/
def writeRows (k : ArrayKind) (d : W64) : List Nat :=
  (if writesRows k then rowsFrom (fdRow d) (fdW d) else []) ++ (if setsFlags k then [511] else [])

/-- The row groups of rows; ZERO and ONE belong to none (R133, R210). Read sets leave them out too (DESIGN CHOICE, log 80: R210 names the purposes of
R134 alone). -/
def rowGroups (l : List Nat) : List Nat := ((l.filter fun r => r != 508 && r != 509).map fun r => r / 16).eraseDups

/-- ILLOP by R214 and by the instruction's own widths and signedness; `g` is the number of gang members. -/
def fieldIll (k : ArrayKind) (d a b : W64) (g : Nat) : Bool :=
  let long := fun w : W64 => decide (512 < fdRow w + fdW w)
  let span := fun w : W64 => decide (512 < fdRow w + fdW d)
  let own := match k with
    | .two _ => long a || long b
    | .copy _ => long a
    | .logic => long a || long b || fdW a != fdW d || fdW b != fdW d
    | .compare => long a || long b || fdW d != 1
    | .select => long a || long b || !fdPen d
    | .setField => false
    | .decay => fdW d != 16 || !fdSgn d || decide (510 < fdCrow d)
    | .trace => long a || long b || fdW d != 16 || !fdSgn d || decide (510 < fdCrow d) || fdW a != 1 || fdW b != 16 || !fdSgn b
    | .reward => long a || fdW d != 24 || !fdSgn d || fdW a != 16 || !fdSgn a || bits b 63 21 != 0
    | .rows f _ => span a || span b || f == 7 && fdW d != 1
    | .load _ _ => false
    | .store _ => false
  let dest := rowsFrom (fdRow d) (fdW d)
  bitAt d 63 || bitAt d 15 || (!(k == .decay || k == .trace) && bits d 63 38 != 0) || long d ||
    decide (16 * g < fdSa0 d + fdSubs d) ||
    (writesRows k && (dest.contains 508 || dest.contains 509)) || (setsFlags k && dest.contains 511) || own

/-- Members of the executing front's gang (R214). -/
def gangSize : M Nat := do
  let s ← get
  return (wingsOf s (← mySite)).length

/-- Sub-array `q` of a front: its wing site and its number there; the good half of each member supplies eight of a composite (R20, R210). -/
def subPlace (s : State) (site q : Nat) : Nat × Nat :=
  match (wingsOf s site).getD (q / 16) [] with
  | [t] => (t, q % 16)
  | w =>
    let t := w.getD (q % 16 / 8) 0
    (t, (if (getWing s t).health = .halfB then 8 else 0) + q % 8)

/-- The addressed sub-arrays of a descriptor, in order, as far as the binding in force has them. -/
def subsOf (s : State) (site : Nat) (d : W64) : List (Nat × Nat) :=
  ((List.range (fdSubs d)).filter fun j => fdSa0 d + j < 16 * (wingsOf s site).length).map fun j => subPlace s site (fdSa0 d + j)

/-- Those of them in one member wing: the place among the addressed ones, the site and the number there. -/
def partSubs (s : State) (site : Nat) (d : W64) (wing : List Nat) : List (Nat × Nat × Nat) :=
  let l := subsOf s site d
  ((List.range l.length).map fun j => (j, l.getD j (0, 0))).filter fun e => wing.contains e.2.1

/-- A row as it reads (R210). -/
def rowGet (w : Wing) (sub r : Nat) : BitVec 512 :=
  if r = 508 then 0 else if r = 509 then BitVec.allOnes 512 else mapGetD w.rows (sub * 512 + r) 0

/-- Write a row. An uncorrectable row that is written in every column is good again (DESIGN CHOICE, log 70: R232 does not say). -/
def rowPut (w : Wing) (sub r : Nat) (v : BitVec 512) (whole : Bool) : Wing :=
  { w with
    rows := if v = 0 then mapErase w.rows (sub * 512 + r) else mapSet w.rows (sub * 512 + r) v
    badRows := if whole then setDel w.badRows (sub * 512 + r) else w.badRows }

/-- A column's bits in a list of rows, lowest row first, as a number. -/
def colBits (l : List (BitVec 512)) (c : Nat) : Nat :=
  match l with
  | [] => 0
  | r :: t => (if r.getLsbD c then 1 else 0) + 2 * colBits t c

/-- A field value extended by its sign (R211). -/
def extField (sg : Bool) (w v : Nat) : Int := if sg then sxInt v w else (v : Int)

/-- The value of a field in one column. -/
def fieldVal (w : Wing) (sub : Nat) (f : W64) (c : Nat) : Int :=
  extField (fdSgn f) (fdW f) (colBits ((rowsFrom (fdRow f) (fdW f)).map (rowGet w sub)) c)

/-- The bits of 512 columns as a row. -/
def rowOf (f : Nat → Bool) : BitVec 512 := BitVec.ofNat 512 ((List.range 512).foldr (fun c a => (if f c then 1 else 0) + 2 * a) 0)

/-- A column is active (R215). -/
def colActive (w : Wing) (sub : Nat) (d : W64) (c : Nat) : Bool := !fdPen d || (rowGet w sub (fdProw d)).getLsbD c

/-- The result of a column, and whether it sets the flag (R217, R218, R227, R228). `old` holds the elements that BPLD has read. -/
def colResult (i : Instr) (d a b : W64) (w : Wing) (sub c elem : Nat) : Int × Bool :=
  let va := fieldVal w sub a c
  let vb := fieldVal w sub b c
  let sat := fun (on : Bool) (x : Int) =>
    if on then
      let lo : Int := if fdSgn d then -((2 ^ (fdW d - 1) : Nat) : Int) else 0
      let hi : Int := if fdSgn d then (2 ^ (fdW d - 1) : Nat) - 1 else (2 ^ fdW d : Nat) - 1
      let y := max lo (min x hi)
      (y, y != x)
    else (x, false)
  let cl := colBits [rowGet w sub (fdCrow d), rowGet w sub (fdCrow d + 1)] c
  match i with
  | .bpadd _ _ _ s _ => sat (s = 1) (va + vb)
  | .bpsub _ _ _ s _ => sat (s = 1) (va - vb)
  | .bpmul _ _ _ s _ => sat (s = 1) (va * vb)
  | .bpcopy _ _ s _ => sat (s = 1) va
  | .bpand _ _ _ f _ =>
    let x := colBits ((rowsFrom (fdRow a) (fdW a)).map (rowGet w sub)) c
    let y := colBits ((rowsFrom (fdRow b) (fdW b)).map (rowGet w sub)) c
    let all := 2 ^ fdW d - 1
    (((match f.toNat with
      | 0 => x &&& y
      | 1 => x ||| y
      | 2 => x ^^^ y
      | 3 => all ^^^ (x ||| y)
      | _ => x &&& (all ^^^ y) : Nat) : Int), false)
  | .bpcmp _ _ _ cond _ =>
    let h : Bool := match cond.toNat with
      | 0 => decide (va = vb)
      | 1 => decide (va ≠ vb)
      | 2 => decide (va < vb)
      | 3 => decide (vb ≤ va)
      | 4 => decide (va ≤ vb)
      | _ => decide (vb < va)
    (if h then 1 else 0, false)
  | .bpsel _ _ _ _ => (if (rowGet w sub (fdProw d)).getLsbD c then va else vb, false)
  | .bpset _ _ _ => ((b.toNat : Int), false)
  | .bpdecay _ _ => traceStep (fieldVal w sub d c) (fdK d cl) false 0
  | .trstep _ _ _ _ => traceStep (fieldVal w sub d c) (fdK d cl) ((rowGet w sub (fdRow a)).getLsbD c) vb
  | .bpmacc _ _ _ _ => rewardStep (fieldVal w sub d c) va (sxInt (bits b 15 0) 16) (bits b 20 16)
  | .bpld _ _ es _ _ => (extField (fdSgn d) (8 * 2 ^ es.toNat) elem, false)
  | _ => (0, false)

/-- Write the results of the columns that `on` selects into rows `lo` to `hi` of the destination field, and their flags where `flags` says so (R97,
R215). -/
def putField (w : Wing) (sub : Nat) (d : W64) (lo hi : Nat) (on : Nat → Bool) (res : List (Int × Bool)) (flags : Bool) : Wing :=
  let whole := (List.range 512).all on
  let w := ((List.range (min hi (fdW d))).filter fun b => decide (lo ≤ b)).foldl (fun w b =>
    let old := rowGet w sub (fdRow d + b)
    rowPut w sub (fdRow d + b) (rowOf fun c =>
      if on c then (res.getD c (0, false)).1 / (2 ^ b : Nat) % 2 == 1 else old.getLsbD c) whole) w
  if flags && res.any fun r => r.2 then
    let old := rowGet w sub 511
    rowPut w sub 511 (rowOf fun c => old.getLsbD c || (on c && (res.getD c (0, false)).2)) false
  else w

/-- Set the latches of a sub-array. -/
def putLatch (w : Wing) (sub : Nat) (v : BitVec 512) : Wing :=
  { w with latch := if v = 0 then mapErase w.latch sub else mapSet w.latch sub v }

/-- Clear the latches of columns (R212). -/
def clearLatch (w : Wing) (sub : Nat) (on : Nat → Bool) : Wing :=
  let old := mapGetD w.latch sub 0
  putLatch w sub (rowOf fun c => !on c && old.getLsbD c)

/-- The latches of columns hold free values: an operation that is not BPROW stands between two of its row steps (R231, R232; log 31). -/
def mixLatch (mark site : Nat) (w : Wing) (sub : Nat) (on : Nat → Bool) : Wing :=
  let old := mapGetD w.latch sub 0
  putLatch w sub (rowOf fun c => if on c then (Config.midLatch mark site sub).getLsbD c else old.getLsbD c)

/-- One step of BPROW: the new latch and the row it writes (R219). -/
def rowStep (f : Nat) (p q c : BitVec 512) : BitVec 512 × Option (BitVec 512) :=
  let maj := fun x y z : BitVec 512 => (x &&& y) ||| (x &&& z) ||| (y &&& z)
  match f with
  | 0 => (c, some (p &&& q))
  | 1 => (c, some (~~~(p ||| q)))
  | 2 => (c, some (p ||| q))
  | 3 => (c, some (p ^^^ q))
  | 4 => (maj p q c, some (p ^^^ q ^^^ c))
  | 5 => (maj p (~~~q) c, some (p ^^^ ~~~q ^^^ c))
  | 6 => (c, some c)
  | _ => (p, none)

/-- `n` steps of BPROW from step `k` on, in the active columns (R219). -/
def rowSteps (f sub : Nat) (d a b : W64) (mask : BitVec 512) (w : Wing) (k n : Nat) : Wing :=
  match n with
  | 0 => w
  | m + 1 =>
    let c := mapGetD w.latch sub 0
    let r := rowStep f (rowGet w sub (fdRow a + k)) (rowGet w sub (fdRow b + k)) c
    let w := putLatch w sub ((r.1 &&& mask) ||| (c &&& ~~~mask))
    let w := match r.2 with
      | none => w
      | some v => rowPut w sub (fdRow d + k) ((v &&& mask) ||| (rowGet w sub (fdRow d + k) &&& ~~~mask)) (mask == BitVec.allOnes 512)
    rowSteps f sub d a b mask w (k + 1) m

/-- A row is uncorrectable; ZERO and ONE never are (R210, R232). -/
def rowBad (w : Wing) (sub r : Nat) : Bool := r != 508 && r != 509 && w.badRows.contains (sub * 512 + r)

/-- The steps of BPROW before the first that reads an uncorrectable row (R232). -/
def goodSteps (w : Wing) (sub f : Nat) (d a b : W64) : Nat :=
  if f = 6 then fdW d else ((List.range (fdW d)).find? fun k => rowBad w sub (fdRow a + k) || rowBad w sub (fdRow b + k)).getD (fdW d)

/-- The destination rows, from the lowest on, that do not depend on an uncorrectable row in a sub-array (R217 to R219, R232): none under a bad predicate
row, and none where saturation, a comparison or a step of R95 or R96 makes every row depend on every source row. -/
def goodRows (w : Wing) (sub : Nat) (k : ArrayKind) (d a b : W64) : Nat :=
  let first := fun f : W64 => ((List.range (fdW f)).find? fun j => rowBad w sub (fdRow f + j)).getD (fdW d)
  if fdPen d && rowBad w sub (fdProw d) then 0
  else match k with
    | .rows f _ => goodSteps w sub f d a b
    | .two false => min (first a) (first b)
    | .copy false => first a
    | .logic => min (first a) (first b)
    | .select => min (first a) (first b)
    | _ => 0

/-- An operation meets an uncorrectable row among those it reads in a sub-array (R232). -/
def meetsBad (w : Wing) (sub : Nat) (k : ArrayKind) (d a b : W64) : Bool := (readRows k d a b).any (rowBad w sub)

/-- The columns of addressed sub-array `j` whose result an operation writes: those captured at the grant of BPLD and BPST, every one for BPSEL, else the
active ones (R215, R222). -/
def resultCols (op : ArrayOp) (k : ArrayKind) (src : Wing) (sub j : Nat) : BitVec 512 :=
  match k with
  | .load _ _ => rowOf fun c => (mapGet op.cols (512 * j + c)).isSome
  | .store _ => rowOf fun c => (mapGet op.cols (512 * j + c)).isSome
  | .select => BitVec.allOnes 512
  | _ => rowOf (colActive src sub op.d)

/-- What an operation does in addressed sub-array `j`, at `sub` of a wing, in its row steps for the destination rows `lo` to `hi` (R212, R215, R217 to
R219): the rows, its flags, and after the last step the latches. Its operands are those of the wing `src`; `free` numbers the stop behind which the
results of the columns `loose` are free values (R136). BPROW takes its predicate once, `mask`, as the row stands before its first step (DESIGN CHOICE,
log 71: R219 does not say whether a later step sees the predicate row that an earlier one wrote). -/
def subArrayOp (op : ArrayOp) (k : ArrayKind) (w src : Wing) (sub j lo hi : Nat) (flags last : Bool) (mask : BitVec 512) (free : Nat)
    (loose : BitVec 512) : Wing :=
  match k with
  | .rows f keep =>
    let w := if keep || lo != 0 then w else clearLatch w sub fun c => mask.getLsbD c
    rowSteps f sub op.d op.a op.b mask w lo (min hi (fdW op.d) - lo)
  | .store _ => if last then clearLatch w sub fun c => (resultCols op k src sub j).getLsbD c else w
  | _ =>
    let cols := resultCols op k src sub j
    let on := fun c => cols.getLsbD c
    let res := (List.range 512).map fun c =>
      if !on c then (0, false)
      else if loose.getLsbD c then (((Config.resumed free sub c / 2 : Nat) : Int), setsFlags k && Config.resumed free sub c % 2 == 1)
      else colResult op.instr op.d op.a op.b src sub c (mapGetD op.cols (512 * j + c) 0)
    let w := putField w sub op.d lo hi on res flags
    if last then clearLatch w sub on else w

/-- What an operation reads, as read-set entries: one for each row group and member wing of the binding (R225). -/
def opReads (k : ArrayKind) (wings : List (List Nat)) (d a b : W64) : List ReadEntry :=
  wings.flatMap fun w => (rowGroups (readRows k d a b)).map fun g => .group w g

/-- What an operation writes in addressed sub-arrays, as read-set entries. -/
def opWrites (k : ArrayKind) (l : List (Nat × Nat × Nat)) (d : W64) : List ReadEntry :=
  ((l.map fun e => e.2.1).eraseDups).flatMap fun t => (rowGroups (writeRows k d)).map fun g => .group [t] g

/-- Two descriptors address a sub-array in common. -/
def subsMeet (d e : W64) : Bool := decide (fdSa0 d < fdSa0 e + fdSubs e) && decide (fdSa0 e < fdSa0 d + fdSubs d)

/-- A held array operation of the executing task writes a row group, in a sub-array in common, that an operation reads or writes (R230). -/
def meetsHeld (k : ArrayKind) (d a b : W64) : M Bool := do
  let l := rowGroups (readRows k d a b) ++ rowGroups (writeRows k d)
  match (← me).task with
  | none => return false
  | some t => return t.held.any fun e => match e with
    | .array op => match arrayKind op.instr with
      | some q => subsMeet d op.d && (rowGroups (writeRows q op.d)).any l.contains
      | none => false
    | _ => false

/-- The parts of an operation, one for each member wing that it addresses. -/
def newParts (s : State) (site : Nat) (d : W64) : List OpPart :=
  ((wingsOf s site).filter fun w => !(partSubs s site d w).isEmpty).map fun w => { wing := w }

/-- A new array operation of the executing context. -/
def newOp (i : Instr) (d a b : W64) (map : MapReg) (checked : Bool) : M ArrayOp := do
  let s ← get
  let site ← mySite
  let f ← meSender
  return { id := (curCore s).nextOp, src := f, instr := i, d := d, a := a, b := b, map := map, parts := newParts s site d,
           checked := checked, cols := [], out := [] }

/-- An operation that was held is dispatched to the binding then in force (R18). -/
def bindOp (op : ArrayOp) : M ArrayOp := do
  let s ← get
  let site ← mySite
  return { op with parts := newParts s site op.d }

/-- The speculative tasks of an operation's own core that have read what it writes roll back: at once, since what the core presents later the wings grant
later (R45, R134, R229). -/
def rollbackOwn (s : State) (c : Nat) (op : ArrayOp) (writer : Option CtxId) : State :=
  match arrayKind op.instr with
  | some k => if writesRows k then rollbackCore s c (op.parts.flatMap fun p => opWrites k (partSubs s (siteOf s c) op.d p.wing) op.d) writer else s
  | none => s

/-- Present an operation to its wings (R134); one that addresses no sub-array of the binding in force has nothing to do there (log 21). -/
def presentOp (op : ArrayOp) : M Unit := do
  setCore fun k => { k with nextOp := k.nextOp + 1, ops := if op.parts.isEmpty then k.ops else k.ops ++ [{ op with id := k.nextOp }] }
  if op.checked then modify fun s => rollbackOwn s s.cur.core op (some s.cur) else return

/-- What a speculative task does about an array instruction before it takes effect: it stalls on a held one, and records its reads
(R225, R230). -/
def specArray (k : ArrayKind) (d a b : W64) : M Unit := do
  if isSpec (← me) then
    let site ← mySite
    await_ (!(← meetsHeld k d a b))
    recordReads (opReads k (wingsOf (← get) site) d a b)
  else return

/-- Issue an array instruction that touches no memory: dispatched, or held in a speculative task (R216, R230, R285). BPROW SETC writes no row; it is held
like those that do (DESIGN CHOICE, log 72: R230 speaks of instructions that write rows). -/
def arrayBody (i : Instr) (k : ArrayKind) (d a b : W64) : M Unit := do
  let g ← gangSize
  illopIf (fieldIll k d a b g) i
  wingWrite
  let op ← newOp i d a b mapRegReset true
  specArray k d a b
  if isSpec (← me) then holdEffect (.array op) else presentOp op

/-- An array instruction of the form of R216. -/
def arrayIssue (i : Instr) (k : ArrayKind) (y : BitVec 3) (d a b : BitVec 5) (s : State) : Host.Outcome State Fault Refusal :=
  wingIssue i y [d, a, b] [] (do arrayBody i k (← rd d) (← rd a) (← rd b)) s

/-- BPADD (R217, R299). -/
def execBpadd (d a b : BitVec 5) (sat : BitVec 1) (y : BitVec 3) (s : State) : Host.Outcome State Fault Refusal :=
  arrayIssue (.bpadd d a b sat y) (.two (sat = 1)) y d a b s

/-- BPSUB (R217, R311). -/
def execBpsub (d a b : BitVec 5) (sat : BitVec 1) (y : BitVec 3) (s : State) : Host.Outcome State Fault Refusal :=
  arrayIssue (.bpsub d a b sat y) (.two (sat = 1)) y d a b s

/-- BPMUL (R217, R306). -/
def execBpmul (d a b : BitVec 5) (sat : BitVec 1) (y : BitVec 3) (s : State) : Host.Outcome State Fault Refusal :=
  arrayIssue (.bpmul d a b sat y) (.two (sat = 1)) y d a b s

/-- BPMACC (R228, R305). -/
def execBpmacc (d a b : BitVec 5) (y : BitVec 3) (s : State) : Host.Outcome State Fault Refusal :=
  arrayIssue (.bpmacc d a b y) .reward y d a b s

/-- BPAND (R218, R300). -/
def execBpand (d a b : BitVec 5) (fn y : BitVec 3) (s : State) : Host.Outcome State Fault Refusal :=
  arrayIssue (.bpand d a b fn y) .logic y d a b s

/-- BPCMP (R218, R301). -/
def execBpcmp (d a b : BitVec 5) (cond y : BitVec 3) (s : State) : Host.Outcome State Fault Refusal :=
  arrayIssue (.bpcmp d a b cond y) .compare y d a b s

/-- BPSEL (R218, R308). -/
def execBpsel (d a b : BitVec 5) (y : BitVec 3) (s : State) : Host.Outcome State Fault Refusal :=
  arrayIssue (.bpsel d a b y) .select y d a b s

/-- BPSET (R218, R309). -/
def execBpset (d b : BitVec 5) (y : BitVec 3) (s : State) : Host.Outcome State Fault Refusal :=
  arrayIssue (.bpset d b y) .setField y d 0 b s

/-- BPCOPY (R217, R302). -/
def execBpcopy (d a : BitVec 5) (sat : BitVec 1) (y : BitVec 3) (s : State) : Host.Outcome State Fault Refusal :=
  arrayIssue (.bpcopy d a sat y) (.copy (sat = 1)) y d a 0 s

/-- BPDECAY (R227, R303). -/
def execBpdecay (d : BitVec 5) (y : BitVec 3) (s : State) : Host.Outcome State Fault Refusal :=
  arrayIssue (.bpdecay d y) .decay y d 0 0 s

/-- BPROW (R219, R307). -/
def execBprow (d a b : BitVec 5) (f : BitVec 4) (keep : BitVec 1) (y : BitVec 3) (s : State) : Host.Outcome State Fault Refusal :=
  arrayIssue (.bprow d a b f keep y) (.rows f.toNat (keep = 1)) y d a b s

/-- TRSTEP (R227, R393). -/
def execTrstep (d a b : BitVec 5) (y : BitVec 3) (s : State) : Host.Outcome State Fault Refusal :=
  arrayIssue (.trstep d a b y) .trace y d a b s

/-- BPSYNC (R135, R312). -/
def execBpsync (y : BitVec 3) (s : State) : Host.Outcome State Fault Refusal :=
  wingIssue (.bpsync y) y [] [] (do
    let k ← myCore
    let n := match (← me).waiting with
      | some (.bpsync n) => n
      | _ => k.nextOp
    setMe fun x => { x with waiting := some (.bpsync n) }
    await_ (!(k.ops.any fun o => o.id < n))) s

/-- The elements of a map (R221). -/
def mapElems (q : MapReg) : Nat := (List.range (mapNdim q)).foldl (fun p k => p * mapExt q k) 1

/-- The map element of column `j` of `n` under a pattern (R221). -/
def pairElem (pat p n j : Nat) : Nat :=
  match pat with
  | 0 => j
  | 1 => j * p / n
  | _ => j % ext1 p

/-- A pattern whose requirement fails (R221). -/
def patternBad (pat p n : Nat) : Bool :=
  match pat with
  | 0 => decide (p < n)
  | 1 => n % ext1 p != 0
  | _ => false

/-- The address of map element `l` (R221). -/
def rawElemAt (q : MapReg) (l : Nat) : W64 :=
  let idx := splitFlat ((List.range (mapNdim q)).map (mapExt q)) l
  let off : Int := (List.range idx.length).foldl (fun a k => a + idx.getD k 0 * mapStr q k) 0
  toW ((capAddr (mapBase q).bits).toNat + off)

/-- The element address of addressed column `j` of an operation. -/
def colAddr (q : MapReg) (pat : Nat) (d : W64) (j : Nat) : W64 := rawElemAt q (pairElem pat (mapElems q) (512 * fdSubs d) j)

/-- A mesh address with its reserved bits cleared (R102). -/
def plainMesh (a : W64) : W64 :=
  natW (a.toNat - bits a 31 20 * 2 ^ 20 - (if bits a 63 60 = 0xC then bits a 47 42 else bits a 59 42) * 2 ^ 42)

/-- The checks of BPLD and BPST at issue, the base's among them, which look at its space and core alone (R214, R220, R221). -/
def memIll (i : Instr) (k : ArrayKind) (q : MapReg) (d : W64) (pat : Nat) : M Unit := do
  let g ← gangSize
  illopIf (mapBad q || mapFmt q != 15 || q.lift != tagNone || fieldIll k d 0 0 g || patternBad pat (mapElems q) (512 * fdSubs d)) i
  let s ← get
  let base := capAddr (mapBase q).bits
  let mesh := bits base 63 60 == 0xC || bits base 63 60 == 0xD
  illopIf (!mesh) i
  match spaceOf s s.cur.core (plainMesh base) with
  | some (.cell c _) =>
    if c = coreNum s s.cur.core then return
    else if writesRows k then fault cREMOTELD base
    else illop i
  | _ => illopIf (!writesRows k) i

/-- The checks of R104 over the elements of columns, in ascending order; their cell offsets. An address that has left mesh space raises PAGE (R220). -/
def checkCols (q : MapReg) (r pat : Nat) (d : W64) (n : Nat) (k : Access) (l : List Nat) : M (SMap Nat) := do
  match l with
  | [] => return []
  | j :: t =>
    let a := colAddr q pat d j
    let s ← get
    match ← orFault (checkCap s s.cur.core (mapBase q) r a n k) with
    | .cell _ _ =>
      match (← access (mapBase q) r a n k).1 with
      | .cell _ o => return (j, o) :: (← checkCols q r pat d n k t)
      | _ => fault cPAGE a
    | _ => fault cPAGE a

/-- The bytes of columns' elements, read one after another at the operation's place in program order (R122, R125): those read, the latest first, and
whether all are. A pause, or data that have not arrived, leaves the rest for later. -/
def readCols (n : Nat) (l : SMap Nat) (acc : SMap Nat) (count : Nat) : M (SMap Nat × Bool) := do
  match l with
  | [] => return (acc, true)
  | p :: t =>
    if ← pausesAt count then return (acc, false)
    else
      let s ← get
      let b ← tryCatch (do return some (← loadPlace (.cell (coreNum s s.cur.core) p.2) n false)) fun e => match e with
        | .stall => return none
        | e => throw e
      match b with
      | none => return (acc, false)
      | some b => readCols n t ((p.1, ofBytes b) :: acc) (count + 1)

/-- The 64-byte blocks that the elements of the addressed columns touch, ascending (R128). A block outside the core's own cell memory is
numbered beyond it: no store ever fills it. -/
def reservedBlocks (s : State) (q : MapReg) (d : W64) (n : Nat) : List Nat :=
  let blk := fun a : W64 => match spaceOf s s.cur.core a with
    | some (.cell c o) => if c = coreNum s s.cur.core then o / 64 else 2 ^ 14 + a.toNat / 64
    | _ => 2 ^ 14 + a.toNat / 64
  (List.range (512 * fdSubs d)).foldl (fun l j =>
    let a := colAddr q 0 d j
    setAdd (setAdd l (blk a)) (blk (a + natW (n - 1)))) []

/-- Reserve entries for blocks: as many as are free, the rest hold the tail (R128). -/
def reserve (op : Nat) (l : List (Nat × Option (SMap Byte))) : M Unit := do
  let f ← meSender
  setCore fun k =>
    let room := 32 - k.buf.length
    { k with
      buf := k.buf ++ (l.take room).map fun b => ⟨f, .wing op b.1 b.2⟩
      tail := if l.length ≤ room then none else some ⟨op, f, l.drop room⟩ }

/-- The entries that a BPST of a twinned core reserves must find room in its undo log, beside those of earlier ones; a log that is too full for them ends the
interval first (R258; log 75). -/
def reserveUndo (held : List Effect) : M Unit := do
  match (← myCore).twin with
  | none => return
  | some t =>
    let earlier := (t.held.filter fun e => match e with
      | .buf (.wing _ _ _) _ => true
      | _ => false).length
    if decide (t.undo + earlier + held.length ≤ 2048) || t.undo + earlier == 0 then
      setCore fun k => { k with twin := k.twin.map fun w => { w with held := w.held ++ held } }
    else
      setCore fun k => { k with twin := k.twin.map fun w => { w with due := true } }
      stall

/-- Place the reserved entries of a BPST: in the store buffer, or among the held effects of a speculative task or a pair (R128, R230, R258). -/
def placeReserved (op : Nat) (l : List Nat) : M Unit := do
  let k ← myCore
  let x ← me
  let held := l.map fun b => Effect.buf (.wing op b none) false
  if isSpec x then
    match x.task with
    | none => return
    | some t =>
      if t.full || decide (512 < heldCount k + l.length + (if isFirst k t.msg then 0 else 64)) then taskFull
      else setMe fun x => { x with task := x.task.map fun t => { t with held := t.held ++ held } }
  else if k.twin.isSome then reserveUndo held
  else
    await_ k.tail.isNone
    reserve op (l.map fun b => (b, none))

/-- An array operation of a core by its number. -/
def findOp (s : State) (c id : Nat) : Option ArrayOp := (getCore s c).ops.find? fun o => o.id = id

/-- Replace an array operation. -/
def putOp (s : State) (c : Nat) (op : ArrayOp) : State :=
  onCore s c fun k => { k with ops := k.ops.map fun o => if o.id = op.id then op else o }

/-- The map register that BPLD or BPST names. -/
def opMapNum (i : Instr) : Nat :=
  match i with
  | .bpld _ m _ _ _ => m.toNat
  | .bpst _ m _ _ => m.toNat
  | _ => 0

/-- The active addressed columns of an operation, ascending (R215, R222). -/
def activeCols (s : State) (front : Nat) (d : W64) : List Nat :=
  let l := subsOf s front d
  (List.range l.length).flatMap fun j =>
    let p := l.getD j (0, 0)
    let w := getWing s p.1
    let mask := if fdPen d then rowGet w p.2 (fdProw d) else BitVec.allOnes 512
    ((List.range 512).filter fun c => mask.getLsbD c).map fun c => 512 * j + c

/-- The address checks of BPLD or BPST over the columns that its grant captured, and what BPLD reads (R125, R222); none while a part of that is still to
come. -/
def settleBody (op : ArrayOp) : M (Option (SMap Nat)) := do
  let cols := op.cols.map fun p => p.1
  match arrayKind op.instr with
  | some (.load pat es) =>
    let l ← if op.passed then pure op.cols else checkCols op.map (opMapNum op.instr) pat op.d (2 ^ es) accLoad cols
    let done : SMap Nat := op.out.map fun p => (p.1, p.2.toNat)
    let r ← readCols (2 ^ es) (l.drop done.length) done.reverse done.length
    if r.2 then return some r.1.reverse
    else
      modify fun s => putOp s s.cur.core { op with passed := true, cols := l, out := r.1.reverse.map fun p => (p.1, (p.2 : Int)) }
      return none
  | some (.store es) => return some (← checkCols op.map (opMapNum op.instr) 0 op.d (2 ^ es) accArrayStore cols)
  | _ => return some []

/-- Run them as the issuing context, whose later held effects it does not see. -/
def runCheck (s : State) (id : CtxId) (op : ArrayOp) : Option (Except Trap (SMap Nat)) × State :=
  let held := ((getCtx s id).task.map fun t => t.held).getD []
  let hide := onCtx { s with cur := id } id fun x => { x with task := x.task.map fun t => { t with held := [] } }
  let back := fun z : State => { onCtx z id fun x => { x with task := x.task.map fun t => { t with held := held } } with cur := s.cur }
  match settleBody op hide with
  | .ok (some l) z => (some (.ok l), back z)
  | .ok none z => (none, back z)
  | .error (.trap t) z => (some (.error t), back z)
  | .error _ z => (none, back z)

/-- The issuing context waits for the check of an operation. -/
def awaits (s : State) (id : CtxId) (op : Nat) : Bool := (getCtx s id).waiting == some (.array op)

/-- The last wing has granted BPLD or BPST: its addresses are checked, and BPLD reads its elements (R122, R222). -/
def settleOp (s : State) (c : Nat) (op : ArrayOp) : State :=
  match findUse s op.src with
  | none => dropOps s c [op.id]
  | some id =>
    match runCheck s id op with
    | (none, z) => z
    | (some (.ok l), z) =>
      let op := { op with checked := true, cols := l, out := [] }
      let z := rollbackOwn (putOp z c op) c op (some id)
      if awaits z id op.id then onCtx z id fun x => { x with waiting := some (.arrayOk op.id) } else z
    | (some (.error t), z) =>
      let z := dropOps z c [op.id]
      if awaits z id op.id then onCtx z id fun x => { x with waiting := some (.arrayFault t) } else deferTo z op.src t none

/-- The executing context goes on with the checks and reads of an operation whose last wing has granted it. -/
def settleTurn (id : Nat) : M Unit :=
  modify fun s => match findOp s s.cur.core id with
    | some op => if !op.checked && op.parts.all fun p => p.granted then settleOp s s.cur.core op else s
    | none => s

/-- BPLD and BPST go on once their addresses have been checked at the grant of their dispatch slot (R222). -/
def awaitArray (first : M Unit) : M Unit := do
  match (← me).waiting with
  | some (.arrayOk n) =>
    -- the stores of a pair's BPST enter its fingerprint where it retires
    if (← myCore).twin.isSome then await_ (!((← myCore).ops.any fun o => o.id = n)) else return
  | some (.arrayFault t) =>
    setMe fun x => { x with waiting := none }
    throw (.trap t)
  | some (.array n) =>
    settleTurn n
    stall
  | _ => first

/-- Present an operation whose addresses are checked at its grant; its context waits for them (R222). -/
def presentWaiting (op : ArrayOp) : M Unit := do
  let n := (← myCore).nextOp
  presentOp op
  setMe fun x => { x with waiting := some (.array n) }
  stall

/-- BPLD (R125, R220 to R222, R230, R304). -/
def execBpld (d : BitVec 5) (m : BitVec 4) (es : BitVec 2) (pat y : BitVec 3) (s : State) : Host.Outcome State Fault Refusal :=
  let i : Instr := .bpld d m es pat y
  let k : ArrayKind := .load pat.toNat es.toNat
  wingIssue i y [d] [] (awaitArray (do
    let q ← rdM m
    let w ← rd d
    memIll i k q w pat.toNat
    wingWrite
    let op ← newOp i w 0 0 q false
    specArray k w 0 0
    if isSpec (← me) then
      let _ ← checkCols q m.toNat pat.toNat w (2 ^ es.toNat) accLoad (List.range (512 * fdSubs w))
      holdEffect (.array op)
    else presentWaiting op)) s

/-- BPST (R125, R128, R220 to R222, R230, R310). -/
def execBpst (d : BitVec 5) (m : BitVec 4) (es : BitVec 2) (y : BitVec 3) (s : State) : Host.Outcome State Fault Refusal :=
  let i : Instr := .bpst d m es y
  let k : ArrayKind := .store es.toNat
  wingIssue i y [d] [] (awaitArray (do
    let q ← rdM m
    let w ← rd d
    memIll i k q w 0
    let op ← newOp i w 0 0 q false
    specArray k w 0 0
    placeReserved op.id (reservedBlocks (← get) q w (2 ^ es.toNat))
    presentWaiting op)) s

end Sys2Proof.Machine
end

