-- ==== Sys2Proof/Machine/Caps.lean ====
section
/-! DEFINITION. Capability instructions (R321 to R324, R326). -/

namespace Sys2Proof.Machine

/-- CBND (R321). -/
def execCbnd (d a b : BitVec 5) (y : BitVec 3) (s : State) : Host.Outcome State Fault Refusal :=
  issue (.cbnd d a b y) (cyc y) [a, b] [d] false (do
    let c ← rdReg a
    let len ← rd b
    faultIf (!c.tag) cCAPT (natW a.toNat)
    let bt := capBounds c.bits
    let p := (capAddr c.bits).toNat
    let t := p + len.toNat
    faultIf (decide (p < bt.1)) cCAPB (natW p)
    faultIf (decide (bt.2 < (t : Int))) cCAPB (toW bt.2)
    match capExp p t 0 40 with
    | none => fault cCAPB (toW bt.2)
    | some e =>
      let r := capRound p t e
      faultIf (decide (bt.2 < (r.2 : Int))) cCAPB (toW bt.2)
      faultIf (decide (r.1 < bt.1)) cCAPB (natW r.1)
      wrReg d ⟨capMake (capBits c.bits 127 122) e (r.2 / 2 ^ e % 2 ^ 25) (r.1 / 2 ^ e % 2 ^ 25) (natW p), true⟩) s

/-- CPRM (R326). -/
def execCprm (d a b : BitVec 5) (y : BitVec 3) (s : State) : Host.Outcome State Fault Refusal :=
  issue (.cprm d a b y) (cyc y) [a, b] [d] false (do
    let c ← rdReg a
    let keep := bits (← rd b) 5 0
    wrReg d ⟨BitVec.ofNat 128 (c.bits.toNat % 2 ^ 122 + (c.bits.toNat / 2 ^ 122 &&& keep) * 2 ^ 122), c.tag⟩) s

/-- CINC (R324). -/
def execCinc (d a b : BitVec 5) (y : BitVec 3) (s : State) : Host.Outcome State Fault Refusal :=
  issue (.cinc d a b y) (cyc y) [a, b] [d] false (do
    let c ← rdReg a
    let n := capWithAddr c.bits (capAddr c.bits + (← rd b))
    wrReg d ⟨n, c.tag && capBounds c.bits == capBounds n⟩) s

/-- A capability field or a root, by selector (R54). Selector 12 gives PCC itself, with its own bounds and permissions where JR or START has made it a
narrower one than R54's table states (DESIGN CHOICE, log 85). -/
def cgetValue (c : Reg) (pcc : W128) (pc : W64) (sel : Nat) : Reg :=
  match sel with
  | 0 => dataReg (natW (capBounds c.bits).1)
  | 1 => dataReg (toW ((capBounds c.bits).2 - (capBounds c.bits).1))
  | 2 => dataReg (natW (capBits c.bits 127 120))
  | 3 => dataReg (if c.tag then 1 else 0)
  | 4 => dataReg (natW (capBits c.bits 119 114))
  | 8 => capCell
  | 9 => capMesh
  | 10 => capGlobal
  | 11 => capEngine
  | _ => ⟨capWithAddr pcc pc, true⟩

/-- CGET (R54, R323). -/
def execCget (d a : BitVec 5) (sel : BitVec 10) (y : BitVec 3) (s : State) : Host.Outcome State Fault Refusal :=
  issue (.cget d a sel y) (cyc y) [a] [d] false (do
    let x ← me
    wrReg d (cgetValue (← rdReg a) x.pcc (instrPc x) sel.toNat)) s

/-- CCLR (R322). -/
def execCclr (d a : BitVec 5) (y : BitVec 3) (s : State) : Host.Outcome State Fault Refusal :=
  issue (.cclr d a y) (cyc y) [a] [d] false (do wrReg d ⟨(← rdReg a).bits, false⟩) s

end Sys2Proof.Machine
end

