-- ==== Sys2Proof/Machine/Wings.lean ====
section
/-! DEFINITION. What the wings do of themselves: dispatch slots, matrix leases, the completion of array operations and of tile fetches
(R18, R20 to R24, R45, R128, R133, R134, R192, R194, R212, R221, R222, R225, R232, R235, R270). -/

namespace Sys2Proof.Machine

/-- The core at a site, if the core table places one there (R12). -/
def coreAtSite (s : State) (site : Nat) : Option Nat :=
  ((List.range 256).map fun n => site / 272 * 256 + n).find? fun c => siteOf s c = site && !absent s c

/-- The front's cluster grants slots to its wing operations: it has a clock and its budget is not used up (R270, R273). -/
def dispatching (s : State) (front : Nat) : Bool :=
  let k := getCluster s (clusterOf front)
  k.current != 5 && !k.throttled

/-- The core's launch is not saved (R249). -/
def inService (s : State) (c : Nat) : Bool :=
  match (getCore s c).launch with
  | some l => !l.saved
  | none => true

/-- Sub-arrays of a wing site that both operations address (R133, R212). -/
def shareSubs (s : State) (site c d : Nat) (p q : ArrayOp) : Bool :=
  (subsOf s (siteOf s c) p.d).any fun e => e.1 = site && (subsOf s (siteOf s d) q.d).contains e

/-- The operations that a wing has granted before one and that have not completed there; all of them for one that it has not granted (R134). -/
def earlierOps (s : State) (site c : Nat) (op : ArrayOp) : List (Nat × ArrayOp) :=
  ((getWing s site).order.takeWhile fun o => o != (c, op.id)).filterMap fun o => (findOp s o.1 o.2).map fun q => (o.1, q)

/-- An earlier array operation that is not complete writes the row group of the predicate (R134, R222). -/
def predicateBusy (s : State) (c : Nat) (op : ArrayOp) : Bool :=
  fdPen op.d && op.parts.any fun p => p.wing.any fun t => (earlierOps s t c op).any fun q =>
    match arrayKind q.2.instr with
    | some k => shareSubs s t c q.1 op q.2 && (rowGroups (writeRows k q.2.d)).any (rowGroups [fdProw op.d]).contains
    | none => false

/-- A part waits for its wing to grant it; a composite grants at the site of its first half (R20; DESIGN CHOICE, log 21). -/
def partWaits (site : Nat) (p : OpPart) : Bool := p.wing.head? == some site && !p.granted && !p.done

/-- An array operation can take its slot on a wing: the last slot of BPLD or BPST waits for the predicate row (R222). -/
def opReady (s : State) (c : Nat) (op : ArrayOp) (site : Nat) : Bool :=
  op.checked || op.parts.any (fun p => !p.granted && !partWaits site p) || !predicateBusy s c op

/-- The oldest array operation of a core that a wing has not granted (R134). -/
def nextOp (s : State) (c site : Nat) : Option ArrayOp := (getCore s c).ops.find? fun o => o.parts.any (partWaits site)

/-- A dispatched operation of a core waits for a slot of the wing. -/
def nextMark (s : State) (c site : Nat) : Bool := (getCore s c).marks.any fun m => m.site = site && !m.granted

/-- A front has a ready operation for the wing (R23). -/
def frontReady (s : State) (site front : Nat) : Bool :=
  match coreAtSite s front with
  | none => false
  | some c => dispatching s front && inService s c && (nextMark s c site || match nextOp s c site with
    | some o => opReady s c o site
    | none => false)

/-- The first of some fronts in the rotation after a pointer (R23, R24). -/
def rotate (wing ptr : Nat) (l : List Nat) : Option Nat :=
  ((List.range 9).map fun j => (ptr + 1 + j) % 9).findSome? fun code => l.find? fun f => frontCode wing f = code

/-- Grant the oldest waiting mark of a core. -/
def grantMark (l : List WingMark) (site : Nat) : List WingMark :=
  match l with
  | [] => []
  | m :: r => if m.site = site && !m.granted then { m with granted := true } :: r else m :: grantMark r site

/-- The wing grants an array operation its slot (R134). With the last slot of BPLD or BPST its active columns are captured and its addresses are checked; its
context's turns go on with what must still be waited for (R222). -/
def grantOp (s : State) (c site : Nat) (op : ArrayOp) : State :=
  let wing := ((op.parts.find? (partWaits site)).map fun p => p.wing).getD []
  let op := { op with parts := op.parts.map fun p => if partWaits site p then { p with granted := true } else p }
  let last := !op.checked && op.parts.all fun p => p.granted
  let op := if last then { op with cols := (activeCols s (siteOf s c) op.d).map fun j => (j, 0) } else op
  let z := wing.foldl (fun z t => onWing z t fun w => { w with order := w.order ++ [(c, op.id)] }) (putOp s c op)
  if last then settleOp z c op else z

/-- WING_DISPATCH_GRANT (R20 to R23, R134, R222): the wing grants the first ready front after its pointer. A vector or matrix operation of the front takes
the slot before its oldest array operation (DESIGN CHOICE, log 73: R23 does not order a front's ready operations of different kinds). -/
def execWingDispatchGrant (site : Nat) (s : State) : Host.Outcome State Fault Refusal :=
  match rotate site (getWing s site).grantPtr ((nearSites site).filter (frontReady s site)) with
  | none => .next s
  | some f =>
    match coreAtSite s f with
    | none => .next s
    | some c =>
      let point := fun z : State => onWing z site fun w => { w with grantPtr := frontCode site f }
      if nextMark s c site then .next (point (onCore s c fun k => { k with marks := grantMark k.marks site }))
      else match nextOp s c site with
        | none => .next s
        | some op => .next (point (grantOp s c site op))

/-- WING_OPERATION_COMPLETE (R18): a granted vector or matrix operation on the wing completes. -/
def execWingOperationComplete (site n : Nat) (s : State) : Host.Outcome State Fault Refusal :=
  let c := n / 256
  let m := n % 256
  match ((getCore s c).marks)[m]? with
  | some w => if w.site = site && w.granted then .next (onCore s c fun k => { k with marks := listDel k.marks m }) else .next s
  | none => .next s

/-- A requester of a wing's matrix lease whose front may get it now: its front holds no lease of another context (R194). -/
def mayLease (s : State) (f : Sender) : Bool :=
  (findSender s f).isSome && !(s.wings.any fun p => match p.2.lease with
    | some l => l.holder.core = f.core && l.holder != f
    | none => false)

/-- The front of a sender. -/
def frontOf (s : State) (f : Sender) : Nat := siteOf s (f.core % 1024)

/-- MATRIX_LEASE_GRANT (R24, R195): a free wing's lease passes to the next requester in rotation. A request stays with its wing and can be granted there when
BIND takes the wing out of the front's binding meanwhile (DESIGN CHOICE, log 53: R24 and R195 are silent). -/
def execMatrixLeaseGrant (site : Nat) (s : State) : Host.Outcome State Fault Refusal :=
  let w := getWing s site
  let l := w.leaseWait.filter (mayLease s)
  match w.lease with
  | some _ => .next s
  | none =>
    match rotate site w.leasePtr (l.map (frontOf s)) with
    | none => .next s
    | some front =>
      match l.find? fun f => frontOf s f = front with
      | none => .next s
      | some f => .next (putWing s site { w with
          lease := some ⟨f, 0⟩
          leasePtr := frontCode site front
          leaseWait := w.leaseWait.filter fun h => h != f })

/-- Matrix instructions of the lease's holder are under way: on the wing, or part-way at their operands (R194). -/
def leaseBusy (s : State) (site : Nat) (l : MLease) : Bool :=
  (match localCore s l.holder.core with
  | some c => (getCore s c).marks.any fun m => m.site = site && m.isMatrix && m.src = l.holder
  | none => false) ||
  match findSender s l.holder with
  | some id => (getCtx s id).doing.isSome
  | none => false

/-- MATRIX_LEASE_COUNT_END (R194): the lease ends when the 64th matrix instruction issued under it has completed. -/
def execMatrixLeaseCountEnd (site : Nat) (s : State) : Host.Outcome State Fault Refusal :=
  match (getWing s site).lease with
  | some l => if 64 ≤ l.used ∧ leaseBusy s site l = false then .next (onWing s site fun w => { w with lease := none }) else .next s
  | none => .next s

/-- MATRIX_LEASE_IDLE_TIMEOUT (R194): 4,096 wing cycles have passed in which the holder dispatched no matrix instruction. -/
def execMatrixLeaseIdleTimeout (site : Nat) (s : State) : Host.Outcome State Fault Refusal :=
  match (getWing s site).lease with
  | some l => if leaseBusy s site l = false then .next (onWing s site fun w => { w with lease := none }) else .next s
  | none => .next s

/-- An earlier operation on its wing still holds a sub-array that a part addresses (R134, R212). -/
def partBlocked (s : State) (c : Nat) (op : ArrayOp) (p : OpPart) : Bool :=
  p.wing.any fun t => (earlierOps s t c op).any fun q => shareSubs s t c q.1 op q.2

/-- A part runs its row steps: its wing has granted it, the operation's addresses have passed, and its sub-arrays are free of earlier operations. -/
def partRuns (s : State) (c : Nat) (op : ArrayOp) (p : OpPart) : Bool :=
  p.granted && !p.done && op.checked && !partBlocked s c op p

/-- Destination rows that a part can write before a step that reads an uncorrectable row; none when it meets no such row (R232). -/
def badStop (s : State) (l : List (Nat × Nat × Nat)) (op : ArrayOp) (k : ArrayKind) : Option Nat :=
  if l.any fun e => meetsBad (getWing s e.2.1) e.2.2 k op.d op.a op.b then
    some (l.foldl (fun n e => min n (goodRows (getWing s e.2.1) e.2.2 k op.d op.a op.b)) (fdW op.d))
  else none

/-- The rows that a part reads, as they stand: by addressed sub-array * 512 + row. -/
def partRows (s : State) (l : List (Nat × Nat × Nat)) (op : ArrayOp) (k : ArrayKind) : SMap (BitVec 512) :=
  l.foldl (fun m e => (readRows k op.d op.a op.b).foldl (fun m r => mapSet m (e.1 * 512 + r) (rowGet (getWing s e.2.1) e.2.2 r)) m) []

/-- A wing as the operands of a part in addressed sub-array `j`, at `sub`, are read from it: as it stands; but in the columns of a row that no other operation
has changed since the part was stopped, and in a row that its BPST had already read, as the part used it before (R136, R215). -/
def operandWing (w : Wing) (k : ArrayKind) (op : ArrayOp) (p : OpPart) (j sub : Nat) : Wing :=
  if p.begun then
    let past := fun r : Nat => match k with
      | .store _ => decide (fdRow op.d ≤ r) && decide (r < fdRow op.d + p.rows)
      | _ => false
    { w with rows := (readRows k op.d op.a op.b).foldl (fun m r =>
        let now := rowGet w sub r
        let changed := if past r then 0 else now ^^^ mapGetD p.leftAs (j * 512 + r) 0
        let v := (mapGetD p.seen (j * 512 + r) 0 &&& ~~~changed) ||| (now &&& changed)
        if v = 0 then mapErase m (sub * 512 + r) else mapSet m (sub * 512 + r) v) w.rows }
  else w

/-- Each destination row of the operation takes the rows at its own place alone, so that a remaining row step is what R217, R218, R219 and R221 say of the
rows that it finds (R136). -/
def rowByRow (k : ArrayKind) : Bool :=
  match k with
  | .copy sat => !sat
  | .logic => true
  | .select => true
  | .setField => true
  | .rows _ _ => true
  | .load _ _ => true
  | .store _ => true
  | _ => false

/-- The columns of a stopped part whose remaining results are free values: another operation has written a bit there that the part reads, and the spec
gives the row steps of the operation no further (R136; log 31). -/
def looseCols (w : Wing) (k : ArrayKind) (op : ArrayOp) (p : OpPart) (j sub : Nat) : BitVec 512 :=
  if !p.begun || rowByRow k then 0
  else (readRows k op.d op.a op.b).foldl (fun m r => m ||| (rowGet w sub r ^^^ mapGetD p.leftAs (j * 512 + r) 0)) (mapGetD p.loose j 0)

/-- The active columns that BPROW takes before its first step in a sub-array; behind a stop, in the columns of its predicate row that another operation has
changed, as that row then stands (R136). -/
def stepMask (w : Wing) (op : ArrayOp) (p : OpPart) (j sub : Nat) : BitVec 512 :=
  if p.begun then
    let now := rowGet w sub (fdProw op.d)
    let changed := if fdPen op.d then now ^^^ mapGetD p.leftAs (j * 512 + fdProw op.d) 0 else 0
    (mapGetD p.mask j 0 &&& ~~~changed) ||| (now &&& changed)
  else rowOf (colActive w sub op.d)

/-- A part runs its row steps up to destination row `hi`: a stopped part first gets its latches back; `flags` says whether it comes to set its flags, `last`
whether it ends (R136, R212, R231). With `mix` it is left between two row steps, and the latches of its columns are free values then, but for BPROW
(R231, R232; log 31). -/
def runPart (s : State) (l : List (Nat × Nat × Nat)) (op : ArrayOp) (k : ArrayKind) (p : OpPart) (hi : Nat) (flags last : Bool) (mix : Option Nat) :
    State :=
  l.foldl (fun s e => onWing s e.2.1 fun w =>
    let w := if p.begun then putLatch w e.2.2 (mapGetD p.latch e.1 0) else w
    let src := operandWing w k op p e.1 e.2.2
    let z := subArrayOp op k w src e.2.2 e.1 p.rows hi (flags && !p.flagged) last (stepMask w op p e.1 e.2.2) p.mark (looseCols w k op p e.1 e.2.2)
    match mix, k with
    | none, _ => z
    | some _, .rows _ _ => z
    | some mark, _ => mixLatch mark e.2.1 z e.2.2 fun c => (resultCols op k src e.2.2 e.1).getLsbD c) s

/-- The values that a part of BPST reads, by column (R221). -/
def partVals (s : State) (l : List (Nat × Nat × Nat)) (op : ArrayOp) (k : ArrayKind) (p : OpPart) : SMap Int :=
  l.flatMap fun e =>
    let w := operandWing (getWing s e.2.1) k op p e.1 e.2.2
    (op.cols.filter fun c => c.1 / 512 = e.1).map fun c => (c.1, fieldVal w e.2.2 op.d (c.1 % 512))

/-- The elements that BPST stores, in ascending column order: address, cell offset and bytes (R221, R235). -/
def storeElems (op : ArrayOp) (vals : SMap Int) (es : Nat) : List (W64 × Nat × List Byte) :=
  op.cols.map fun p =>
    (colAddr op.map 0 op.d p.1, p.2, toBytes (mapGetD vals p.1 0 % (2 ^ (8 * 2 ^ es) : Nat)).toNat (2 ^ es))

/-- The bytes that BPST writes, by cell offset. Where elements of two columns overlap, those of the higher column remain (DESIGN CHOICE, log 65: R221 names
no order). -/
def storeBytes (l : List (W64 × Nat × List Byte)) : SMap Byte :=
  l.foldl (fun m e => (List.range e.2.2.length).foldl (fun m j => mapSet m (e.2.1 + j) (e.2.2.getD j 0)) m) []

/-- The stores of a twinned core's BPST enter its fingerprint (R257). -/
def crcElems (s : State) (c : Nat) (l : List (W64 × Nat × List Byte)) : State :=
  onCore s c fun k => { k with twin := k.twin.map fun t =>
    { t with crc := l.foldl (fun a e => crcFeed a (toBytes e.1.toNat 8 ++ [BitVec.ofNat 8 e.2.2.length] ++ e.2.2)) t.crc } }

/-- The bytes of one 64-byte block. -/
def blockBytesOf (m : SMap Byte) (blk : Nat) : SMap Byte :=
  (m.filter fun e => e.1 / 64 = blk).map fun e => (e.1 % 64, e.2)

/-- Fill the entries that a BPST has reserved (R128, R221). -/
def fillKind (op : Nat) (m : SMap Byte) (k : BufKind) : BufKind :=
  match k with
  | .wing o blk none => if o = op then .wing o blk (some (blockBytesOf m blk)) else k
  | _ => k

/-- The same among held effects. -/
def fillHeld (op : Nat) (m : SMap Byte) (e : Effect) : Effect :=
  match e with
  | .buf k sh => .buf (fillKind op m k) sh
  | _ => e

/-- A BPST's data reach its entries: in the store buffer and behind its tail, or among held effects; in a twinned pair its own cell memory
takes them at once, with entries of the undo log (R128, R230, R258). -/
def fillStores (s : State) (c op : Nat) (m : SMap Byte) : State :=
  match (getCore s c).twin with
  | some _ =>
    let mine := fun e : Effect => match e with
      | .buf (.wing o _ _) _ => o = op
      | _ => false
    let s := m.foldl (fun s e => cellPut s c e.1 [e.2] none (some ⟨c, 0⟩)) s
    let n := ((m.map fun e => e.1 / 64).eraseDups).length
    onCore s c fun k => { k with twin := k.twin.map fun t =>
      { t with held := t.held.filter fun e => !mine e, undo := t.undo + n, due := t.due || decide (2048 ≤ t.undo + n) } }
  | none =>
    onCore s c fun k => { k with
      buf := k.buf.map fun e => { e with kind := fillKind op m e.kind }
      tail := k.tail.map fun t =>
        { t with blocks := if t.op = op then t.blocks.map fun b => (b.1, some (b.2.getD (blockBytesOf m b.1))) else t.blocks }
      ctxs := k.ctxs.map fun p => (p.1, { p.2 with task := p.2.task.map fun t => { t with held := t.held.map (fillHeld op m) } }) }

/-- Speculative tasks of the other fronts bound to the wings of a bit-plane write that have read what it writes roll back (R45, R225); those of its own
core rolled back when it was presented (rollbackOwn). -/
def rollbackWings (s : State) (c : Nat) (sites : List Nat) (w : List ReadEntry) : State :=
  let fronts := (sites.flatMap fun t => (nearSites t).filter fun f => (members s f).contains t).eraseDups
  ((fronts.filterMap (coreAtSite s)).filter fun d => d != c).foldl (fun s d => rollbackCore s d w none) s

/-- An operation leaves the order of wings (R134). -/
def leaveWings (s : State) (c id : Nat) (sites : List Nat) : State :=
  { s with wings := s.wings.map fun p => (p.1, if sites.contains p.1 then { p.2 with order := p.2.order.filter fun o => o != (c, id) } else p.2) }

/-- Every part of an operation has completed: the data of a BPST reach its entries, and the operation is complete (R133). -/
def finishOp (s : State) (c : Nat) (op : ArrayOp) (k : ArrayKind) : State :=
  let s := onCore s c fun x => { x with ops := x.ops.filter fun o => o.id != op.id }
  match k with
  | .store es =>
    let m := storeElems op op.out es
    fillStores (crcElems s c m) c op.id (storeBytes m)
  | _ => s

/-- A part completes: its rows, and the operation with its last part; or its operation ends with the uncorrectable error that the part met (R133, R134,
R212, R217 to R232). How many of the rows that do not depend on the bad row had been written is a free value, but for BPROW (log 14). -/
def completePart (s : State) (c : Nat) (op : ArrayOp) (k : ArrayKind) (p : OpPart) : State :=
  let l := partSubs s (siteOf s c) op.d p.wing
  let readers := fun s : State => if writesRows k then rollbackWings s c p.wing (opWrites k l op.d) else s
  match badStop s l op k with
  | some n =>
    let n := match k with
      | .rows _ _ => n
      | _ => min (Config.rowsDone s.mg.rechead.toNat) n
    let t : Trap := ⟨cUE, false, natW s.mg.rechead.toNat⟩
    let mark := 2 * s.mg.rechead.toNat
    let s := readers (runPart (putRecord s 1 cUE (siteLoc (p.wing.headD 0)) op.src.core (launchOn s c) []) l op k p n false false (some mark))
    deferTo (dropOps s c [op.id]) op.src t none
  | none =>
    let vals := match k with
      | .store _ => partVals s l op k p
      | _ => []
    let op := { op with
      parts := op.parts.map fun q => if q.wing = p.wing then { q with done := true } else q
      out := vals.foldl (fun m e => mapSet m e.1 e.2) op.out }
    let s := readers (leaveWings (runPart s l op k p (fdW op.d) true true none) c op.id p.wing)
    if op.parts.all fun q => q.done then finishOp s c op k else putOp s c op

/-- A part that runs is stopped between two row steps (R136, R231): how far it had come is a free value (log 31), within what an uncorrectable row leaves it
(R232). A step of BPROW counts whole. The part gives up its sub-arrays and keeps its progress. -/
def stopPart (s : State) (mark c : Nat) (op : ArrayOp) (k : ArrayKind) (n : Nat) (p : OpPart) : State × OpPart :=
  let l := partSubs s (siteOf s c) op.d p.wing
  let v := Config.stopped mark c op.id n
  let hi := max p.rows (min (v / 4 % 33) ((badStop s l op k).getD (fdW op.d)))
  let flagged := p.flagged || (setsFlags k && v / 2 % 2 == 1 && (badStop s l op k).isNone)
  let begun := p.begun || v % 2 == 1 && (match k with
    | .rows _ _ => false
    | _ => true) || hi != 0 || flagged
  if !begun then (s, { p with granted := false })
  else
    let kept := fun f : Wing → Nat × Nat × Nat → BitVec 512 => l.foldl (fun m e => mapSet m e.1 (f (getWing s e.2.1) e)) ([] : SMap (BitVec 512))
    let seen := l.foldl (fun m e => (readRows k op.d op.a op.b).foldl (fun m r =>
      mapSet m (e.1 * 512 + r) (rowGet (operandWing (getWing s e.2.1) k op p e.1 e.2.2) e.2.2 r)) m) []
    let mask := kept fun w e => stepMask w op p e.1 e.2.2
    let loose := kept fun w e => looseCols w k op p e.1 e.2.2
    let s := runPart s l op k p hi flagged false (some (2 * mark + 1))
    (s, { p with
      granted := false
      begun := true
      rows := hi
      flagged := flagged
      mark := mark
      seen := seen
      mask := mask
      loose := loose
      leftAs := partRows s l op k
      latch := l.foldl (fun m e => mapSet m e.1 (mapGetD (getWing s e.2.1).latch e.2.2 0)) [] })

/-- The parts of an operation are stopped in turn. -/
def stopParts (s : State) (mark c : Nat) (op : ArrayOp) (k : ArrayKind) (l : List OpPart) : State × List OpPart :=
  match l with
  | [] => (s, [])
  | p :: r =>
    let q := if partRuns s c op p then stopPart s mark c op k r.length p else (s, { p with granted := false })
    let t := stopParts q.1 mark c op k r
    (t.1, q.2 :: t.2)

/-- The entries that a stopped BPST has filled, in ascending order: a number of its entries in the store buffer that is a free value (R231; log 31). -/
def stopFill (s : State) (mark c : Nat) (op : ArrayOp) (es : Nat) : State :=
  let mine := fun e : BufEntry => match e.kind with
    | .wing o _ none => o == op.id
    | _ => false
  let vals := (op.parts.filter fun p => !p.done).foldl (fun m p => (partVals s (partSubs s (siteOf s c) op.d p.wing) op (.store es) p).foldl (fun m e => mapSet m e.1 e.2) m) op.out
  let m := storeBytes (storeElems op vals es)
  let begun := (List.range op.parts.length).all fun j => Config.stopped mark c op.id j % 2 == 1
  let bad := op.parts.any fun p => (badStop s (partSubs s (siteOf s c) op.d p.wing) op (.store es)).isSome
  let n := if begun && !bad then Config.stopped mark c op.id op.parts.length % 33 else 0
  let full := ((getCore s c).buf.filter mine).take n
  onCore s c fun k => { k with buf := k.buf.map fun e => if full.contains e then { e with kind := fillKind op.id m e.kind } else e }

/-- Every array operation of a core stops between two row steps, and leaves its wings (R136, R231, R249). -/
def stopOps (s : State) (mark c : Nat) (l : List ArrayOp) : State :=
  match l with
  | [] => { s with wings := s.wings.map fun p => (p.1, { p.2 with order := p.2.order.filter fun o => o.1 != c }) }
  | op :: r =>
    match arrayKind op.instr with
    | none => stopOps s mark c r
    | some k =>
      let s := match k with
        | .store es => if op.parts.all fun p => p.done || partRuns s c op p then stopFill s mark c op es else s
        | _ => s
      let t := stopParts s mark c op k op.parts
      stopOps (putOp t.1 c { op with parts := t.2 }) mark c r

/-- ARRAY_OP_COMPLETE (R133, R134): what the operation at a place in the wing's order has to do on the wing is complete, once its addresses have passed and
the sub-arrays it addresses there are free of earlier operations; with its last member wing the operation is. -/
def execArrayOpComplete (site n : Nat) (s : State) : Host.Outcome State Fault Refusal :=
  match ((getWing s site).order)[n]? with
  | none => .next s
  | some o =>
    match findOp s o.1 o.2 with
    | none => .next s
    | some op =>
      match arrayKind op.instr, op.parts.find? fun p => p.wing.contains site with
      | some k, some p => if partRuns s o.1 op p then .next (completePart s o.1 op k p) else .next s
      | _, _ => .next s

/-- The shared words of a line leave a die's far ways: with the line poisoned they would hide its error from the next consumer (R115). -/
def dropClean (s : State) (die line : Nat) : State :=
  onMem s fun g => { g with far := mapSet g.far die ((mapGetD g.far die []).filter fun p => p.2.owned || p.1 / 16 != line) }

/-- Words of a line come into the far ways of a die for a tile fetch; a bad sector leaves one record, its line poisoned and out (R115, R148, R192). -/
def fetchWords (die key : Nat) (l : List Nat) : M Unit := do
  match l with
  | [] => return
  | w :: r =>
    tryCatch (do let _ ← farFill die w key true) fun e => match e with
      | .trap t => modify fun s => dropClean (poisonWith s (w * 8) t (some key)) die (w / 16)
      | e => throw e
    fetchWords die key r

/-- One line of a tile fetch becomes resident (R192). -/
def fetchLine (die : Nat) (r : Run) : M Unit := do
  let pa := r.src.toNat
  let s ← get
  if !inHbm s pa then return
  else if atHome s die pa (r.target = 1) then
    await_ (!isLeased s pa 128)
    modify fun s =>
      let who := coreOf s s.cur.core
      poisonIfBad (poisonIfBad (mergeHome s (pa / 128)) pa r.slot (some r.slot) who) (pa + 64) r.slot (some r.slot) who
  else
    await_ (!isLeased s pa 128)
    modify fun s => mergeFar s die (pa / 128)
    fetchWords die r.slot ((List.range 16).map fun j => pa / 8 + j)

/-- Every line of a tile fetch. -/
def fetchRuns (die : Nat) (l : List Run) : M Unit := do
  match l with
  | [] => return
  | r :: t =>
    fetchLine die r
    fetchRuns die t

/-- TFETCH_COMPLETE (R192): every line is resident, and the token loses the fetch. -/
def execTfetchComplete (core id : Nat) (s : State) : Host.Outcome State Fault Refusal :=
  match findCopy s core id with
  | none => .next s
  | some q =>
    if isFetch q then
      match fetchRuns (dieOf core) q.runs (asContext s core q.src) with
      | .ok _ z => .next (finishCopies (putCopy { z with cur := s.cur } core { q with runs := [] }) core)
      | .error _ _ => .next s
    else .next s

end Sys2Proof.Machine
end

