-- ==== Sys2Proof/Machine/Commit.lean ====
section
/-! DEFINITION. Dispatch and commit of tasks, the draining of held effects, and the ends of a twinned pair's intervals
(R39 to R46, R128, R140, R144, R225, R230, R248, R256 to R259, R262). -/

namespace Sys2Proof.Machine

/-- The channel whose head is dispatched next (R39). -/
def nextChannel (k : Core) : Option Nat :=
  ((List.range 8).flatMap fun p => (List.range 16).filterMap fun j =>
    let chn := (mapGetD k.lastGrant (7 - p) 15 + 1 + j) % 16
    if chanPrio k chn = 7 - p && !(chanQueue k chn).isEmpty then some chn else none).head?

/-- Dispatch the head of a channel into a helper (R39, R40). -/
def dispatch (s : State) (c h chn : Nat) : State :=
  match chanQueue (getCore s c) chn with
  | [] => s
  | m :: _ => dispatchMsg s c h m

/-- TASK_DISPATCH (R39, R46, R256): the chosen head starts in the lowest free helper. When none is free, R46 may free one for the earliest queued
ordered message. -/
def execTaskDispatch (core : Nat) (s : State) : Host.Outcome State Fault Refusal :=
  let k := getCore s core
  if k.twin.isSome || k.isSealed || absent s core || !inService s core then .next s
  else match freeHelper s core with
    | some h => (match nextChannel k with
      | some chn => .next (dispatch s core h chn)
      | none => .next s)
    | none => .next (reclaim s core)

/-- TASK_COMMIT_BEGIN (R42, R44): the first task in commit order, once its timestamp is below HORIZON, is no longer speculative; its held effects
drain before it goes on. -/
def execTaskCommitBegin (core : Nat) (s : State) : Host.Outcome State Fault Refusal :=
  let k := getCore s core
  match k.ctxs.find? fun p => isSpec p.2 && match p.2.task with
      | some t => isFirst k t.msg && decide (t.msg.ts < horizon k)
      | none => false with
  | some p =>
    if inService s core && !k.isSealed then
      .next (onCtx s ⟨core, p.1⟩ fun x => { x with task := x.task.map fun t => { t with committing := true, waitCommit := false, reads := [] } })
    else .next s
  | none => .next s

/-- A reserved entry of a BPST among held effects. -/
def wingOf (op : Nat) (e : Effect) : Option (Nat × Option (SMap Byte)) :=
  match e with
  | .buf (.wing o b f) _ => if o = op then some (b, f) else none
  | _ => none

/-- The first of the held effects of the executing context leaves, as if it were issued now; those that remain (R44, R128, R230, R248). A task's copy reads
the formats of its source banks now (R108); a pair's was issued with its instruction (R258). -/
def performHeld (e : Effect) (rest : List Effect) : M (List Effect) := do
  match e with
  | .buf (.msg m) _ =>
    postMsg m
    return rest
  | .buf (.wing op b f) _ =>
    let k ← myCore
    await_ k.tail.isNone
    let same := rest.takeWhile fun r => (wingOf op r).isSome
    reserve op ((b, f) :: same.filterMap (wingOf op))
    return rest.drop same.length
  | .buf k _ =>
    enterBuf k
    return rest
  | .copy q =>
    pushRelease (q.kind == .xget)
    let k ← myCore
    enterCopy (if (← me).task.isSome then sourceFmts k q else q)
    return rest
  | .red r =>
    let n := bufNext (← myCore)
    modify fun s => { s with reds := s.reds ++ [{ r with id := s.nextRed, behind := n }], nextRed := s.nextRed + 1 }
    return rest
  | .array op =>
    dispatchOk
    presentOp (← bindOp op)
    return rest
  | .push p w =>
    let f ← meSender
    let t : Trap := ⟨cLEASE, false, natW p⟩
    match findLease (← get) f p with
    | none =>
      modify fun s => deferTo s f t none
      return rest
    | some l =>
      if l.granted && !l.expired then
        pushRelease true
        await_ (decide (l.words.length < 16))
        modify fun s => putLease s { l with words := l.words ++ [w] }
      else modify fun s => deferTo (dropLease s l) f t none
      return rest
  | .launchPush d =>
    pushRelease true
    pushDesc (← meSender) d
    return rest

/-- One held effect of the executing committing task drains; behind a BPLD it waits until the wing has checked its addresses (R230). -/
def drainTask : M Unit := do
  let next := fun (l : List Effect) (n : Option Nat) => setMe fun x => { x with task := x.task.map fun t => { t with held := l, opening := n } }
  match (← me).task with
  | none => return
  | some t =>
    match t.held, t.opening with
    | [], _ => return
    | _ :: r, some n =>
      match (← myCore).ops.find? fun o => o.id = n with
      | none => next r none
      | some o =>
        if o.checked then next r none
        else
          settleTurn n
          stall
    | .array op :: r, none =>
      let n := (← myCore).nextOp
      dispatchOk
      presentOp (← bindOp op)
      if op.checked then next r none else next (.array op :: r) (some n)
    | e :: r, none =>
      let l ← performHeld e r
      next l none

/-- One released effect of the executing primary leaves (R258). -/
def drainPair : M Unit := do
  match (← myCore).twin with
  | none => return
  | some t =>
    match t.released with
    | [] => return
    | e :: r =>
      let l ← performHeld e r
      setCore fun k => { k with twin := k.twin.map fun w => { w with released := l } }

/-- A context whose held effects drain before its next instruction: a committing task (R44). -/
def draining (x : Ctx) : Bool :=
  match x.task with
  | some t => x.status == .task && t.committing && !t.held.isEmpty
  | none => false

/-- A committing task that has executed DONE and drained completes its commit (R42). -/
def commitDone (x : Ctx) : Bool :=
  match x.task with
  | some t => x.status == .task && t.committing && t.finished && t.held.isEmpty
  | none => false

/-- What a pair has kept takes effect in both cores, in the order of arrival; messages queue at the primary (R256). -/
def applyKept (s : State) (p q : Nat) (l : List Kept) : State :=
  l.foldl (fun s k => match k with
    | .store _ off b cap => cellPut (cellPut s p off b cap none) q off b cap none
    | .patch _ off l => patchCell (patchCell s p off l none) q off l none
    | .msg m => receive s p m
    | .elem _ _ _ => keptElem (keptElem s p k) q k) s

/-- The inputs that an instruction under way has taken belong to the interval before. -/
def dropInputs (x : Ctx) : Ctx :=
  { x with waiting := match x.waiting with
    | some (.part m l _ _) => some (.part m l 0 0)
    | w => w }

/-- A core of a pair at a checkpoint: its front has let the last fixed-latency writes land, the interval's log is cleared, and the state is the new restart
point (R70, R258). -/
def checkpointCore (s : State) (c : Nat) (released : List Effect) : State :=
  let s := onCtx s ⟨c, 0⟩ fun x => landAll (dropInputs x)
  let x := getCtx s ⟨c, 0⟩
  onCore s c fun k => { k with
    twinState := 1
    twin := k.twin.map fun t => { t with
      retrying := false, retired := 0, undo := 0, crc := 0, point := ⟨x, k.cell, k.tags, k.bfmt⟩, held := [], kept := [], feed := [], fed := 0,
      lands := [], landed := 0, due := false, released := released } }

/-- A core of a pair goes back to its restart point; the interval's inputs are given again (R259). A BPST under way is of the interval and writes nothing
more. -/
def rollbackHalf (s : State) (c total : Nat) : State :=
  let stores := (getCore s c).ops.filter fun o => match arrayKind o.instr with
    | some (.store _) => true
    | _ => false
  let s := dropOps (withdraw s ⟨c, 0⟩) c (stores.map (·.id))
  onCore s c fun k =>
    match k.twin with
    | none => k
    | some t => { k with
        ctxs := mapSet k.ctxs 0 t.point.ctx
        cell := t.point.cell
        tags := t.point.tags
        bfmt := t.point.bfmt
        twinState := 2
        twin := some { t with retrying := true, retired := 0, total := total, undo := 0, crc := 0, held := [], fed := 0, landed := 0, due := false } }

/-- The cores of a pair disagree: both roll back, and a second time in one interval both are sealed, with cause code 0 (R259; DESIGN CHOICE, log 89: no
cause of R74 stands for a disagreement, and R259 gives none, also where an internal error is the second one). -/
def disagree (s : State) (p q : Nat) : State :=
  match (getCore s p).twin with
  | none => s
  | some t =>
    if t.retrying then
      sealPair s p 0 0
    else rollbackHalf (rollbackHalf s p t.total) q t.total

/-- Two contexts have come equally far in an instruction of several stores, elements or instances. -/
def sameProgress (x y : Ctx) : Bool :=
  let work := fun z : Ctx => z.doing.map fun w => (w.b, w.done)
  work x == work y && match x.waiting, y.waiting with
  | some (.part m l _ _), some (.part n r _ _) => m == n && l == r
  | some (.stores l f), some (.stores r g) => l == r && f == g
  | some (.part _ _ _ _), _ => false
  | some (.stores _ _), _ => false
  | _, some (.part _ _ _ _) => false
  | _, some (.stores _ _) => false
  | _, _ => true

/-- The cores of a pair stand where a checkpoint can be taken: no fixed-latency write is pending, or the fronts wait at most seven cycles for the last of
them (R70; log 64), and both have come equally far in their instruction. -/
def pairRests (s : State) (p q : Nat) : Bool :=
  let x := getCtx s ⟨p, 0⟩
  landsNow x && sameProgress x (getCtx s ⟨q, 0⟩)

/-- A core of a pair stands at a checkpoint (R258), with nothing kept for the next (R256). -/
def atCheckpoint (k : Core) : Bool :=
  match k.twin with
  | some t => decide (t.retired = 0) && decide (t.undo = 0) && t.held.isEmpty && t.released.isEmpty && t.kept.isEmpty
  | none => true

/-- What the last checkpoint released has left, or the interval since has executed nothing (R258). -/
def mayEnd (t : Twin) : Bool := t.released.isEmpty || decide (t.retired = 0) && t.held.isEmpty

/-- The interval of a pair can end: it is due, both cores have executed the same, and no array operation of theirs is under way (R258). While something that
was released has yet to leave, an interval in which nothing has been executed ends, so that what was kept for the pair takes effect (R256; log 21). -/
def intervalOver (s : State) (t u : Twin) (p q : Nat) : Bool :=
  (t.due || u.due) && t.total == u.total && mayEnd t && (getCore s p).ops.isEmpty && (getCore s q).ops.isEmpty && pairRests s p q

/-- TWIN_INTERVAL_END (R256 to R259): agreement is a checkpoint; disagreement rolls both cores back. -/
def execTwinIntervalEnd (core : Nat) (s : State) : Host.Outcome State Fault Refusal :=
  let p := viewCore s core
  match (getCore s p).twin with
  | none => .next s
  | some t =>
    let q := t.partner
    match (getCore s q).twin with
    | none => .next s
    | some u =>
      if !intervalOver s t u p q then .next s
      else if t.crc = u.crc ∧ t.retired = u.retired then
        let s := applyKept s p q t.kept
        .next (checkpointCore (checkpointCore s p (t.released ++ t.held)) q [])
      else .next (disagree s p q)

/-- INTERNAL_UE_DETECTED (R259, R262, R263): the core is sealed at once; in a pair the error counts as a disagreement. -/
def execInternalUeDetected (core : Nat) (s : State) : Host.Outcome State Fault Refusal :=
  if (getCore s core).isSealed || absent s core then .next s
  else
    let p := viewCore s core
    match (getCore s p).twin with
    | some t => .next (disagree s p t.partner)
    | none => .next (sealPair s core cUE 0)

end Sys2Proof.Machine
end

