-- ==== Sys2Proof/Machine/FloatOps.lean ====
section
/-! DEFINITION. Scalar floating-point instructions (R68, R329, R334, R335, R337 to R339). -/

namespace Sys2Proof.Machine

/-- x(c) of R329: the operand of type `t` in a register. -/
def floatArg (t : Nat) (w : W64) : FVal := elemVal t w.toNat

/-- A result of type `t` under RNE, zero-extended. -/
def floatRes (t : Nat) (v : FVal) : W64 := natW (encType t .rne 0 v).1

/-- Latency of FADD, FMUL and FSET (R68). -/
def floatLat (t : Nat) : Nat := if t = 13 then 6 else 4

/-- FADD (R334). -/
def execFadd (d a b t : BitVec 5) (y : BitVec 3) (s : State) : Host.Outcome State Fault Refusal :=
  alu2 (.fadd d a b t y) (floatLat t.toNat) d a b y
    (fun u v => floatRes t.toNat (fadd (floatArg t.toNat u) (floatArg t.toNat v))) s

/-- FMUL (R338). -/
def execFmul (d a b t : BitVec 5) (y : BitVec 3) (s : State) : Host.Outcome State Fault Refusal :=
  alu2 (.fmul d a b t y) (floatLat t.toNat) d a b y
    (fun u v => floatRes t.toNat (fmul (floatArg t.toNat u) (floatArg t.toNat v))) s

/-- FFMA (R337): it waits for a pending write of cd. -/
def execFfma (d a b t : BitVec 5) (y : BitVec 3) (s : State) : Host.Outcome State Fault Refusal :=
  issueLate (.ffma d a b t y) (cyc y) [d, a, b] [d] [d] (do
    let p := fmul (floatArg t.toNat (← rd a)) (floatArg t.toNat (← rd b))
    wrLate d (floatLat t.toNat + 1) (floatRes t.toNat (fadd p (floatArg t.toNat (← rd d))))
    return none) s

/-- FSET (R339). -/
def execFset (d a b t : BitVec 5) (y : BitVec 3) (s : State) : Host.Outcome State Fault Refusal :=
  alu2 (.fset d a b t y) (floatLat t.toNat) d a b y (fun u v => relMask (floatArg t.toNat u) (floatArg t.toNat v)) s

/-- The type that a source code of FCVT names (R335). -/
def cvtSrc (c : Nat) : Nat := if c = 0 then 9 else if c = 1 then 10 else if c = 2 then 12 else if c = 3 then 13 else c + 12

/-- The register form of a converted result: .i32 is sign-extended, every other type zero-extended (R335). -/
def cvtRes (t c : Nat) : W64 := if t = 16 then toW (sxInt c 32) else natW c

/-- A type of 64 bits, for the latency of FCVT (R68). -/
def isWide (t : Nat) : Bool := t = 13 || t = 18 || t = 19

/-- FCVT (R335). -/
def execFcvt (d a : BitVec 5) (ts : BitVec 3) (rnd : BitVec 2) (td : BitVec 5) (y : BitVec 3) (s : State) : Host.Outcome State Fault Refusal :=
  issue (.fcvt d a ts rnd td y) (cyc y) [a] [d] false (do
    let x ← me
    let r := encType td.toNat (rndOf rnd.toNat) x.rngs (elemVal (cvtSrc ts.toNat) (← rd a).toNat)
    setMe fun x => { x with rngs := r.2 }
    wrLate d (if isWide td.toNat || isWide (cvtSrc ts.toNat) then 6 else 4) (cvtRes td.toNat r.1)) s

end Sys2Proof.Machine
end

