-- ==== Sys2Proof/Machine/Imm.lean ====
section
/-! DEFINITION. Immediate forms, selections, comparisons and bit fields (R288, R291, R293, R295, R361, R362, R379, R381, R382). -/

namespace Sys2Proof.Machine

/-- ADDI (R288). -/
def execAddi (d a : BitVec 5) (imm : BitVec 10) (y : BitVec 3) (s : State) : Host.Outcome State Fault Refusal :=
  alu1 (.addi d a imm y) d a y (fun p => p + imm10 imm) s

/-- The 16-bit ADDI adds to its own register and waits for it (R64, R288). -/
def execAddi16 (d : BitVec 5) (imm : BitVec 6) (s : State) : Host.Outcome State Fault Refusal :=
  issue (.addi16 d imm) 1 [d] [d] true (do wrLate d 1 ((← rd d) + imm.signExtend 64)) s

/-- ANDI (R291). -/
def execAndi (d a : BitVec 5) (imm : BitVec 10) (y : BitVec 3) (s : State) : Host.Outcome State Fault Refusal :=
  alu1 (.andi d a imm y) d a y (fun p => p &&& imm.setWidth 64) s

/-- SETI (R382). -/
def execSeti (d a : BitVec 5) (imm : BitVec 10) (y : BitVec 3) (s : State) : Host.Outcome State Fault Refusal :=
  alu1 (.seti d a imm y) d a y (fun p => if p.slt (imm10 imm) then 1 else 0) s

/-- MOVI (R362). -/
def execMovi (d : BitVec 5) (imm : BitVec 15) (y : BitVec 3) (s : State) : Host.Outcome State Fault Refusal :=
  issue (.movi d imm y) (cyc y) [] [d] false (wrLate d 1 (imm.signExtend 64)) s

/-- MOVH (R361). -/
def execMovh (d : BitVec 5) (imm : BitVec 15) (y : BitVec 3) (s : State) : Host.Outcome State Fault Refusal :=
  alu1 (.movh d imm y) d d y (fun p => (p <<< 15) ||| imm.setWidth 64) s

/-- The test of SEL on cd's prior value, by fn (R379). -/
def selTest (fn : BitVec 5) (v : W64) : Bool := if fn = 0 then v != 0 else if fn = 1 then v.msb else bitAt v 0

/-- SEL (R379). -/
def execSel (d a b fn : BitVec 5) (y : BitVec 3) (s : State) : Host.Outcome State Fault Refusal :=
  issue (.sel d a b fn y) (cyc y) [d, a, b] [d] false (do
    let p ← rd a
    let q ← rd b
    wrLate d 1 (if selTest fn (← rd d) then p else q)) s

/-- The condition of SET, by fn (R381). -/
def setTest (fn : BitVec 5) (p q : W64) : Bool :=
  match fn.toNat with
  | 0 => p == q
  | 1 => p != q
  | 2 => p.slt q
  | 3 => !p.slt q
  | 4 => p.ult q
  | _ => !p.ult q

/-- SET (R381). -/
def execSet (d a b fn : BitVec 5) (y : BitVec 3) (s : State) : Host.Outcome State Fault Refusal :=
  alu2 (.set d a b fn y) 1 d a b y (fun p q => if setTest fn p q then 1 else 0) s

/-- BFX (R295). -/
def execBfx (d a b : BitVec 5) (sg : BitVec 1) (y : BitVec 3) (s : State) : Host.Outcome State Fault Refusal :=
  let i : Instr := .bfx d a b sg y
  issue i (cyc y) [a, b] [d] false (do
    match fieldOf (← rd b) with
    | none => illop i
    | some (p, w) =>
      let v := (← rd a).toNat / 2 ^ p % 2 ^ w
      wrLate d 1 (if sg = 1 then toW (sxInt v w) else natW v)) s

/-- BFI (R293). -/
def execBfi (d a b : BitVec 5) (y : BitVec 3) (s : State) : Host.Outcome State Fault Refusal :=
  let i : Instr := .bfi d a b y
  issue i (cyc y) [d, a, b] [d] false (do
    match fieldOf (← rd b) with
    | none => illop i
    | some (p, w) =>
      let mask := natW ((2 ^ w - 1) * 2 ^ p)
      wrLate d 1 (((← rd d) &&& ~~~mask) ||| (((← rd a) <<< p) &&& mask))) s

end Sys2Proof.Machine
end

