-- ==== Sys2Proof/Machine/Preempt.lean ====
section
/-! DEFINITION. Pre-emption of a launch into its chrysalis areas, its restore, and single steps
(R48, R58, R70, R136, R165, R194, R206, R231, R249 to R254, R278, R280). -/

/-- What a core record and lift store say that have been written over while their launch was saved, by the number of the save and their bytes: the spec
gives no layout for them (R251, R254; log 15). -/
opaque Sys2Proof.Config.editedCore : Nat → List Sys2Proof.Byte → Sys2Proof.Machine.Core

namespace Sys2Proof.Machine

/-- Cores on which a launch is resident, the secondaries of its pairs among them (R249, R255). -/
def launchCores (s : State) (id : Nat) : List Nat :=
  (s.cores.filter fun p => !p.2.isSealed && match p.2.launch with
    | some l => l.id == id && !l.saved
    | none => false).map (·.1)

/-- Nothing more leaves the store buffer before a pre-emption: it is empty, or its oldest entry is one that a BPST has yet to fill (R128, R231). -/
def bufRests (k : Core) : Bool :=
  match k.buf with
  | [] => k.tail.isNone
  | e :: _ => match e.kind with
    | .wing op _ none => k.ops.any fun o => o.id = op && o.checked
    | _ => false

/-- No answer from a core of the launch is on its way to a context of the core: a refusal, the outcome of a call, a barrier's completion (R249). -/
def answersLanded (s : State) (nums : List Nat) (c : Nat) : Bool :=
  let num := coreNum s c
  let home := fun b : Completion => (vecGet (getCtx s ⟨c, b.dst.cx⟩).bar b.bar ⟨.unset, 0, 0⟩).home
  !(s.refused.any fun r => r.dst.core = num && (r.trap.code != cMSGERR || nums.contains r.trap.val.toNat)) &&
    !(s.deposits.any fun d => d.dst.core = num && nums.contains d.callee) &&
    !(s.completions.any fun b => b.dst.core = num && nums.contains (home b))

/-- A core of a launch can be saved: its contexts stop, its store buffer has drained, its copy pieces in flight have completed, its REDs are
performed, a pair stands at a checkpoint, what travels between the launch's cores has landed, and what it sent in die order is performed, since what a
stopped BPST has filled leaves behind it (R70, R138, R165, R249). -/
def canSave (s : State) (nums : List Nat) (c : Nat) : Bool :=
  let k := getCore s c
  let num := coreNum s c
  k.ctxs.all (fun p => atBoundary p.2) && bufRests k && k.copies.all (fun q => q.flying.isEmpty) &&
    !(s.reds.any fun r => r.src.core = num) && !(s.flights.any fun f => f.src.core = num && nums.contains f.dst) && answersLanded s nums c &&
    !dieOrderWaits s c && atCheckpoint k

/-- Every page of one core's area can be written (R249). -/
def areaUsable (q c va pages : Nat) : M Unit := do
  match pages with
  | 0 => return
  | k + 1 =>
    let _ ← pieceTranslate q c (natW va) accCopyDst
    areaUsable q c (va + 4096) k

/-- The state dword of a context record (R251). -/
def stateWord (x : Ctx) (lease : Bool) : W64 :=
  let n := match x.status with
    | .free => 0
    | .live => 1
    | .joinable => 2
    | .task => 3
  natW (n + (if x.handler then 4 else 0) + (if lease then 8 else 0) + (if x.deferred.isEmpty then 0 else 16))

/-- The system registers of a context record, from 0x218 on (R251). -/
def recordRegs (x : Ctx) : List W64 :=
  [x.shape.setWidth 64, x.lmask, natW x.ldepth, natW (frameWord x.lframe), x.tstamp.setWidth 64, x.rngs.setWidth 64, kstat x, boolW x.chksb,
   x.trapcause, x.trappc, x.trapval, x.trapvec, x.energy]

/-- Bits from a list, the first lowest. -/
def packTags (l : List Bool) : Nat := l.foldr (fun b n => (if b then 1 else 0) + 2 * n) 0

/-- The 16 bytes of a token in a record: count, and the error record (R251; the places within are log 15's). -/
def tokenBytes (t : Token) : List Byte := toBytes (t.count % 256 + (if t.err then 256 else 0) + t.code % 256 * 2 ^ 16) 8 ++ toBytes t.val.toNat 8

/-- The 32 bytes of a stream: binding and indices (R251; log 15). -/
def streamBytes (t : Option Stream) : List Byte :=
  match t with
  | none => List.replicate 32 0
  | some t => toBytes (2 ^ 63 + t.elog * 2 ^ 32 + t.base) 8 ++ toBytes t.len 8 ++ toBytes t.rd 8 ++ toBytes t.wr 8

/-- The number of a barrier's state in a record (log 15). -/
def barCode (t : BarState) : Nat :=
  match t with
  | .unset => 0
  | .idle => 1
  | .waiting => 2
  | .done => 3

/-- The 16 bytes of a barrier (R251; log 15). -/
def barBytes (b : Barrier) : List Byte := toBytes (barCode b.st + b.count * 2 ^ 16) 8 ++ toBytes b.home 8

/-- An entry of a read set in a record (R251; log 15). -/
def readWord (e : ReadEntry) : Nat :=
  match e with
  | .block n => 2 ^ 63 + n
  | .group w g => 2 ^ 62 + (w.map fun t => t + 1).getD 1 0 * 2 ^ 17 + w.headD 0 * 64 + g

/-- The doublewords at 0x0700 of a record: the resume instance, the registers that await a deposit, the first pending deferred fault, the wake events that
IDLE has not returned (R47, R251; log 15). -/
def pendingWords (x : Ctx) : List W64 :=
  let d := x.deferred.head?
  [natW x.resume, natW (x.awaiting.foldl (fun n a => n ||| 2 ^ a.reg.toNat) 0), (d.map fun d => causeWord d.trap true).getD 0,
   (d.map fun d => d.trap.val).getD 0, x.wake.setWidth 64]

/-- The port dwords of a record: for each of e1 to e8 and e15 whether it is bound, whether it has expired, how many results wait, and the first seven of
them (R251; log 15). -/
def portBytes (bound expired : Bool) (results : List W64) : List Byte :=
  ([natW ((if bound then 1 else 0) + (if expired then 2 else 0) + results.length * 256)] ++ (List.range 7).map fun j => results.getD j 0).flatMap
    fun w => toBytes w.toNat 8

/-- The results of e15 that a context can pop now: those before the first that its push still waits for (R27). -/
def readyResults (s : State) (f : Sender) : List W64 :=
  ((s.launchResults.filter fun r => r.src = f).takeWhile fun r => !r.waits).map fun r => r.word

/-- The ports e1 to e8 and e15 of a context (R251). -/
def portsOf (s : State) (f : Sender) : List Byte :=
  ((List.range 8).flatMap fun p => match findLease s f (p + 1) with
    | some l => portBytes l.granted l.expired l.results
    | none => portBytes false false []) ++
  portBytes false false (readyResults s f)

/-- A context record as offsets and bytes (R251): a free context writes its state dword only. `free` gives the bytes whose layout is not given, `ports` the
ports (log 15). -/
def ctxRecord (x : Ctx) (lease : Bool) (ports : List Byte) (free : Nat → Byte) : List (Nat × List Byte) :=
  let open_ := fun (a b : Nat) => (a, (List.range (b - a)).map fun j => free (a + j))
  if x.status = .free then [(0x210, toBytes (stateWord x lease).toNat 8)]
  else
    [(0, x.c.toList.flatMap fun r => toBytes r.bits.toNat 16),
     (0x200, toBytes (packTags (x.c.toList.map fun r => r.tag)) 8),
     (0x208, toBytes x.pc.toNat 8),
     (0x210, toBytes (stateWord x lease).toNat 8),
     (0x218, (recordRegs x).flatMap fun w => toBytes w.toNat 8),
     (0x280, x.k.toList.flatMap tokenBytes),
     (0x300, x.s.toList.flatMap streamBytes),
     (0x400, x.bar.toList.flatMap barBytes),
     (0x480, ports),
     open_ 0x6C0 0x700,
     (0x700, (pendingWords x).flatMap fun w => toBytes w.toNat 8),
     open_ 0x728 0x800,
     (0x800, x.m.toList.flatMap fun q => toBytes q.img.toNat 64),
     (0xC00, toBytes (packTags (x.m.toList.map fun q => q.capTag)) 8),
     (0x1000, x.v.toList.flatMap fun v => toBytes (v.copies.headD 0).toNat 512),
     (0x3000, (List.range 64).flatMap fun j => toBytes (((((x.task.map fun t => t.reads).getD [])[j]?).map readWord).getD 0) 8)]

/-- The bytes of one accumulator: its elements in row order (R251). -/
def tileBytes (t : Tile) : List Byte := (List.range 1024).flatMap fun n => toBytes (mapGetD t.els n 0).toNat 8

/-- The wing image of R251 as offsets and bytes. -/
def wingRecord (w : Wing) : List (Nat × List Byte) :=
  ((List.range 8).map fun a => (0x200000 + a * 0x2000, tileBytes (vecGet w.acc a tileReset))) ++
    (List.range 16).map fun k => (0x210000 + k * 0x8000, (List.range 512).flatMap fun r => toBytes (rowGet w k r).toNat 64)

/-- Write pieces of an area. -/
def areaWrites (q c base : Nat) (l : List (Nat × List Byte)) : M Unit := do
  match l with
  | [] => return
  | p :: r =>
    areaWrite q c (base + p.1) p.2 (p.2.length + 1)
    areaWrites q c base r

/-- The wing at MEM0 of a core's binding (R250). -/
def memWing (s : State) (c : Nat) : Nat := (members s (siteOf s c)).headD (siteOf s c)

/-- The cores that save a wing image: for each wing the lowest-numbered core (R250). -/
def wingSavers (s : State) (l : List Nat) : List Nat :=
  l.filter fun c => !(l.any fun d => decide (d < c) && memWing s d = memWing s c)

/-- A launch's descriptor covers a saved core: it has an area (R249). -/
def hasArea (l : Launch) (num : Nat) : Bool := decide (dBase l.desc ≤ num) && decide (num - dBase l.desc < dCount l.desc)

/-- An instruction that has asked for an array operation or a bank lease asks anew after its launch was saved (R250). -/
def asksAnew (w : Option Wait) : Bool :=
  match w with
  | some (.array _) => true
  | some (.blease _) => true
  | _ => false

/-- A context as it is saved, with its fixed-latency writes landed: an instruction that had asked for something asks again (R70, R250). -/
def savedCtx (x : Ctx) (lease : Bool) : Ctx :=
  { landAll x with
    idling := none
    leaseAgain := x.leaseAgain || lease
    waiting := if asksAnew x.waiting then none else x.waiting
    issued := if asksAnew x.waiting then none else x.issued }

/-- A context holds a matrix lease. -/
def hasLease (s : State) (f : Sender) : Bool := s.wings.any fun p => match p.2.lease with
  | some l => l.holder = f
  | none => false

/-- The results that wait on the ports of a core's contexts, by context and port (R250). -/
def portResults (s : State) (c : Nat) : SMap (List W64) :=
  (List.range 11).flatMap fun x =>
    let f := senderOf s ⟨c, x⟩
    ((List.range 8).map fun p => (16 * x + p + 1, ((findLease s f (p + 1)).map fun l => l.results).getD [])) ++
      [(16 * x + 15, readyResults s f)]

/-- Save one core: its area is written, its contexts leave their requests and leases, its record is kept, and the core is free (R249 to R251). -/
@[irreducible] def saveCore (s : State) (l : Launch) (mark : Nat) (c : Nat) : Option (SavedCore × State) :=
  let s0 := s
  let num := coreNum s c
  let k := getCore s c
  let lease := fun x : Nat => hasLease s (senderOf s ⟨c, x⟩)
  let lift := k.ctxs.any fun p => p.2.ldepth != 0
  let u := num - dBase l.desc
  let base := areaOf l.desc num
  let free := fun a : Nat => Config.areaByte mark (u * 0x400000 + a)
  let open_ := fun (a b : Nat) => (a, (List.range (b - a)).map fun j => free (a + j))
  let records := (List.range 11).flatMap fun x =>
    (ctxRecord (savedCtx (getCtx s ⟨c, x⟩) (lease x)) (lease x) (portsOf s (senderOf s ⟨c, x⟩)) fun a => free (0x100000 + x * 0x4000 + a)).map fun p =>
      (0x100000 + x * 0x4000 + p.1, p.2)
  let area := (List.range 256).map (fun p => (p * 0x1000, memReads k.cell (p * 0x1000) 0x1000)) ++ records ++ [open_ 0x130000 0x170000] ++ (if lift then [open_ 0x170000 0x200000] else [])
  let write : M Unit := if hasArea l num then areaWrites l.queue c base area else pure ()
  match write s with
  | .error _ _ => none
  | .ok _ s =>
    let s := k.ctxs.foldl (fun s p => dropLeases (withdraw s ⟨c, p.1⟩) (senderOf s ⟨c, p.1⟩)) s
    let k := getCore s c
    let kept : Core := { k with
      ctxs := k.ctxs.map fun p => (p.1, savedCtx p.2 (lease p.1))
      marks := []
      reserved := [] }
    let s := putCore s c { coreReset with
      ctxs := fetchedOnly num k.ctxs
      cell := k.cell
      tags := k.tags
      launch := k.launch.map fun r => { r with saved := true }
      epochs := k.epochs
      reserved := k.reserved
      left := k.left
      seqOut := k.seqOut
      nextCopy := k.nextCopy
      nextPiece := k.nextPiece
      nextOp := k.nextOp }
    some (⟨num, kept, lift, kept.ctxs, mark, portResults s0 c⟩, noteStop s c)

/-- Save the cores of a launch. -/
def saveCores (s : State) (l : Launch) (mark : Nat) (cs : List Nat) : Option (List SavedCore × State) :=
  match cs with
  | [] => some ([], s)
  | c :: r =>
    match saveCore s l mark c with
    | none => none
    | some (k, s) => (saveCores s l mark r).map fun p => (k :: p.1, p.2)

/-- Write the image of the wing at MEM0 of a core's binding to the core's area (R250, R251). -/
@[irreducible] def saveWing (s : State) (l : Launch) (c : Nat) : Option ((Nat × Wing) × State) :=
  let w := getWing s (memWing s c)
  match areaWrites l.queue c (areaOf l.desc (coreNum s c)) (wingRecord w) s with
  | .error _ _ => none
  | .ok _ z => some ((coreNum s c, w), z)

/-- Write the wing images of WINGSAVE (R250, R251). -/
def saveWings (s : State) (l : Launch) (cs : List Nat) : Option (List (Nat × Wing) × State) :=
  match cs with
  | [] => some ([], s)
  | c :: r =>
    match saveWing s l c with
    | none => none
    | some (w, s) => (saveWings s l r).map fun p => (w :: p.1, p.2)

/-- The chrysalis area of a launch serves (R249): CHRY is a multiple of 4 MiB, and every page of every core's area can be written. None while a page
table entry must be waited for. -/
def areaGood (s : State) (l : Launch) (cs : List Nat) : Option (Bool × State) :=
  let base := dChry l.desc
  if base.toNat % 0x400000 != 0 || bits base 63 48 != 0 then some (false, s)
  else
    match (cs.forM fun c => areaUsable l.queue c (areaOf l.desc (coreNum s c)) 1024 : M Unit) s with
    | .ok _ s => some (true, s)
    | .error (.trap _) s => some (false, s)
    | .error _ _ => none

/-- The outcome of a pre-emption request (R278, R280): PSTAT, GO reads 0, the host's interrupt. -/
def preemptDone (s : State) (launch : BitVec 32) (wingsave : Bool) (code : Nat) : State :=
  { s with mg := { s.mg with
      preq := BitVec.ofNat 34 (launch.toNat + if wingsave then 2 ^ 32 else 0)
      pstat := BitVec.ofNat 9 (code + if s.saved.isEmpty then 0 else 256)
      msix := s.mg.msix ++ [17] } }

/-- The oldest entries of a store buffer that a stopped BPST has filled drain (R128, R231). -/
def drainFilled (s : State) (c n : Nat) : State :=
  match n with
  | 0 => s
  | m + 1 =>
    match (getCore s c).buf with
    | [] => s
    | e :: r => match e.kind with
      | .wing _ blk (some l) =>
        let s := l.foldl (fun s b => cellPut s c (blk * 64 + b.1) [b.2] none (findUse s e.src)) s
        drainFilled (onCore s c fun k => advanceTail { k with buf := r, left := k.left + 1 }) c m
      | _ => s

/-- The array operations of a core stop; the entries that they have filled drain (R136, R231, R249). -/
def stopCore (s : State) (mark c : Nat) : State := drainFilled (stopOps s mark c (getCore s c).ops) c 32

/-- The launch is saved (R249): none while it must wait. -/
def saveLaunch (s : State) (l : Launch) (wingsave : Bool) : Option State :=
  let cs := launchCores s l.id
  let inRange := cs.filter fun c => (dCores l.desc).contains c
  let nums := cs.map (coreNum s)
  if !(cs.all (canSave s nums)) || cs.any (asleep s) then none
  else
    let mark := s.pendOrder
    let s := cs.foldl (fun s c => stopCore s mark c) { s with pendOrder := s.pendOrder + 1 }
    match (if wingsave then saveWings s l (wingSavers s inRange) else some ([], s)) with
    | none => none
    | some (ws, s) =>
      match saveCores s l mark cs with
      | none => none
      | some (ks, s) => some { s with
          saved := s.saved ++ [⟨l.id, ks, ws⟩]
          mg := { s.mg with pstat := BitVec.ofNat 9 (s.mg.pstat.toNat % 256 + 256) }
          launches := s.launches.map fun q => if q.id = l.id then { q with saved := true, pendingAt := none } else q }

/-- A launch that runs, by its ID. -/
def runningLaunch (s : State) (id : Nat) : Option Launch := s.launches.find? fun l => l.id = id && !l.saved

/-- PREEMPT_REQUEST (R249 to R251): refused for an unusable area, reported for an unknown launch; GO stays set while the launch cannot yet stop. -/
def execPreemptRequest (launch : BitVec 32) (wingsave : Bool) (s : State) : Host.Outcome State Fault Refusal :=
  let waits := { s with mg := { s.mg with preq := BitVec.ofNat 34 (launch.toNat + (if wingsave then 2 ^ 32 else 0) + 2 ^ 33) } }
  match runningLaunch s launch.toNat with
  | none => .next (preemptDone s launch wingsave 2)
  | some l =>
    match areaGood s l ((launchCores s l.id).filter fun c => (dCores l.desc).contains c) with
    | none => .next waits
    | some (false, s) => .next (preemptDone s launch wingsave 1)
    | some (true, s) =>
      match saveLaunch s l wingsave with
      | none => .next waits
      | some s => .next (preemptDone s launch wingsave 0)

/-- REGISTER_WRITE (R5, R58, R278): a write by the host or the management controller. GO of PREQ requests pre-emption (R249). -/
def execRegisterWrite (r : HostReg) (v : BitVec 64) (s : State) : Host.Outcome State Fault Refusal :=
  match r with
  | .engine off =>
    if off = 0x3068 && bitAt v 33 && !s.mg.recovery then execPreemptRequest (v.setWidth 32) (bitAt v 32) s
    else orWait s (engineWrite s true off.toNat v)
  | .pstate n => if 64 ≤ n then .fault .noSuchAgent else .next (hostValue s r v)
  | _ => .next (hostValue s r v)

/-- A doubleword of a record. -/
def wordAt (b : List Byte) (off : Nat) : W64 := natW (ofBytes ((b.drop off).take 8))

/-- A capability register from a record (R5, R51, R52). -/
def restoreReg (n : Nat) (tag : Bool) : Reg := formCap (BitVec.ofNat 128 n) tag

/-- A token from a record. -/
def restoreToken (a b : W64) : Token := ⟨bits a 7 0, bitAt a 8, bits a 23 16, b⟩

/-- A stream from a record. -/
def restoreStream (a b c d : W64) : Option Stream := if bitAt a 63 then some ⟨bits a 31 0, b.toNat, bits a 39 32, c.toNat, d.toNat⟩ else none

/-- A barrier from a record. -/
def restoreBar (a b : W64) : Barrier :=
  ⟨(match bits a 1 0 with
    | 0 => .unset
    | 1 => .idle
    | 2 => .waiting
    | _ => .done), bits b 21 0, bits a 31 16⟩

/-- An entry of a read set from a record. -/
def restoreRead (w : W64) : List ReadEntry :=
  if bitAt w 63 then [.block (bits w 61 0)]
  else if bitAt w 62 then [.group (bits w 16 6 :: if bits w 27 17 = 0 then [] else [bits w 27 17 - 1]) (bits w 5 0)]
  else []

/-- What a context is, from the state dword of its record; a task is one that the task unit knows (R251). -/
def restoreStatus (x : Ctx) (n : Nat) : Status :=
  match n with
  | 0 => .free
  | 1 => .live
  | 2 => .joinable
  | _ => if x.task.isSome then .task else .live

/-- A value of a record, unless what came to the saved context has changed it since: then that (R41, R250). -/
def since {α : Type} [DecidableEq α] (now old rec_ : α) : α := if now = old then rec_ else now

/-- A context as its record gives it; what the record's layout leaves open comes from what pre-emption kept, and what came to the context while it was
saved goes before its record (R41, R251, R254; log 15). `y` is the context as it was when the record was written. With another PC in the record the
context begins with the instruction there. -/
def restoreCtx (x y : Ctx) (b : List Byte) : Ctx :=
  let num := fun off n : Nat => ofBytes ((b.drop off).take n)
  let word := fun off : Nat => wordAt b off
  let st := restoreStatus x (bits (word 0x210) 1 0)
  if st = .free then { x with status := .free, task := none }
  else
    let tags := num 0x200 4
    let mtags := num 0xC00 2
    let f := num 0x230 8
    let reads := (List.range 64).flatMap fun j => restoreRead (word (0x3000 + 8 * j))
    let here := word 0x208 = y.pc
    let fault : Deferred := ⟨⟨bits (word 0x710) 7 0, bitAt (word 0x710) 9, word 0x718⟩, (x.deferred.head?).bind fun d => d.copy⟩
    { x with
      status := st
      c := Vector.ofFn fun n : Fin 32 =>
        since (vecGet x.c n.val regNull) (vecGet y.c n.val regNull) (restoreReg (num (16 * n.val) 16) (tags / 2 ^ n.val % 2 == 1))
      pc := word 0x208
      handler := bitAt (word 0x210) 2
      leaseAgain := bitAt (word 0x210) 3
      deferred := since x.deferred y.deferred (if bitAt (word 0x210) 4 then fault :: x.deferred.tail else [])
      shape := (word 0x218).setWidth 10
      lmask := word 0x220
      ldepth := num 0x228 8 % 4
      lframe := ⟨f % 128, f / 2 ^ 8 % 128, f / 2 ^ 16 % 128⟩
      tstamp := (word 0x238).setWidth 48
      rngs := if (word 0x240).setWidth 32 = (0 : BitVec 32) then 1 else (word 0x240).setWidth 32
      chksb := bitAt (word 0x250) 0
      trapcause := natW (bits (word 0x258) 9 0)
      trappc := word 0x260
      trapval := word 0x268
      trapvec := natW ((word 0x270).toNat / 2 * 2)
      energy := since x.energy y.energy (word 0x278)
      k := Vector.ofFn fun n : Fin 8 =>
        since (vecGet x.k n.val tokenReset) (vecGet y.k n.val tokenReset) (restoreToken (word (0x280 + 16 * n.val)) (word (0x288 + 16 * n.val)))
      s := Vector.ofFn fun n : Fin 8 =>
        restoreStream (word (0x300 + 32 * n.val)) (word (0x308 + 32 * n.val)) (word (0x310 + 32 * n.val)) (word (0x318 + 32 * n.val))
      bar := Vector.ofFn fun n : Fin 8 => since (vecGet x.bar n.val ⟨.unset, 0, 0⟩) (vecGet y.bar n.val ⟨.unset, 0, 0⟩)
        (restoreBar (word (0x400 + 16 * n.val)) (word (0x408 + 16 * n.val)))
      resume := num 0x700 8 % 64
      awaiting := x.awaiting.filter fun a => bitAt (word 0x708) a.reg.toNat
      wake := since x.wake y.wake ((word 0x720).setWidth 6)
      task := x.task.map fun t => { t with reads := reads, fault := if here then t.fault else none }
      waiting := if here then x.waiting else none
      doing := if here then x.doing else none
      issued := if here then x.issued else none
      gathering := x.gathering && here
      m := Vector.ofFn fun n : Fin 16 =>
        mapImage (num (0x800 + 64 * n.val) 64) (mtags / 2 ^ n.val % 2 == 1) (vecGet x.m n.val mapRegReset).lift
      v := Vector.ofFn fun n : Fin 16 =>
        let v := vecGet x.v n.val vregReset
        { v with copies := BitVec.ofNat 4096 (num (0x1000 + 512 * n.val) 512) :: v.copies.tail } }

/-- Read the records of the contexts. -/
def readRecords (q c base n : Nat) : M (List (List Byte)) := do
  match n with
  | 0 => return []
  | k + 1 =>
    let l ← readRecords q c base k
    let b ← areaRead q c (base + 0x100000 + k * 0x4000) 0x4000 0x4001
    return l ++ [b]

/-- A format of a saved bank; 14 is written as 15 (R58). -/
def restoreFmt (m : SMap Nat) : SMap Nat := m.filter fun p => p.2 != 14

/-- The results on a port after the restore: the first seven as its record gives them, those without room there, and what came since (R250, R251). -/
def backResults (b : List Byte) (old now : List W64) : List W64 :=
  let n := (wordAt b 0).toNat / 256
  ((List.range (min n 7)).map fun j => wordAt b (8 + 8 * j)) ++ (old.drop 7).take (n - 7) ++ now.drop old.length

/-- A port of a context as its record gives it: one that is not bound there is freed, one that has expired there or meanwhile has expired (R180, R251;
log 15). -/
def restorePort (s : State) (f : Sender) (p : Nat) (b : List Byte) (old : List W64) : State :=
  match findLease s f p with
  | none => s
  | some l =>
    if bitAt (wordAt b 0) 0 then putLease s { l with expired := l.expired || bitAt (wordAt b 0) 1, results := backResults b old l.results }
    else endLease s l

/-- The ports e1 to e8 and e15 of a context as its record gives them (R250, R251). -/
def restorePorts (s : State) (f : Sender) (rec_ : List Byte) (old : Nat → List W64) : State :=
  let at_ := fun j : Nat => (rec_.drop (0x480 + 64 * j)).take 64
  let s := (List.range 8).foldl (fun s j => restorePort s f (j + 1) (at_ j) (old (j + 1))) s
  let rest := (s.launchResults.filter fun r => r.src = f).dropWhile fun r => !r.waits
  { s with launchResults :=
      (s.launchResults.filter fun r => r.src != f) ++ (backResults (at_ 8) (old 15) (readyResults s f)).map (fun w => ⟨f, w, false⟩) ++ rest }

/-- A part of a core's area whose layout the spec does not give still holds what the save wrote there (R251, R254). -/
def areaSame (mark u off : Nat) (b : List Byte) : Bool := b == (List.range b.length).map fun j => Config.areaByte mark (u * 0x400000 + off + j)

/-- A context of a core whose core record or lift store has been written over: what those parts hold is what `e` says, a free value (R251, R254; log 15). -/
def editedCtx (core lift : Bool) (e x : Ctx) : Ctx :=
  { x with
    task := match x.task, e.task with
      | some t, some u => some (if core then { u with reads := t.reads } else t)
      | t, _ => t
    masks := if lift then e.masks else x.masks
    v := if lift then Vector.ofFn fun n : Fin 16 =>
        let v := vecGet x.v n.val vregReset
        { v with copies := v.copies.take 1 ++ (vecGet e.v n.val vregReset).copies }
      else x.v }

/-- A saved core whose core record or lift store has been written over (R251, R254; log 15). -/
def editedCore (core lift : Bool) (e k : Core) : Core :=
  let k := { k with ctxs := k.ctxs.map fun p => (p.1, editedCtx core lift (mapGetD e.ctxs p.1 p.2) p.2) }
  if core then { k with
    classes := e.classes, chans := e.chans, senderLast := e.senderLast, queues := e.queues, lastGrant := e.lastGrant, seqOut := e.seqOut
    scaleOut := e.scaleOut, scaleIn := e.scaleIn, barHome := e.barHome, copies := e.copies, ops := e.ops }
  else k

/-- The kept record of a core as its core record and lift store in the area bear it out (R251, R254; log 15). -/
def restoreRecord (l : Launch) (k : SavedCore) : M Core := do
  let c := k.number % 1024
  let u := k.number - dBase l.desc
  let base := areaOf l.desc k.number
  let core ← areaRead l.queue c (base + 0x130000) 0x40000 0x40001
  let lift ← (if k.hasLift then areaRead l.queue c (base + 0x170000) 0x90000 0x90001 else pure [] : M (List Byte))
  return editedCore (!areaSame k.mark u 0x130000 core) (!areaSame k.mark u 0x170000 lift) (Config.editedCore k.mark (core ++ lift)) k.core

/-- What the area of a core holds: cell memory, the eleven records, and the core's own record (R251). -/
def readArea (l : Launch) (k : SavedCore) : M (Memory × List (List Byte) × Core) := do
  let c := k.number % 1024
  let base := areaOf l.desc k.number
  let b ← areaRead l.queue c base 0x100000 0x100001
  let recs ← readRecords l.queue c base 11
  let old ← restoreRecord l k
  return (memWrites [] 0 b, recs, old)

/-- The contexts of a core as their eleven records give them (R251): one that was never used stays so unless its record says otherwise. -/
def restoredCtxs (k : SavedCore) (recs : List (List Byte)) (old : SMap Ctx) : SMap Ctx :=
  (List.range 11).filterMap fun n =>
    let x := mapGetD old n (ctxReset k.number n)
    let z := restoreCtx x (mapGetD k.first n x) (recs.getD n [])
    if (mapGet old n).isNone && z.status = .free then none else some (n, z)

/-- A core as what was read for it makes it; counters that went on meanwhile keep their values (R254). -/
def restoredCore (own : Bool) (k : SavedCore) (cell : Memory) (recs : List (List Byte)) (old now : Core) : Core :=
  let ctxs := if own then restoredCtxs k recs old.ctxs else old.ctxs
  let point := fun t : Twin => if own then { t with point := ⟨mapGetD ctxs 0 t.point.ctx, cell, old.tags, restoreFmt old.bfmt⟩ } else t
  { old with
    ctxs := ctxs
    cell := cell
    bfmt := restoreFmt old.bfmt
    twin := old.twin.map point
    launch := old.launch.map fun r => { r with saved := false }
    epochs := max old.epochs now.epochs
    reserved := now.reserved
    buf := now.buf ++ old.buf
    left := now.left
    tail := if old.buf.isEmpty then now.tail else old.tail
    copies := old.copies ++ now.copies
    nextCopy := max old.nextCopy now.nextCopy
    nextPiece := max old.nextPiece now.nextPiece
    ops := old.ops ++ now.ops
    nextOp := max old.nextOp now.nextOp
    marks := now.marks }

/-- The ports of the contexts of a restored core (R251, R254). -/
def restoreAllPorts (s : State) (k : SavedCore) (recs : List (List Byte)) (ctxs : SMap Ctx) : State :=
  ctxs.foldl (fun s p => if p.2.status = .free then s
    else restorePorts s (senderOf s ⟨k.number % 1024, p.1⟩) (recs.getD p.1 []) fun j => mapGetD k.results (16 * p.1 + j) []) s

/-- Restore one core from its area and its record (R254). -/
def restoreCore (l : Launch) (k : SavedCore) : M Unit := do
  let s ← get
  let c := k.number % 1024
  let own := hasArea l k.number
  let r ← (if own then readArea l k else pure (k.core.cell, [], k.core) : M (Memory × List (List Byte) × Core))
  await_ (r.2.2.buf.isEmpty || (getCore s c).buf.isEmpty)
  let core := restoredCore own k r.1 r.2.1 r.2.2 (getCore s c)
  modify fun s => putCore s c core
  modify fun s => noteCore (if own then restoreAllPorts s k r.2.1 core.ctxs else s) c

/-- An accumulator from its bytes; its flags and tag come from what was kept. -/
def restoreTile (t : Tile) (b : List Byte) : Tile := { t with els := tileEls fun n => wordAt b (8 * n) }

/-- Rows of a sub-array from its bytes; ZERO and ONE are fixed (R210). -/
def restoreRows (k : Nat) (b : List Byte) : SMap (BitVec 512) :=
  (List.range 512).filterMap fun r =>
    let v := BitVec.ofNat 512 (ofBytes ((b.drop (64 * r)).take 64))
    if r = 508 || r = 509 || v = 0 then none else some (k * 512 + r, v)

/-- Read the parts of a wing image. -/
def readParts (q c base size n : Nat) : M (List (List Byte)) := do
  match n with
  | 0 => return []
  | k + 1 =>
    let l ← readParts q c base size k
    let b ← areaRead q c (base + k * size) size (size + 1)
    return l ++ [b]

/-- Write a saved wing image back to the wing at MEM0 of the core's binding as it now stands (R254). What the image has no room for, carry latches and the
flags and tags of accumulators, comes from what was kept (DESIGN CHOICE, log 15: R254 names accumulators and sub-arrays alone). -/
def restoreWing (l : Launch) (p : Nat × Wing) : M Unit := do
  let c := p.1 % 1024
  let base := areaOf l.desc p.1
  let acc ← readParts l.queue c (base + 0x200000) 0x2000 8
  let rows ← readParts l.queue c (base + 0x210000) 0x8000 16
  modify fun s => onWing s (memWing s c) fun w => { w with
    acc := Vector.ofFn fun n : Fin 8 => restoreTile (vecGet p.2.acc n.val tileReset) (acc.getD n.val [])
    rows := (List.range 16).flatMap fun k => restoreRows k (rows.getD k [])
    latch := p.2.latch
    badRows := [] }

/-- Restore a saved launch onto its cores: none while it must wait. -/
def restoreLaunch (s : State) (id : Nat) : Option State :=
  match s.launches.find? fun l => l.id = id && l.saved, s.saved.find? fun v => v.id = id with
  | some l, some v =>
    let act : M Unit := do
      modify fun s => takeCores s (returnCores s l)
      v.cores.forM fun k => restoreCore l k
      v.wings.forM fun w => restoreWing l w
    match act s with
    | .error _ _ => none
    | .ok _ s =>
      let rest := s.saved.filter fun v => v.id != id
      some { s with
        saved := rest
        launches := s.launches.map fun q => if q.id = id then { q with saved := false, pendingAt := none } else q
        mg := { s.mg with pstat := BitVec.ofNat 9 (s.mg.pstat.toNat % 256 + if rest.isEmpty then 0 else 256) } }
  | _, _ => none

/-- The launch is the claim that the engine serves next (R254). -/
def restoreTurn (s : State) (id : Nat) : Bool :=
  match chosen s with
  | some c => c.saved == some id
  | none => false

/-- LAUNCH_RESTORE (R254): a saved launch whose turn it is resumes on its cores. -/
def execLaunchRestore (launch : BitVec 32) (s : State) : Host.Outcome State Fault Refusal :=
  let s := markPending s
  if restoreTurn s launch.toNat then orWait s ((restoreLaunch s launch.toNat).map fun z => { z with lastFlood := s.lastFlood }) else .next s

/-- DEBUG_SINGLE_STEP (R254): a running launch is saved first; from there one step restores it, lets one context take one turn, and saves it again.
`debugHalt` names the context that may run, or context 11 when the step is done. -/
def execDebugSingleStep (launch : BitVec 32) (core cx : Nat) (s : State) : Host.Outcome State Fault Refusal :=
  let id := launch.toNat
  match s.debugHalt.find? fun h => h.1 = id with
  | some h =>
    if h.2.cx < 11 then .next s
    else match runningLaunch s id with
      | none => .next { s with debugHalt := s.debugHalt.filter fun g => g.1 != id }
      | some l => .next (match saveLaunch s l false with
          | none => s
          | some z => { z with debugHalt := z.debugHalt.filter fun g => g.1 != id })
  | none =>
    match runningLaunch s id with
    | some l =>
      (match areaGood s l ((launchCores s l.id).filter fun c => (dCores l.desc).contains c) with
      | some (true, s) => orWait s (saveLaunch s l false)
      | _ => .next s)
    | none =>
      let s := markPending s
      if restoreTurn s id then orWait s ((restoreLaunch s id).map fun z => { z with debugHalt := z.debugHalt ++ [(id, ⟨core, cx⟩)] })
      else .next s

end Sys2Proof.Machine
end

