-- ==== Sys2Proof/Machine/Manage.lean ====
section
/-! DEFINITION. What the management firmware and the power hardware do: remapping a core, cluster tests, thermal migration, energy budgets,
performance states and the parking of dies (R12, R13, R25, R261, R264, R265, R269 to R275, R281). -/

namespace Sys2Proof.Machine

/-- A valid entry of a die's core table names the site (R12). -/
def siteNamed (s : State) (site : Nat) : Bool :=
  (List.range 256).any fun n =>
    let c := site / 272 * 256 + n
    decide (2 ^ 15 ≤ (tableEntry s c).toNat) && siteOf s c == site

/-- A valid core-table entry. -/
def entryFor (site : Nat) : BitVec 16 := BitVec.ofNat 16 (2 ^ 15 + site % 272)

/-- A core begins at a new site with nothing resident; what it had sent goes on (R264). Its cell memory there is as after power-on (log 3). -/
def renewCore (s : State) (c : Nat) : State :=
  onCore s c fun k => { coreReset with
    launch := savedIdentity s c
    epochs := k.epochs
    left := k.left
    seqOut := k.seqOut
    copies := k.copies
    nextCopy := k.nextCopy
    nextPiece := k.nextPiece
    nextOp := k.nextOp }

/-- CORE_TABLE_REMAP (R12, R13, R261, R264): the firmware maps a sealed core, or one without a valid entry, to a spare site of its die; the monarch of
the launch that the core was sealed in receives kind 5. -/
def execCoreTableRemap (core px py : Nat) (s : State) : Host.Outcome State Fault Refusal :=
  if 1024 ≤ core ∨ 16 ≤ px ∨ 17 ≤ py then .fault .noSuchAgent
  else
    let site := dieOf core * 272 + py * 16 + px
    let k := getCore s core
    let unmapped := decide ((tableEntry s core).toNat < 2 ^ 15)
    if siteNamed s site || vecGet s.mg.parked (dieOf core) false || !(k.isSealed || unmapped) then .next s
    else
      let recNo := s.mg.rechead.toNat
      let s := { s with coreTable := mapSet s.coreTable core (entryFor site) }
      if !k.isSealed then .next s
      else
        let s := putRecord s 7 0 (siteLoc site) (coreNum s core) (launchOn s core) []
        let s := tellMonarch s core 5 0 0 (some recNo)
        let s := renewCore s core
        match k.launch with
        | some l => .next (finishLaunch s l.id)
        | none => .next s

/-- What ran on a cluster within a window of TIME (R265). -/
def ranIn (s : State) (cluster : Nat) (a b : W64) : List Ran :=
  s.mg.ran.filter fun r => r.cluster = cluster && decide (r.since.toNat ≤ b.toNat) && match r.stop with
    | some t => decide (a.toNat ≤ t.toNat)
    | none => true

/-- The pairs of a list whose partner ran on another physical cluster: the numbers of both cores of each (R265, R281). -/
def verifiedPairs (cluster : Nat) (l : List Ran) : List Nat :=
  let near := l.filterMap fun r => match r.pair with
    | some p => if p.2.2 = cluster then some p.1 else none
    | none => none
  ((l.filterMap fun r => r.pair.map fun p => (p.1, p.2.1)).eraseDups.filter fun p => !near.contains p.1).flatMap fun p => [p.1, p.2]

/-- Write continuation records of 14 words each (R281). -/
def putContinuations (s : State) (l : List Nat) (n : Nat) : State :=
  match n with
  | 0 => s
  | k + 1 => putContinuations (putContinuation s (l.take 14)) (l.drop 14) k

/-- The message of kind 4 for a launch that is still resident names its lowest core in the cluster (R261, R265). -/
def suspectMessage (s : State) (cluster recNo id : Nat) : State :=
  match s.launches.find? fun l => l.id = id && !l.saved with
  | none => s
  | some l =>
    match (dCores l.desc).find? fun c => clusterOf (siteOf s c) = cluster && launchOn s c = id with
    | some c => sendError s (dMonarch l.desc) 63 4 0 0 (coreNum s c) (some recNo) id
    | none => sendError s (dMonarch l.desc) 63 4 0 0 (dBase l.desc) (some recNo) id

/-- CLUSTER_SUSPECT (R265, R281): a cluster fails its test in the field. -/
def execClusterSuspect (cluster : Nat) (wstart wend : BitVec 64) (s : State) : Host.Outcome State Fault Refusal :=
  if 64 ≤ cluster then .fault .noSuchAgent
  else
    let l := ranIn s cluster wstart wend
    let ids := (l.map (·.launch)).eraseDups
    let words := ids ++ verifiedPairs cluster l
    -- NCONT has eight bits (R281)
    let n := min 255 ((words.length + 13) / 14)
    let recNo := s.mg.rechead.toNat
    let loc := siteLoc (cluster / 16 * 272 + cluster % 16 / 4 * 64 + cluster % 4 * 4)
    let s := putCluster s cluster { getCluster s cluster with suspect := true, mark := some (wstart, wend) }
    let s := putContinuations (putRecord s 4 0 loc 0 0 [natW (n * 2 ^ 8), wstart, wend]) words n
    .next (ids.foldl (fun s id => suspectMessage s cluster recNo id) s)

/-- CLUSTER_MARK_CLEARED (R265). -/
def execClusterMarkCleared (cluster : Nat) (s : State) : Host.Outcome State Fault Refusal :=
  if 64 ≤ cluster then .fault .noSuchAgent
  else .next (putCluster s cluster { getCluster s cluster with suspect := false, mark := none })

/-- R25: a core moves only when its front has MODE 0 with MEM0 = 4 and its wing is bound by no other front. -/
def mayMove (s : State) (c : Nat) : Bool :=
  let site := siteOf s c
  let b := (getFront s site).bind
  bits b 2 0 == 0 && bits b 11 8 == 4 && nshare s site == 1

/-- A site can take a moved core (R25, R275): spare or of an idle core, with a whole wing, in a cluster in P0 to P4 of a die that is not parked. At most
four fronts bind a wing (R17). -/
def takesCore (s : State) (c site : Nat) : Bool :=
  site != siteOf s c && (getWing s site).health == .whole && decide ((getCluster s (clusterOf site)).current.toNat ≤ 4) &&
    !vecGet s.mg.parked (site / 272) false && decide (((nearSites site).filter fun f => f != site && (members s f).contains site).length ≤ 3) &&
    (!siteNamed s site || match coreAtSite s site with
      | some d => coreFree s d
      | none => false)

/-- Some site of the die can take the core. -/
def canPlace (s : State) (c : Nat) : Bool := (List.range 272).any fun n => takesCore s c (dieOf c * 272 + n)

/-- A core stands at a boundary with what it sent in die order performed, a twinned one at a checkpoint (R70, R138, R258). -/
def coreRests (s : State) (c : Nat) : Bool :=
  (getCore s c).ctxs.all (fun p => atBoundary p.2) && atCheckpoint (getCore s c) && !dieOrderWaits s c

/-- The core stands where it can be moved (R70, R275): a twinned core at a checkpoint of both cores of its pair (R258). -/
def atRest (s : State) (c : Nat) : Bool :=
  coreRests s c && match (getCore s c).twin with
    | some t => coreRests s t.partner
    | none => true

/-- One site for the other. -/
def swapSite (a b x : Nat) : Nat := if x = a then b else if x = b then a else x

/-- An entry of a read set after a move. -/
def moveRead (a b : Nat) (r : ReadEntry) : ReadEntry :=
  match r with
  | .block n => .block n
  | .group w g => .group (w.map (swapSite a b)) g

/-- An array operation after a move: it has stopped, and its parts wait for the grant of their wings anew (R136, R275). -/
def moveOp (a b : Nat) (o : ArrayOp) : ArrayOp :=
  { o with parts := o.parts.map fun p => { p with wing := p.wing.map (swapSite a b) } }

/-- A held effect after a move. -/
def moveEffect (a b : Nat) (e : Effect) : Effect :=
  match e with
  | .array o => .array (moveOp a b o)
  | e => e

/-- What a core's record says of the wings' sites, after a move, with its fixed-latency writes landed (R70). -/
def moveCore (a b : Nat) (k : Core) : Core :=
  let task := fun t : Task => { t with reads := t.reads.map (moveRead a b), held := t.held.map (moveEffect a b) }
  { k with
    ops := k.ops.map (moveOp a b)
    marks := k.marks.map fun m => { m with site := swapSite a b m.site }
    twin := k.twin.map fun t => { t with held := t.held.map (moveEffect a b), released := t.released.map (moveEffect a b) }
    ctxs := k.ctxs.map fun p => (p.1, { landAll p.2 with task := p.2.task.map task }) }

/-- A wing that takes over the contents of another: accumulators, rows and pin slots, but not its health, its pointers and what other fronts have on
it (R275). -/
def moveWing (mine : Nat → Bool) (w old : Wing) : Wing :=
  { w with acc := old.acc, rows := old.rows, latch := old.latch, badRows := old.badRows, pins := old.pins, order := w.order.filter fun o => !mine o.1 }

/-- Move a core to a site; an idle core there takes the old one, and the contents of the two wings change places (R25, R275; log 17). -/
def migrate (s : State) (c site : Nat) : State :=
  let old := siteOf s c
  let other := coreAtSite s site
  let table := mapSet s.coreTable c (entryFor site)
  let z := (c :: other.toList).foldl (fun z d => stopCore z s.pendOrder d) { s with pendOrder := s.pendOrder + 1 }
  let z := { z with coreTable := match other with
    | some d => mapSet table d (entryFor old)
    | none => table }
  let mine := fun n : Nat => n = c || some n = other
  let z := putWing (putWing z site (moveWing mine (getWing z site) (getWing z old))) old (moveWing mine (getWing z old) (getWing z site))
  let z := putFront z site { getFront z site with bind := 0x400 }
  let z := { z with
    cores := z.cores.map fun p => if mine p.1 then (p.1, moveCore old site p.2) else p
    saved := z.saved.map fun v => { v with cores := v.cores.map fun k => if mine (k.number % 1024) then { k with core := moveCore old site k.core } else k } }
  match (getCore z c).twin with
  | some t => noteCore (noteCore z c) t.partner
  | none => noteCore z c

/-- R25's fallback: the core's cluster is held at the lowest performance state that keeps it within its thermal limit (log 16). -/
def thermalHold (s : State) (c : Nat) : State :=
  let n := clusterOf (siteOf s c)
  let z := putCluster s n (retarget { getCluster s n with hold := BitVec.ofNat 3 (Config.thermalState s.mg.thermals % 5) })
  { z with mg := { z.mg with thermals := z.mg.thermals + 1 } }

/-- THERMAL_MIGRATION (R25, R275): hardware moves a hot core, or holds its cluster where the core cannot move. An idle core at the new site has performed
what it sent in die order (R138). -/
def execThermalMigration (core px py : Nat) (s : State) : Host.Outcome State Fault Refusal :=
  if 1024 ≤ core ∨ 16 ≤ px ∨ 17 ≤ py then .fault .noSuchAgent
  else
    let site := dieOf core * 272 + py * 16 + px
    if absent s core || (getCore s core).isSealed then .next s
    else if !mayMove s core || !canPlace s core then .next (thermalHold s core)
    else if takesCore s core site && atRest s core && (coreAtSite s site).all (fun d => !dieOrderWaits s d) then .next (migrate s core site)
    else .next s

/-- Energy that the dies drew in the last `n` grant periods (R269). -/
def drawnBy (l : List (List Nat)) (n : Nat) (dies : List Nat) : Nat :=
  (l.take n).foldl (fun a p => dies.foldl (fun a d => a + p.getD d 0) a) 0

/-- What a cap leaves for a period: over a window of `n` periods of one microsecond at `watts`, in nanojoules (R269). -/
def windowLeft (l : List (List Nat)) (n watts den : Nat) (dies : List Nat) : Nat := n * 1000 * watts / den - drawnBy l (n - 1) dies

/-- A cluster's share in proportion to demand; `n` clusters without any demand have equal shares (DESIGN CHOICE, log 16: R270 gives no share then). -/
def shareOf (left demand total n : Nat) : Nat := if total = 0 then left / n else left * demand / total

/-- The cluster's part of what the four integrators leave (R270). -/
def clusterShare (s : State) (demand : List Nat) (n : Nat) : Nat :=
  let die := n / 16
  let mine := demand.getD n 0
  let all := (List.range 64).foldl (fun a j => a + demand.getD j 0) 0
  let here := (List.range 16).foldl (fun a j => a + demand.getD (die * 16 + j) 0) 0
  let avg := min s.mg.capAvgNow s.mg.capPeakNow
  let dies := [0, 1, 2, 3]
  let pkg := min (windowLeft s.mg.draws 10 s.mg.capPeakNow 1 dies) (windowLeft s.mg.draws 1000000 avg 1 dies)
  let own := min (windowLeft s.mg.draws 10 s.mg.capPeakNow 4 [die]) (windowLeft s.mg.draws 1000000 avg 4 [die])
  min (shareOf pkg mine all 64) (shareOf own mine here 16)

/-- What a cluster drew in the last period beside its charges: no more than its budget lets it (R269, R270). -/
def clusterDrawn (s : State) (drawn : List Nat) (n : Nat) : Nat :=
  let k := getCluster s n
  min (drawn.getD n 0) (k.budget - k.drawn)

/-- A cluster at the start of a grant period, with what it drew in the last one beside its charges (R270). The imposed state rises by a step when the
integrators leave what the next state can draw. -/
def grantCluster (s : State) (drawn demand : List Nat) (n : Nat) : Cluster :=
  let k := getCluster s n
  let used := k.drawn + clusterDrawn s drawn n
  let hit := k.throttled || (decide (0 < used) && decide (k.budget ≤ used))
  let share := clusterShare s demand n
  let up := k.imposed != 0 && !hit && decide (Config.stateDraw (k.imposed.toNat - 1) ≤ share)
  let budget := min share (Config.stateDraw k.current.toNat)
  retarget { k with
    imposed := if up then k.imposed - 1 else k.imposed
    budget := budget
    drawn := 0
    throttled := decide (budget = 0)
    periods := if hit then k.periods + 1 else 0 }

/-- What the integrators leave a die in this period beside the budgets of the clusters, for its HBM stacks and the device overhead: its own share and what
the package has left (R269, R274). -/
def spareRoom (s : State) (die : Nat) : Nat :=
  let avg := min s.mg.capAvgNow s.mg.capPeakNow
  let dies := [0, 1, 2, 3]
  let granted := fun l : List Nat => l.foldl (fun a n => a + (getCluster s n).budget) 0
  let pkg := min (windowLeft s.mg.draws 10 s.mg.capPeakNow 1 dies) (windowLeft s.mg.draws 1000000 avg 1 dies)
  let own := min (windowLeft s.mg.draws 10 s.mg.capPeakNow 4 [die]) (windowLeft s.mg.draws 1000000 avg 4 [die])
  let used := dies.foldl (fun a d => a + vecGet s.mg.spare d 0) 0
  min (pkg - granted (List.range 64) - used) (own - granted ((List.range 16).map fun j => die * 16 + j) - vecGet s.mg.spare die 0)

/-- A die draws energy beside its clusters, as far as the integrators leave it (R269). -/
def drawSpare (s : State) (die n : Nat) : State :=
  { s with mg := { s.mg with spare := vecSet s.mg.spare die (vecGet s.mg.spare die 0 + min n (spareRoom s die)) } }

/-- What a die drew in a period: its clusters, its HBM stacks and the device overhead (R269). -/
def dieDrawn (s : State) (drawn : List Nat) (die : Nat) : Nat :=
  (List.range 16).foldl (fun a j => a + (getCluster s (die * 16 + j)).drawn + clusterDrawn s drawn (die * 16 + j)) (vecGet s.mg.spare die 0)

/-- GRANT_PERIOD (R269, R270, R276, R278): the integrators take the energy of the last period, caps written in it take effect, PWRNOW, PWRLIM and ENPKG
follow, and every cluster gets its budget. `drawn` lists what the clusters drew beside the charges of contexts, and from entry 64 on what the dies' HBM
stacks drew. -/
def execGrantPeriod (drawn demand : List Nat) (s : State) : Host.Outcome State Fault Refusal :=
  let own := (List.range 64).foldl (fun a n => a + clusterDrawn s drawn n) 0
  let t := (List.range 4).foldl (fun s d => drawSpare s d (drawn.getD (64 + d) 0)) s
  let hbm := (List.range 4).foldl (fun a d => a + (vecGet t.mg.spare d 0 - vecGet s.mg.spare d 0)) 0
  let s := t
  let draws := ((List.range 4).map (dieDrawn s drawn) :: s.mg.draws).take 1000000
  let dies := [0, 1, 2, 3]
  let p := drawnBy draws 10 dies
  let a := drawnBy draws 1000000 dies
  let lim := (if 10 * 1000 * s.mg.capPeakNow ≤ p then 1 else 0) + (if 1000000 * 1000 * min s.mg.capAvgNow s.mg.capPeakNow ≤ a then 2 else 0)
  let z := { s with mg := { s.mg with
    draws := draws
    spare := Vector.replicate 4 0
    enpkg := s.mg.enpkg + natW (own + hbm)
    capPeakNow := s.mg.capPeak.toNat
    capAvgNow := s.mg.capAvg.toNat
    pwrnow := natW (p / 10000 % 2048 * 2 ^ 16 + a / 1000000000 % 2048)
    pwrlim := s.mg.pwrlim ||| BitVec.ofNat 2 lim } }
  .next ((List.range 64).foldl (fun s n => putCluster s n (grantCluster z drawn demand n)) z)

/-- THROTTLE_STATE_LOWER (R270): after 50 throttled periods in a row the arbiter lowers the imposed state by a step, as far as P4. -/
def execThrottleStateLower (cluster : Nat) (s : State) : Host.Outcome State Fault Refusal :=
  if 64 ≤ cluster then .fault .noSuchAgent
  else
    let k := getCluster s cluster
    if k.periods < 50 then .next s
    else .next (putCluster s cluster (retarget { k with imposed := BitVec.ofNat 3 (min (k.imposed.toNat + 1) 4), periods := 0 }))

/-- The cores at the sites of a cluster. -/
def clusterCores (s : State) (n : Nat) : List Nat :=
  ((List.range 256).map fun j => n / 16 * 256 + j).filter fun c => clusterOf (siteOf s c) = n && !absent s c

/-- PSTATE_HANDOVER (R271 to R273): the cluster switches to its target state; into P5 once its contexts stand between instructions, and out of P5 when
another state is requested. -/
def execPstateHandover (cluster : Nat) (s : State) : Host.Outcome State Fault Refusal :=
  if 64 ≤ cluster then .fault .noSuchAgent
  else
    let k := getCluster s cluster
    match k.target with
    | none => .next s
    | some t =>
      if t = 5 then
        if (clusterCores s cluster).all fun c => (getCore s c).ctxs.all fun p => atBoundary p.2 then
          .next (putCluster s cluster (retarget { k with before := k.current, current := 5 }))
        else .next s
      else .next (putCluster s cluster (retarget { k with current := t }))

/-- Something has reached a core of a sleeping cluster: a store, message or barrier arrival, a copy piece, a flood or restore that waits for it, or a
pre-emption request (R273). -/
def wakeCause (s : State) (cluster : Nat) : Bool :=
  let mine := clusterCores s cluster
  let here := fun num : Nat => match localCore s num with
    | some c => mine.contains c
    | none => false
  s.flights.any (fun f => here f.dst) ||
    s.cores.any (fun p => p.2.copies.any fun q => q.kind != .xput && !isFetch q && q.flying.any fun y => here y.run.target && !y.done) ||
    (claims s).any (fun c => claimServed s c && c.cores.any mine.contains) ||
    (bits (s.mg.preq.setWidth 64) 33 33 == 1 && (launchCores s (bits (s.mg.preq.setWidth 64) 31 0)).any mine.contains)

/-- P5_WAKE (R273): the cluster returns to the state it was in before P5, and PSTATE requests that state, in place of a 5 that the host wrote too; another
value of the host's stays its own (R58). -/
def execP5Wake (cluster : Nat) (s : State) : Host.Outcome State Fault Refusal :=
  if 64 ≤ cluster then .fault .noSuchAgent
  else
    let k := getCluster s cluster
    if k.current = 5 && wakeCause s cluster then
      .next (putCluster s cluster (retarget { k with request := k.before, requestHost := if k.requestHost = 5 then k.before else k.requestHost, current := k.before }))
    else .next s

/-- A die can be parked (R274): every core is free, and no launch is saved on it. What its far ways hold is not under lease (R158). -/
def canPark (s : State) (die : Nat) : Bool :=
  ((List.range 256).all fun n => coreFree s (die * 256 + n)) &&
    !(s.saved.any fun v => v.cores.any fun k => dieOf (k.number % 1024) = die) &&
    !((mapGetD s.mem.far die []).any fun p => p.2.owned && isLeased s (p.1 * 8) 8) &&
    !(s.mem.reduce.any fun r => r.die = die && isLeased s (r.line * 128) 128)

/-- A wing without power keeps no contents (R274; log 4). -/
def powerWing (die : Nat) (p : Nat × Wing) : Nat × Wing := if p.1 / 272 = die then (p.1, { wingReset with health := p.2.health }) else p

/-- A front without power comes back as at reset (R274; log 18). -/
def powerFront (die : Nat) (p : Nat × Front) : Nat × Front :=
  if p.1 / 272 = die then (p.1, { p.2 with bind := p.2.repair, tlb := [] }) else p

/-- A core without power keeps no cell memory (R274; log 4). -/
def powerCore (die : Nat) (p : Nat × Core) : Nat × Core := if dieOf p.1 = die then (p.1, { p.2 with cell := [], tags := [] }) else p

/-- DIE_PARK (R274): the far ways write back and drop their lines, then fronts and wings lose power. -/
def execDiePark (die : BitVec 2) (s : State) : Host.Outcome State Fault Refusal :=
  let d := die.toNat
  if vecGet s.mg.diectl d false && vecGet s.mg.diePending d false && !vecGet s.mg.parked d false && canPark s d && !farWaits s d then
    let z := onMem (flushFar s d) fun g => { g with far := mapErase g.far d }
    .next { z with
      wings := z.wings.map (powerWing d)
      fronts := z.fronts.map (powerFront d)
      cores := z.cores.map (powerCore d)
      mg := { z.mg with parked := vecSet z.mg.parked d true, diePending := vecSet z.mg.diePending d false } }
  else .next s

/-- DIE_UNPARK_COMPLETE (R274): the die's cores are present again and free. -/
def execDieUnparkComplete (die : BitVec 2) (s : State) : Host.Outcome State Fault Refusal :=
  let d := die.toNat
  if vecGet s.mg.parked d false && vecGet s.mg.unparking d false then
    .next { s with mg := { s.mg with parked := vecSet s.mg.parked d false, unparking := vecSet s.mg.unparking d false } }
  else .next s

end Sys2Proof.Machine
end

