-- ==== Sys2Proof/Machine/Links.lean ====
section
/-! DEFINITION. Patrol scrubbing, the host's accesses and keys, Boltex ports, TIME corrections, firmware and attestation
(R114, R115, R117, R153, R171, R277 to R282). -/

namespace Sys2Proof.Machine

/-- PATROL_SCRUB (R115): a failing sector is recorded and its line poisoned, with no fault. -/
def execPatrolScrub (pa : Nat) (s : State) : Host.Outcome State Fault Refusal :=
  if !inHbm s pa || isLeased s (pa / 64 * 64) 64 then .next s
  else
    let key := ((mapGet s.mem.sectorKey (pa / 64)).map (·.id)).getD 0
    .next (poisonIfBad s (pa / 64 * 64) key (some key) noCore)

/-- The bytes that the host reads through BAR2, or in its own memory (R153, R280). -/
def hostRead (s : State) (pa n : Nat) : State :=
  if isHost pa then { s with mg := { s.mg with hostData := natW (ofBytes (memReads s.mem.host (pa % 2 ^ 51) n)) } }
  else if !inHbm s pa then { s with mg := { s.mg with hostData := 0 } }
  else match homeReadFor noCore pa n 0 s with
    | .ok l z => { z with mg := { z.mg with hostData := natW (ofBytes l) } }
    | .error (.trap _) z => z
    | .error _ _ => s

/-- The host writes bytes (R153, R280). -/
def hostWrite (s : State) (pa : Nat) (l : List Byte) : State :=
  if isHost pa then onMem s fun g => { g with host := memWrites g.host (pa % 2 ^ 51) l }
  else if !inHbm s pa then s
  else match homeWrite pa l 0 s with
    | .ok _ z => z
    | .error _ _ => s

/-- The new value of an atomic operation of the host over `n` bytes, or none to leave it (R151, R280). -/
def hostNew (op : HostOp) (n old v : Nat) : Option Nat :=
  match op with
  | .fetchAdd => some ((old + v) % 2 ^ (8 * n))
  | .swap => some v
  | .cas want => if old = want.toNat % 2 ^ (8 * n) then some v else none
  | _ => none

/-- An atomic operation of the host on device memory, at the home slice as scope .sy: it takes effect with its read, and the host takes the old value
(R151, R153, R280). -/
def hostAtomic (s : State) (op : HostOp) (pa n v : Nat) : State :=
  let recalled := fun s : State => (wordsOf pa n).foldl (fun s w => recallWord s w none) s
  if isHost pa || !inHbm s pa then hostRead s pa n
  else if isLeased s pa n then s
  else match homeReadFor noCore pa n 0 (recalled s) with
    | .ok l z =>
      let z := { z with mg := { z.mg with hostData := natW (ofBytes l) } }
      match hostNew op n (ofBytes l) v with
      | some w => hostWrite z pa (toBytes w n)
      | none => z
    | .error (.trap _) z => z
    | .error _ _ => s

/-- HOST_MEMORY_ACCESS (R117, R153, R280): performed at the home slice. The host's own memory is its own. -/
def execHostMemoryAccess (op : HostOp) (pa n : Nat) (v : BitVec 64) (s : State) : Host.Outcome State Fault Refusal :=
  if 8 < pa % 8 + n then .fault .noSuchAgent
  else match op with
  | .read => .next (hostRead s pa n)
  | .write => .next (hostWrite s pa (toBytes v.toNat n))
  | op => .next (hostAtomic s op pa n (v.toNat % 2 ^ (8 * n)))

/-- KEY_LOAD (R114): the host loads the AES-256-XTS key and the integrity key of a key ID. -/
def execKeyLoad (key : BitVec 8) (value : PageKey) (s : State) : Host.Outcome State Fault Refusal :=
  if key = 0 then .next s else .next (onMem s fun g => { g with keys := mapSet g.keys key.toNat value })

/-- Change a port. -/
def onLink (s : State) (port : BitVec 4) (f : Link → Link) : State :=
  { s with mg := { s.mg with links := vecModify s.mg.links port.toNat f } }

/-- LINK_LANE_FAILURE (R279): the port retrains to 8 lanes; what is in flight is retried. -/
def execLinkLaneFailure (port : BitVec 4) (s : State) : Host.Outcome State Fault Refusal :=
  .next (onLink s port fun l => if l.down then l else { l with lanes := 8, degraded := true })

/-- LINK_DOWN (R279). -/
def execLinkDown (port : BitVec 4) (s : State) : Host.Outcome State Fault Refusal :=
  .next (onLink s port fun l => { l with lanes := 0, degraded := false, down := true })

/-- PORT_TRAINED (R278, R279): a port with a partner reports its lanes, 16, or 8 when it is degraded. -/
def execPortTrained (port : BitVec 4) (lanes : Nat) (s : State) : Host.Outcome State Fault Refusal :=
  if lanes = 16 ∨ lanes = 8 then .next (onLink s port fun _ => ⟨true, lanes, lanes = 8, false⟩) else .fault .noSuchAgent

/-- The first scale that a copy has in flight to another device (R171, R279). -/
def scaleAbroad (s : State) (core id : Nat) : Option (Copy × Nat) :=
  ((getCore s core).copies.find? fun q => q.id = id && q.scaled).bind fun q =>
    (q.flying.find? fun p => (localCore s p.run.target).isNone && !p.scales.isEmpty).bind fun p => p.scales.head?.map fun z => (q, z.1)

/-- LINK_FLIT_LOST (R171, R279, R281): a record of type 6; when the flit carried a scale, the receiver pairs the next one with the wrong tile, and the
sending context takes SCALEPAIR (log 19). -/
def execLinkFlitLost (port : BitVec 4) (core id : Nat) (s : State) : Host.Outcome State Fault Refusal :=
  let z := putRecord s 6 0 port.toNat 0 0 []
  match scaleAbroad s core id with
  | none => .next z
  | some (q, n) =>
    let t : Trap := ⟨cSCALEPAIR, false, natW (n % 4096 * 2 ^ 16 + (n + 1) % 4096)⟩
    let z := onCore z core fun k => { k with copies := k.copies.map fun c => if c.id = q.id then { c with err := some t } else c }
    .next (deferTo z q.src t none)

/-- TIME_CORRECTION (R277): the first alignment sets the epoch, never backwards; every later correction slews. -/
def execTimeCorrection (epoch : BitVec 64) (faster : Bool) (ppm : Nat) (s : State) : Host.Outcome State Fault Refusal :=
  let slew := min ppm 100
  if s.mg.aligned then .next { s with mg := { s.mg with timeSlew := slew, slewFaster := faster } }
  else .next { s with mg := { s.mg with aligned := true, time := if s.mg.time.toNat ≤ epoch.toNat then epoch else s.mg.time } }

/-- FIRMWARE_IMAGE_CHECK (R282): an image that fails is not run, and the device stays in recovery. -/
def execFirmwareImageCheck (image : Nat) (s : State) : Host.Outcome State Fault Refusal :=
  if Config.firmwareGood image then .next s else .next { s with mg := { s.mg with recovery := true } }

/-- An answer over the DOE mailbox (R282), with the session after it. -/
def spdmSay (s : State) (r : SpdmReply) (f : Spdm → Spdm) : State :=
  { s with mg := { s.mg with spdm := f { s.mg.spdm with replies := s.mg.spdm.replies ++ [r] } } }

/-- A request that comes too early is answered with SPDM's error 4 (PRESUMED: DMTF SPDM 1.2, log 9). -/
def spdmAfter (s : State) (ready : Bool) (r : SpdmReply) (f : Spdm → Spdm) : State :=
  if ready then spdmSay s r f else spdmSay s (.error 4) id

/-- GET_VERSION (R282): SPDM 1.2; the session begins anew. -/
def execGetVersion (s : State) : Host.Outcome State Fault Refusal :=
  .next (spdmSay s (.version 1 2) fun p => { p with versionDone := true, capsDone := false, algsDone := false })

/-- GET_CAPABILITIES (R282): the requests that the device supports, by their SPDM codes (log 9). -/
def execGetCapabilities (s : State) : Host.Outcome State Fault Refusal :=
  .next (spdmAfter s s.mg.spdm.versionDone (.capabilities [0x84, 0xE1, 0xE3, 0x81, 0x82, 0x83, 0xE0]) fun p => { p with capsDone := true })

/-- NEGOTIATE_ALGORITHMS (R282): ECDSA P-256 and SHA-256 only, by their SPDM bits (log 9). -/
def execNegotiateAlgorithms (asym hash : Nat) (s : State) : Host.Outcome State Fault Refusal :=
  let a := asym &&& 0x10
  let h := hash &&& 1
  .next (spdmAfter s s.mg.spdm.capsDone (.algorithms a h) fun p => { p with algsDone := a != 0 && h != 0 })

/-- GET_DIGESTS (R282). -/
def execGetDigests (s : State) : Host.Outcome State Fault Refusal :=
  .next (spdmAfter s s.mg.spdm.algsDone (.digests Config.certDigest) id)

/-- GET_CERTIFICATE (R282): a part of the identity certificate chain. -/
def execGetCertificate (off len : Nat) (s : State) : Host.Outcome State Fault Refusal :=
  let n := min len (Config.certLength - off)
  .next (spdmAfter s s.mg.spdm.algsDone (.certificate ((List.range n).map fun j => Config.certificate (off + j))) id)

/-- CHALLENGE (R282): signed with the identity key. -/
def execChallenge (nonce : Nat) (s : State) : Host.Outcome State Fault Refusal :=
  .next (spdmAfter s s.mg.spdm.algsDone (.challenge nonce Config.certDigest (Config.signature nonce)) id)

/-- The measurements of R282: boot ROM, management firmware, device firmware and repair data, MGCFG, and the four L2WAYSd values. -/
def measure (s : State) (n : Nat) : Nat :=
  if n ≤ 4 then Config.measurement n
  else if n = 5 then (boolW s.mg.mgcfg).toNat
  else (List.range 4).foldl (fun a d => a + (vecGet s.mem.l2ways d 0).toNat * 2 ^ (12 * d)) 0

/-- GET_MEASUREMENTS (R282): index 0 asks for their number, 255 for all (log 9). -/
def execGetMeasurements (index : Nat) (s : State) : Host.Outcome State Fault Refusal :=
  let r : SpdmReply := if index = 0 then .measurements [6] else if index = 255 then .measurements ((List.range 6).map fun n => measure s (n + 1))
    else if index ≤ 6 then .measurements [measure s index] else .error 1
  .next (spdmAfter s s.mg.spdm.algsDone r id)

end Sys2Proof.Machine
end

