-- ==== Sys2Proof/Machine/Dispatch.lean ====
section
/-! DEFINITION. The meaning of every instruction and event row, one arm each. -/

namespace Sys2Proof.Machine

def exec (i : Instr) (s : State) : Host.Outcome State Fault Refusal :=
  match i with
  | .add d a b y => Sys2Proof.Machine.execAdd d a b y s
  | .sub d a b y => Sys2Proof.Machine.execSub d a b y s
  | .mul d a b y => Sys2Proof.Machine.execMul d a b y s
  | .mulh d a b y => Sys2Proof.Machine.execMulh d a b y s
  | .mulhUi64 d a b y => Sys2Proof.Machine.execMulhUi64 d a b y s
  | .div d a b y => Sys2Proof.Machine.execDiv d a b y s
  | .divUi64 d a b y => Sys2Proof.Machine.execDivUi64 d a b y s
  | .rem d a b y => Sys2Proof.Machine.execRem d a b y s
  | .remUi64 d a b y => Sys2Proof.Machine.execRemUi64 d a b y s
  | .and d a b y => Sys2Proof.Machine.execAnd d a b y s
  | .or d a b y => Sys2Proof.Machine.execOr d a b y s
  | .xor d a b y => Sys2Proof.Machine.execXor d a b y s
  | .shl d a b y => Sys2Proof.Machine.execShl d a b y s
  | .shr d a b y => Sys2Proof.Machine.execShr d a b y s
  | .sar d a b y => Sys2Proof.Machine.execSar d a b y s
  | .min d a b y => Sys2Proof.Machine.execMin d a b y s
  | .minUi64 d a b y => Sys2Proof.Machine.execMinUi64 d a b y s
  | .max d a b y => Sys2Proof.Machine.execMax d a b y s
  | .maxUi64 d a b y => Sys2Proof.Machine.execMaxUi64 d a b y s
  | .clz d a y => Sys2Proof.Machine.execClz d a y s
  | .popc d a y => Sys2Proof.Machine.execPopc d a y s
  | .mov d a y => Sys2Proof.Machine.execMov d a y s
  | .mov16 d a => Sys2Proof.Machine.execMov16 d a s
  | .addi d a imm y => Sys2Proof.Machine.execAddi d a imm y s
  | .addi16 d imm => Sys2Proof.Machine.execAddi16 d imm s
  | .andi d a imm y => Sys2Proof.Machine.execAndi d a imm y s
  | .seti d a imm y => Sys2Proof.Machine.execSeti d a imm y s
  | .movi d imm y => Sys2Proof.Machine.execMovi d imm y s
  | .movh d imm y => Sys2Proof.Machine.execMovh d imm y s
  | .sel d a b fn y => Sys2Proof.Machine.execSel d a b fn y s
  | .set d a b fn y => Sys2Proof.Machine.execSet d a b fn y s
  | .bfx d a b sg y => Sys2Proof.Machine.execBfx d a b sg y s
  | .bfi d a b y => Sys2Proof.Machine.execBfi d a b y s
  | .cbnd d a b y => Sys2Proof.Machine.execCbnd d a b y s
  | .cprm d a b y => Sys2Proof.Machine.execCprm d a b y s
  | .cinc d a b y => Sys2Proof.Machine.execCinc d a b y s
  | .cget d a sel y => Sys2Proof.Machine.execCget d a sel y s
  | .cclr d a y => Sys2Proof.Machine.execCclr d a y s
  | .br off y => Sys2Proof.Machine.execBr off y s
  | .br16 off => Sys2Proof.Machine.execBr16 off s
  | .brb a bit sense off y => Sys2Proof.Machine.execBrb a bit sense off y s
  | .brc a b cond off y => Sys2Proof.Machine.execBrc a b cond off y s
  | .jr d a y => Sys2Proof.Machine.execJr d a y s
  | .call off y => Sys2Proof.Machine.execCall off y s
  | .callat d a b k y => Sys2Proof.Machine.execCallat d a b k y s
  | .nop y => Sys2Proof.Machine.execNop y s
  | .nop16 => Sys2Proof.Machine.execNop16 s
  | .done y => Sys2Proof.Machine.execDone y s
  | .done16 => Sys2Proof.Machine.execDone16 s
  | .ret y => Sys2Proof.Machine.execRet y s
  | .ret16 => Sys2Proof.Machine.execRet16 s
  | .brk y => Sys2Proof.Machine.execBrk y s
  | .brk16 => Sys2Proof.Machine.execBrk16 s
  | .eret y => Sys2Proof.Machine.execEret y s
  | .idle d a y => Sys2Proof.Machine.execIdle d a y s
  | .tsget d y => Sys2Proof.Machine.execTsget d y s
  | .tshor d y => Sys2Proof.Machine.execTshor d y s
  | .bpsync y => Sys2Proof.Machine.execBpsync y s
  | .lret y => Sys2Proof.Machine.execLret y s
  | .start d a b y => Sys2Proof.Machine.execStart d a b y s
  | .hjoin d a y => Sys2Proof.Machine.execHjoin d a y s
  | .msg d a imm y => Sys2Proof.Machine.execMsg d a imm y s
  | .msgt d a imm y => Sys2Proof.Machine.execMsgt d a imm y s
  | .evtick d a chn y => Sys2Proof.Machine.execEvtick d a chn y s
  | .binit n a b y => Sys2Proof.Machine.execBinit n a b y s
  | .barr n y => Sys2Proof.Machine.execBarr n y s
  | .bwait n y => Sys2Proof.Machine.execBwait n y s
  | .ld d a sz off y => Sys2Proof.Machine.execLd d a sz off y s
  | .st d a sz off y => Sys2Proof.Machine.execSt d a sz off y s
  | .ldg d a sz acq sc off y => Sys2Proof.Machine.execLdg d a sz acq sc off y s
  | .stg d a sz rel sc off y => Sys2Proof.Machine.execStg d a sz rel sc off y s
  | .ldv d m y => Sys2Proof.Machine.execLdv d m y s
  | .ldvImg d m y => Sys2Proof.Machine.execLdvImg d m y s
  | .ldvStream d n t y => Sys2Proof.Machine.execLdvStream d n t y s
  | .stv d m y => Sys2Proof.Machine.execStv d m y s
  | .stvImg d m y => Sys2Proof.Machine.execStvImg d m y s
  | .amo d a b op w64 y => Sys2Proof.Machine.execAmo d a b op w64 y s
  | .cas d a b w64 y => Sys2Proof.Machine.execCas d a b w64 y s
  | .gamo d a b op sc y => Sys2Proof.Machine.execGamo d a b op sc y s
  | .gcas d a b w64 sc y => Sys2Proof.Machine.execGcas d a b w64 sc y s
  | .red t a b op y => Sys2Proof.Machine.execRed t a b op y s
  | .fence sc y => Sys2Proof.Machine.execFence sc y s
  | .send d a b k y => Sys2Proof.Machine.execSend d a b k y s
  | .sends d a b k y => Sys2Proof.Machine.execSends d a b k y s
  | .spread d a b k y => Sys2Proof.Machine.execSpread d a b k y s
  | .xget d a b k y => Sys2Proof.Machine.execXget d a b k y s
  | .xput d a b k y => Sys2Proof.Machine.execXput d a b k y s
  | .waitk lo hi y => Sys2Proof.Machine.execWaitk lo hi y s
  | .pushe n a y => Sys2Proof.Machine.execPushe n a y s
  | .pope d n y => Sys2Proof.Machine.execPope d n y s
  | .blease n a b all y => Sys2Proof.Machine.execBlease n a b all y s
  | .bfree n y => Sys2Proof.Machine.execBfree n y s
  | .sbind n a b z y => Sys2Proof.Machine.execSbind n a b z y s
  | .sfree n y => Sys2Proof.Machine.execSfree n y s
  | .fadd d a b t y => Sys2Proof.Machine.execFadd d a b t y s
  | .fmul d a b t y => Sys2Proof.Machine.execFmul d a b t y s
  | .ffma d a b t y => Sys2Proof.Machine.execFfma d a b t y s
  | .fcvt d a ts rnd td y => Sys2Proof.Machine.execFcvt d a ts rnd td y s
  | .fset d a b t y => Sys2Proof.Machine.execFset d a b t y s
  | .vshape rows clo chi t y => Sys2Proof.Machine.execVshape rows clo chi t y s
  | .vadd d m0 a m1 b m2 t y => Sys2Proof.Machine.execVadd d m0 a m1 b m2 t y s
  | .vsub d m0 a m1 b m2 t y => Sys2Proof.Machine.execVsub d m0 a m1 b m2 t y s
  | .vmul d m0 a m1 b m2 t y => Sys2Proof.Machine.execVmul d m0 a m1 b m2 t y s
  | .vfma d m0 a m1 b m2 t y => Sys2Proof.Machine.execVfma d m0 a m1 b m2 t y s
  | .vmin d a b t y => Sys2Proof.Machine.execVmin d a b t y s
  | .vmax d a b t y => Sys2Proof.Machine.execVmax d a b t y s
  | .vabs d a m2 t y => Sys2Proof.Machine.execVabs d a m2 t y s
  | .vsqrt d m0 a m1 t y => Sys2Proof.Machine.execVsqrt d m0 a m1 t y s
  | .vrsq d m0 a m1 t y => Sys2Proof.Machine.execVrsq d m0 a m1 t y s
  | .vexp2 d m0 a m1 t y => Sys2Proof.Machine.execVexp2 d m0 a m1 t y s
  | .vrcp d m0 a m1 t y => Sys2Proof.Machine.execVrcp d m0 a m1 t y s
  | .vcvt d m0 a m1 ts td y => Sys2Proof.Machine.execVcvt d m0 a m1 ts td y s
  | .vqnt d m0 a m1 b m2 t y => Sys2Proof.Machine.execVqnt d m0 a m1 b m2 t y s
  | .vdq d m0 a m1 b m2 t y => Sys2Proof.Machine.execVdq d m0 a m1 b m2 t y s
  | .vand d a b t y => Sys2Proof.Machine.execVand d a b t y s
  | .vor d a b t y => Sys2Proof.Machine.execVor d a b t y s
  | .vxor d a b t y => Sys2Proof.Machine.execVxor d a b t y s
  | .vshl d a b m2 t y => Sys2Proof.Machine.execVshl d a b m2 t y s
  | .vshr d a b t y => Sys2Proof.Machine.execVshr d a b t y s
  | .vsel d a b t y => Sys2Proof.Machine.execVsel d a b t y s
  | .vcmp d m0 a m1 b m2 t y => Sys2Proof.Machine.execVcmp d m0 a m1 b m2 t y s
  | .vred d m0 a m1 op axis t y => Sys2Proof.Machine.execVred d m0 a m1 op axis t y s
  | .vbcst d a t y => Sys2Proof.Machine.execVbcst d a t y s
  | .vmov d a t y => Sys2Proof.Machine.execVmov d a t y s
  | .vscan d m0 a m1 b m2 t y => Sys2Proof.Machine.execVscan d m0 a m1 b m2 t y s
  | .vtrn d a t y => Sys2Proof.Machine.execVtrn d a t y s
  | .vgath d a b t y => Sys2Proof.Machine.execVgath d a b t y s
  | .lift a b y => Sys2Proof.Machine.execLift a b y s
  | .lidx d lvl t y => Sys2Proof.Machine.execLidx d lvl t y s
  | .lany d a t y => Sys2Proof.Machine.execLany d a t y s
  | .lall d a t y => Sys2Proof.Machine.execLall d a t y s
  | .mlease y => Sys2Proof.Machine.execMlease y s
  | .mrel y => Sys2Proof.Machine.execMrel y s
  | .mma d a b y => Sys2Proof.Machine.execMma d a b y s
  | .mmas d ehi a b elo y => Sys2Proof.Machine.execMmas d ehi a b elo y s
  | .mzero d y => Sys2Proof.Machine.execMzero d y s
  | .mrda d a b t y => Sys2Proof.Machine.execMrda d a b t y s
  | .mwra d a b t y => Sys2Proof.Machine.execMwra d a b t y s
  | .tfetch slot m k y => Sys2Proof.Machine.execTfetch slot m k y s
  | .tunpin slot y => Sys2Proof.Machine.execTunpin slot y s
  | .bpld d m es pat y => Sys2Proof.Machine.execBpld d m es pat y s
  | .bpst d m es y => Sys2Proof.Machine.execBpst d m es y s
  | .bpadd d a b sat y => Sys2Proof.Machine.execBpadd d a b sat y s
  | .bpsub d a b sat y => Sys2Proof.Machine.execBpsub d a b sat y s
  | .bpmul d a b sat y => Sys2Proof.Machine.execBpmul d a b sat y s
  | .bpmacc d a b y => Sys2Proof.Machine.execBpmacc d a b y s
  | .bpand d a b fn y => Sys2Proof.Machine.execBpand d a b fn y s
  | .bpcmp d a b cond y => Sys2Proof.Machine.execBpcmp d a b cond y s
  | .bpsel d a b y => Sys2Proof.Machine.execBpsel d a b y s
  | .bpset d b y => Sys2Proof.Machine.execBpset d b y s
  | .bpcopy d a sat y => Sys2Proof.Machine.execBpcopy d a sat y s
  | .bpdecay d y => Sys2Proof.Machine.execBpdecay d y s
  | .bprow d a b f keep y => Sys2Proof.Machine.execBprow d a b f keep y s
  | .trstep d a b y => Sys2Proof.Machine.execTrstep d a b y s
  | .csrr d imm y => Sys2Proof.Machine.execCsrr d imm y s
  | .csrw a imm y => Sys2Proof.Machine.execCsrw a imm y s
  | .trap imm y => Sys2Proof.Machine.execTrap imm y s
  | .trapSeal y => Sys2Proof.Machine.execTrapSeal y s
  | .tlbiAll y => Sys2Proof.Machine.execTlbiAll y s
  | .tlbiAs a y => Sys2Proof.Machine.execTlbiAs a y s
  | .tlbiVa a b y => Sys2Proof.Machine.execTlbiVa a b y s
  | .bind a y => Sys2Proof.Machine.execBind a y s
  | .twin d a y => Sys2Proof.Machine.execTwin d a y s
  | .untwin y => Sys2Proof.Machine.execUntwin y s
  | .guardT a bit => Sys2Proof.Machine.execGuardT a bit s
  | .guardF a bit => Sys2Proof.Machine.execGuardF a bit s
  | .powerOn => Sys2Proof.Machine.execPowerOn s
  | .registerWrite r v => Sys2Proof.Machine.execRegisterWrite r v s
  | .qsizeWrite q v => Sys2Proof.Machine.execQsizeWrite q v s
  | .qtailWrite q v => Sys2Proof.Machine.execQtailWrite q v s
  | .e15LaunchPush n => Sys2Proof.Machine.execE15LaunchPush n s
  | .flood => Sys2Proof.Machine.execFlood s
  | .launchComplete core => Sys2Proof.Machine.execLaunchComplete core s
  | .messageArrival n => Sys2Proof.Machine.execMessageArrival n s
  | .evtickArrival n => Sys2Proof.Machine.execEvtickArrival n s
  | .callatArrival n => Sys2Proof.Machine.execCallatArrival n s
  | .refusalReturn n => Sys2Proof.Machine.execRefusalReturn n s
  | .deferredFaultEntry core cx => Sys2Proof.Machine.execDeferredFaultEntry core cx s
  | .taskDispatch core => Sys2Proof.Machine.execTaskDispatch core s
  | .taskCommitBegin core => Sys2Proof.Machine.execTaskCommitBegin core s
  | .callatDeposit n => Sys2Proof.Machine.execCallatDeposit n s
  | .storeBufferDrain core => Sys2Proof.Machine.execStoreBufferDrain core s
  | .remoteStoreArrival n => Sys2Proof.Machine.execRemoteStoreArrival n s
  | .redPerform n => Sys2Proof.Machine.execRedPerform n s
  | .ownedWordTimeout die word => Sys2Proof.Machine.execOwnedWordTimeout die word s
  | .copyPieceStart core id => Sys2Proof.Machine.execCopyPieceStart core id s
  | .copyPieceArrival core id n => Sys2Proof.Machine.execCopyPieceArrival core id n s
  | .copyPieceComplete core id n => Sys2Proof.Machine.execCopyPieceComplete core id n s
  | .streamDelivery core id n => Sys2Proof.Machine.execStreamDelivery core id n s
  | .bankLeaseGrant n => Sys2Proof.Machine.execBankLeaseGrant n s
  | .mode id => Sys2Proof.Machine.execMode id s
  | .vbw id => Sys2Proof.Machine.execVbw id s
  | .vbl id => Sys2Proof.Machine.execVbl id s
  | .dot id => Sys2Proof.Machine.execDot id s
  | .wrw id => Sys2Proof.Machine.execWrw id s
  | .bankCommandError id => Sys2Proof.Machine.execBankCommandError id s
  | .bankLeaseExpiry id => Sys2Proof.Machine.execBankLeaseExpiry id s
  | .wingDispatchGrant site => Sys2Proof.Machine.execWingDispatchGrant site s
  | .matrixLeaseGrant site => Sys2Proof.Machine.execMatrixLeaseGrant site s
  | .matrixLeaseCountEnd site => Sys2Proof.Machine.execMatrixLeaseCountEnd site s
  | .matrixLeaseIdleTimeout site => Sys2Proof.Machine.execMatrixLeaseIdleTimeout site s
  | .arrayOpComplete site n => Sys2Proof.Machine.execArrayOpComplete site n s
  | .tfetchComplete core id => Sys2Proof.Machine.execTfetchComplete core id s
  | .barrierArrival n => Sys2Proof.Machine.execBarrierArrival n s
  | .barrierCompletion n => Sys2Proof.Machine.execBarrierCompletion n s
  | .preemptRequest launch wingsave => Sys2Proof.Machine.execPreemptRequest launch wingsave s
  | .launchRestore launch => Sys2Proof.Machine.execLaunchRestore launch s
  | .debugSingleStep launch core cx => Sys2Proof.Machine.execDebugSingleStep launch core cx s
  | .twinIntervalEnd core => Sys2Proof.Machine.execTwinIntervalEnd core s
  | .internalUeDetected core => Sys2Proof.Machine.execInternalUeDetected core s
  | .coreTableRemap core px py => Sys2Proof.Machine.execCoreTableRemap core px py s
  | .clusterSuspect cluster wstart wend => Sys2Proof.Machine.execClusterSuspect cluster wstart wend s
  | .thermalMigration core px py => Sys2Proof.Machine.execThermalMigration core px py s
  | .grantPeriod drawn demand => Sys2Proof.Machine.execGrantPeriod drawn demand s
  | .throttleStateLower cluster => Sys2Proof.Machine.execThrottleStateLower cluster s
  | .pstateHandover cluster => Sys2Proof.Machine.execPstateHandover cluster s
  | .p5Wake cluster => Sys2Proof.Machine.execP5Wake cluster s
  | .diectlWrite die v => Sys2Proof.Machine.execDiectlWrite die v s
  | .diePark die => Sys2Proof.Machine.execDiePark die s
  | .pwrlimClear v => Sys2Proof.Machine.execPwrlimClear v s
  | .l2waysWrite die v => Sys2Proof.Machine.execL2waysWrite die v s
  | .patrolScrub pa => Sys2Proof.Machine.execPatrolScrub pa s
  | .hostMemoryAccess op pa n v => Sys2Proof.Machine.execHostMemoryAccess op pa n v s
  | .keyLoad key value => Sys2Proof.Machine.execKeyLoad key value s
  | .linkLaneFailure port => Sys2Proof.Machine.execLinkLaneFailure port s
  | .linkDown port => Sys2Proof.Machine.execLinkDown port s
  | .linkFlitLost port core id => Sys2Proof.Machine.execLinkFlitLost port core id s
  | .timeCorrection epoch faster ppm => Sys2Proof.Machine.execTimeCorrection epoch faster ppm s
  | .firmwareImageCheck image => Sys2Proof.Machine.execFirmwareImageCheck image s
  | .getVersion => Sys2Proof.Machine.execGetVersion s
  | .getCapabilities => Sys2Proof.Machine.execGetCapabilities s
  | .negotiateAlgorithms asym hash => Sys2Proof.Machine.execNegotiateAlgorithms asym hash s
  | .getDigests => Sys2Proof.Machine.execGetDigests s
  | .getCertificate off len => Sys2Proof.Machine.execGetCertificate off len s
  | .challenge nonce => Sys2Proof.Machine.execChallenge nonce s
  | .getMeasurements index => Sys2Proof.Machine.execGetMeasurements index s
  | .timeReached core cx => Sys2Proof.Machine.execTimeReached core cx s
  | .wingOperationComplete site n => Sys2Proof.Machine.execWingOperationComplete site n s
  | .portTrained port lanes => Sys2Proof.Machine.execPortTrained port lanes s
  | .clusterMarkCleared cluster => Sys2Proof.Machine.execClusterMarkCleared cluster s
  | .dieUnparkComplete die => Sys2Proof.Machine.execDieUnparkComplete die s

end Sys2Proof.Machine
end

