-- ==== Sys2Proof/Machine/Run.lean ====
section
/-! DEFINITION. One turn of a context: a pending deferred fault or the next instruction, with its GUARD; and the changes that come between
instructions (R60, R62, R113, R147, R243, R244, R256, R276, R277). Step.lean only calls this. -/

namespace Sys2Proof.Machine

/-- A debug step lets the context run: none stands for its launch, or it names this context (R254). -/
def debugAllows (s : State) (launch : Nat) (id : CtxId) : Bool :=
  match s.debugHalt.find? fun h => h.1 = launch with
  | none => true
  | some h => h.2 = id

/-- A core executes: it is present and not sealed, its launch is not saved, its cluster has a clock (R249, R263, R273). -/
def coreRuns (s : State) (c : Nat) : Bool := !(getCore s c).isSealed && !absent s c && inService s c && !asleep s c

/-- A pre-emption under way has halted the context: GO is set for its launch, and it has come to a boundary of R70, in a pair to a checkpoint (R249,
R258). -/
def halts (s : State) (id : CtxId) : Bool :=
  let go := s.mg.preq.setWidth 64
  bitAt go 33 && launchOn s id.core == bits go 31 0 && atBoundary (getCtx s id) && atCheckpoint (getCore s id.core)

/-- A context can execute: it is in use and not at rest, its core executes, no debug halt and no pre-emption holds it. A task that has executed DONE, that
stalls at a fault, or that is to wait for its commit goes on once it commits (R35, R42, R45, R248, R254). -/
def runnable (s : State) (id : CtxId) : Bool :=
  let x := getCtx s id
  decide (id.cx < 11) && decide (id.core < 1024) &&
  (match x.status, x.task with
    | .live, _ => true
    | .task, some t => t.committing || !(t.finished || t.waitCommit || t.fault.isSome)
    | .task, none => true
    | _, _ => false) &&
  coreRuns s id.core && debugAllows s (launchOn s id.core) id && !halts s id

/-- The next instruction of the executing context, read from memory and decoded at the address behind its GUARD latch (R62). A fault of the
fetch, and ILLOP of bytes that are no instruction, are taken with TRAPPC at the instruction or its GUARD (R60, R74, R75). -/
def fetchAndRun (guarded : Bool) (s : State) : Host.Outcome State Fault Refusal :=
  match fetchBytes (instrPc (curCtx s)) s with
  | .error (.trap t) s' => .next (raiseSync s' t (curCtx s).pc)
  | .error _ s' => .next (onCur s' fun x => { x with guard := .none, stalled := true })
  | .ok b s' =>
    match decode b with
    | .error _ => .next (raiseSync s' ⟨cILLOP, false, natW (ofBytes b)⟩ (curCtx s).pc)
    | .ok (i, _) =>
      match i with
      | .guardT _ _ => if guarded then .next (raiseSync s' ⟨cILLOP, false, natW i.word⟩ (curCtx s).pc) else exec i s'
      | .guardF _ _ => if guarded then .next (raiseSync s' ⟨cILLOP, false, natW i.word⟩ (curCtx s).pc) else exec i s'
      | _ => exec i s'

/-- One instruction of the executing context: a GUARD is followed at once by the instruction it guards (R60). An instruction that is under way goes on, its
guard passed (DEDUCED, log 91). -/
def runInstr (s : State) : Host.Outcome State Fault Refusal :=
  match (curCtx s).issued with
  | some (i, g) => exec i (onCur s fun x => { x with guard := if g then .pass else .none })
  | none =>
    match fetchAndRun false s with
    | .next s' => if (curCtx s').guard = .none then .next s' else fetchAndRun true s'
    | r => r

/-- The executing context stands in the middle of an instruction that has had a part of its effect. An MLEASE that every wing has granted is one (R193). -/
def midInstr (s : State) : Bool :=
  match (curCtx s).waiting with
  | some (.stores _ _) => true
  | some (.leased _) => true
  | some (.part _ _ _ _) => true
  | some (.arrayOk _) => true
  | some .mlease =>
    match sharedWings s with
    | .ok l _ => l.all (holdsLease s (senderOf s s.cur))
    | .error _ _ => false
  | _ => false

/-- What a turn that is no instruction leaves: a fault is taken at the boundary. -/
def quiet (r : EStateM.Result Stop State Unit) : Host.Outcome State Fault Refusal :=
  match r with
  | .ok _ s => .next s
  | .error (.trap t) s => .next (raiseSync s t (curCtx s).pc)
  | .error _ s => .next (onCur s fun x => { x with stalled := true })

/-- A committed task is over: its leases end and its helper is free (R42). -/
def finishCommit (s : State) : State :=
  let s := (s.leases.filter fun l => l.holder = senderOf s s.cur).foldl endLease s
  endContext s s.cur (some (readReg (curCtx s) 1))

/-- A restored context asks again for the matrix lease that it held (R194). -/
def askAgain : M Unit := do
  leaseBody
  setMe fun x => { x with leaseAgain := false }

/-- One turn of a context that can execute. Held effects drain first; then a pending deferred fault outside handler mode, the fault that a task stalled at
while it was speculative, and the next instruction (R42, R44, R194, R243, R244, R248). -/
def runOne (s : State) : Host.Outcome State Fault Refusal :=
  let x := curCtx s
  if draining x then quiet (drainTask s)
  else if commitDone x then .next (finishCommit s)
  else if !x.deferred.isEmpty && !x.handler && !isSpec x && !midInstr s then exec (.deferredFaultEntry s.cur.core s.cur.cx) s
  else match keptFault x with
    | some (t, pc) => .next (takeKept s t pc)
    | none => if x.leaseAgain then quiet (askAgain s) else runInstr s

/-- The interval of a twinned core is to end: it waits for the exchange of fingerprints (R258). -/
def twinDue (k : Core) : Bool :=
  match k.twin with
  | some t => t.due
  | none => false

/-- Instructions and trap entries of a twinned core so far. -/
def twinTotal (k : Core) : Nat :=
  match k.twin with
  | some t => t.total
  | none => 0

/-- The values of calls that a core of a pair takes before its next instruction, as its primary took them in the interval's first run (R256, R259). -/
def takeLands (s : State) (c fuel : Nat) : State :=
  match fuel with
  | 0 => s
  | n + 1 =>
    match (getCore s c).twin with
    | none => s
    | some t =>
      match t.lands[t.landed]? with
      | none => s
      | some l =>
        if l.after = t.retired then
          let z := onCtx s ⟨c, 0⟩ fun x => landCall x l.call l.val
          takeLands (onCore z c fun k => { k with twin := k.twin.map fun t => { t with landed := t.landed + 1 } }) c n
        else s

/-- One turn of a core of a pair. -/
def runHalf (s : State) (c : Nat) : Host.Outcome State Fault Refusal :=
  let n := ((getCore s c).twin.map fun t => t.lands.length).getD 0
  runOne { takeLands s c n with cur := ⟨c, 0⟩ }

/-- The secondary of a pair executes the instruction that its primary has retired, with the same inputs (R256); and with an interval that is to end inside
an instruction of several stores or elements it comes as far in it as its primary (R258). In a cluster in P5 it waits for the wake (R273). -/
def runSecondary (s : State) (p q : Nat) : Host.Outcome State Fault Refusal :=
  match (getCore s p).twin, (getCore s q).twin with
  | some t, some u =>
    if !coreRuns s q then .next s
    else if u.total < t.total || ((t.due || u.due) && !sameProgress (getCtx s ⟨p, 0⟩) (getCtx s ⟨q, 0⟩)) then
      runHalf (onCore s q fun k => { k with twin := k.twin.map fun w => { w with feed := t.feed, lands := t.lands } }) q
    else .next s
  | _, _ => .next s

/-- Both cores of a pair take the same deferred faults (R256). -/
def shareDeferred (s : State) (p q : Nat) : State := onCtx s ⟨q, 0⟩ fun x => { x with deferred := (getCtx s ⟨p, 0⟩).deferred }

/-- A pair whose turn has stalled ends its interval when something is kept for it: what it waits for may depend on that (R256, DEDUCED, log 21). -/
def endKept (p : Nat) (r : Host.Outcome State Fault Refusal) : Host.Outcome State Fault Refusal :=
  match r with
  | .next z => .next (if (getCtx z ⟨p, 0⟩).stalled && (getCore z p).twin.any (fun t => !t.kept.isEmpty) then endInterval z p else z)
  | r => r

/-- One turn of a pair: what a checkpoint has released leaves first. An interval that is to end goes on to a boundary of R70. A pair whose context has
failed is one no longer (R243, R256, R258). -/
def runPair (s : State) (t : Twin) (p : Nat) : Host.Outcome State Fault Refusal :=
  let q := t.partner
  if twinTotal (getCore s q) < t.total then runSecondary s p q
  else if ((t.due || twinDue (getCore s q)) && pairRests s p q) || !runnable s ⟨p, 0⟩ then .next s
  else if !t.released.isEmpty then endKept p (quiet (drainPair s))
  else match endKept p (runHalf (shareDeferred s p q) p) with
    | .next z =>
      if (getCtx z ⟨p, 0⟩).status == .free && twinTotal (getCore z p) = t.total && (getCore z p).twin.isSome then .next (unpair z p q)
      else runSecondary z p q
    | r => r

/-- One turn of a context on its core. A secondary runs with its primary (R256). -/
def runContext (s : State) (id : CtxId) : Host.Outcome State Fault Refusal :=
  let s := { s with cur := id }
  match (getCore s id.core).twin with
  | none => if runnable s id then runOne s else .next s
  | some t => if t.primary && coreRuns s id.core then runPair s t id.core else .next s

/-- A turn of a context, which is the step of a debug step that names it (R254). A turn that cannot be taken changes nothing. The step goes on to a
boundary of R70. -/
def contextTurn (s : State) (id : CtxId) : Host.Outcome State Fault Refusal :=
  if s.debugHalt.isEmpty then runContext s id
  else
    let n := launchOn s id.core
    match runContext s id with
    | .next z =>
      let halt := fun h : Nat × CtxId => if h.1 = n && h.2 = id && atBoundary (getCtx z id) then (n, ⟨id.core, 11⟩) else h
      .next { z with debugHalt := z.debugHalt.map halt }
    | r => r

/-- The context that energy is charged to (R276): none for device overhead and what only the package account counts. -/
def payer (s : State) (w : Spent) : Option Sender :=
  match w with
  | .instr core cx => some (senderOf s ⟨core, cx⟩)
  | .restore core cx => some (senderOf s ⟨core, cx⟩)
  | .copy core id => (findCopy s core id).map fun q => q.src
  | .lease id => (leaseById s id).map fun l => l.holder
  | .save num cx => (s.saved.flatMap fun v => v.cores.filter fun k => k.number = num).findSome? fun k =>
      (mapGet k.core.ctxs cx).map fun x => ⟨num, cx, x.epoch⟩
  | _ => none

/-- A core's cluster draws energy as far as its budget goes; with the budget used up it dispatches no wing operation until the next period (R269, R270). -/
def drawCluster (s : State) (c nj : Nat) : State :=
  let n := clusterOf (siteOf s c)
  let k := getCluster s n
  putCluster s n { k with drawn := min k.budget (k.drawn + nj), throttled := k.throttled || decide (k.budget ≤ k.drawn + nj) }

/-- What a core's cluster can still draw: the rest of its budget, and what the integrators leave its die beside the budgets, on which front-local work goes on
(R269, R270). -/
def coreRoom (s : State) (c : Nat) : Nat × Nat :=
  let n := clusterOf (siteOf s c)
  ((getCluster s n).budget - (getCluster s n).drawn, spareRoom s (n / 16))

/-- The package account and ENOVH count energy (R276). -/
def countEnergy (s : State) (n extra : Nat) : State := { s with mg := { s.mg with enpkg := s.mg.enpkg + natW n, enovh := s.mg.enovh + natW extra } }

/-- Energy is spent (R276): on a context's ENERGY, on ENOVH or on neither, always on the package account. No more of it can be spent than the integrators
leave, and all that is spent counts against the caps (R269). -/
def charge (s : State) (w : Spent) (nj : Nat) : State :=
  match w with
  | .overhead die =>
    let n := min nj (spareRoom s (die % 4))
    drawSpare (countEnergy s n n) (die % 4) n
  | .idle die =>
    let n := min nj (spareRoom s (die % 4))
    drawSpare (countEnergy s n 0) (die % 4) n
  | _ =>
    match payer s w with
    | none => s
    | some f =>
      let c := f.core % 1024
      let room := coreRoom s c
      let n := min nj (room.1 + room.2)
      let s := addEnergy (countEnergy s n 0) f n
      drawSpare (drawCluster s c nj) (clusterOf (siteOf s c) / 16) (n - min nj room.1)

/-- TIME advances, faster or slower while a correction is applied (R277). -/
def passTime (s : State) (ns : Nat) : State :=
  let slew := ns * s.mg.timeSlew / 1000000
  { s with mg := { s.mg with time := s.mg.time + natW (if s.mg.slewFaster then ns + slew else ns - slew) } }

/-- An event row occurs; a deferred fault is taken at its context's own turn. -/
def eventTurn (s : State) (i : Instr) : Host.Outcome State Fault Refusal :=
  if i.len != 0 then .next s
  else match i with
    | .deferredFaultEntry core cx => if (getCtx s ⟨core, cx⟩).deferred.isEmpty then .next s else contextTurn s ⟨core, cx⟩
    | _ => exec i s

/-- A parcel is fetched ahead for a context; in a pair for both cores (R126, R256; log 62). -/
def prefetch (s : State) (id : CtxId) (pa : Nat) (uc : Bool) (key : Nat) : State :=
  match physRead (dieOf id.core) (pa / 2 * 2) 2 uc key false { s with cur := id } with
  | .ok b z =>
    let z := { z with cur := s.cur }
    let put := fun x : Ctx => { x with fetched := mapSet x.fetched (pa / 2) (key, ofBytes b) }
    match (getCore z id.core).twin with
    | some t => onCtx (onCtx z id put) ⟨t.partner, 0⟩ put
    | none => onCtx z id put
  | .error _ _ => s

/-- The host reads a register through BAR0, 8 bytes (R280). In recovery BAR0 exposes only RECHEAD and the records (R282); what a read of another offset then
gives is a free value (log 66). -/
def hostReadReg (s : State) (off : Nat) : State :=
  let v := if s.mg.recovery && off != 0x3078 && !(decide (0x100000 ≤ off) && decide (off < 0x200000)) then Config.hiddenRead off else engineRead s off
  if off % 8 = 0 then { s with mg := { s.mg with hostData := v } } else s

/-- The management firmware at repair, or the hardware at half-good pairing, writes an entry of the core table of a core that runs nothing: it may clear
VALID, and no two valid entries name one site (R12; log 67). -/
def writeTable (s : State) (c : Nat) (e : BitVec 16) : State :=
  let e := BitVec.ofNat 16 (e.toNat / 2 ^ 15 * 2 ^ 15 + e.toNat % 2 ^ 9)
  let z := { s with coreTable := mapSet s.coreTable c ⟨0⟩ }
  if 1024 ≤ c || !coreFree s c || resident s c || decide (16 < e.toNat % 2 ^ 9 / 16) ||
      (e.msb && siteNamed z (entrySite (dieOf c) e)) then s
  else { s with coreTable := mapSet s.coreTable c e }

/-- A turn of the schedule. -/
def takeTurn (s : State) (t : Turn) : Host.Outcome State Fault Refusal :=
  match t with
  | .context core cx => contextTurn s ⟨core, cx⟩
  | .event i => eventTurn s i
  | .time ns => .next (passTime s ns)
  | .charge w nj => .next (charge s w nj)
  | .dropMicro site n => let f := getFront s site; .next (putFront s site { f with tlb := listDel f.tlb n })
  | .dropCluster c n => let k := getCluster s c; .next (putCluster s c { k with tlb := listDel k.tlb n })
  | .evictFar die word =>
    if isLeased s (word * 8) 8 || (pinnedLines s die).contains (word / 16) then .next s else .next (farDrop (writeBack s die word) die word)
  | .evictReduce n =>
    match s.mem.reduce[n]? with
    | none => .next s
    | some r =>
      if isLeased s (r.line * 128) 128 then .next s
      else if r.die = homeDie (r.line * 128) then .next (mergeHome s r.line)
      else .next (mergeFar s r.die r.line)
  | .badSector n => .next (onMem s fun g => { g with badSectors := setAdd g.badSectors n })
  | .badRow site row => .next (onWing s site fun w => { w with badRows := setAdd w.badRows row })
  | .prefetch core cx pa uc key =>
    if core < 1024 ∧ cx < 11 then .next (prefetch s ⟨core, cx⟩ pa uc key) else .next s
  | .pause core cx n =>
    if core < 1024 ∧ cx < 11 then .next (onCtx s ⟨core, cx⟩ fun x => { x with pause := some n }) else .next s
  | .hostReg off => .next (hostReadReg s off)
  | .tableWrite core e => .next (writeTable s core e)
  | .flip core cx reg bit =>
    if core < 1024 ∧ cx < 11 ∧ reg < 32 ∧ bit < 128 then
      .next (onCtx s ⟨core, cx⟩ fun x =>
        { x with c := vecModify x.c reg fun r => { r with bits := r.bits ^^^ BitVec.ofNat 128 (2 ^ bit) } })
    else .next s

/-- The next turn: the first of the agenda, else what the schedule gives (log 1). -/
def nextTurn (s : State) : Turn × State :=
  match s.agenda with
  | t :: r => (t, { s with agenda := r })
  | [] => (Config.schedule s.tick, { s with tick := s.tick + 1 })

/-- One step of the package. -/
def nextStep (s : State) : Host.Outcome State Fault Refusal := takeTurn (nextTurn s).2 (nextTurn s).1

/-- Bytes of the page tables that map the first GiB of virtual addresses onto itself, R, W and X: a level-4 entry at 0x10_0000 and a level-3
leaf at 0x10_1000 (R111, R112). -/
def bootTables (m : Memory) : Memory := memWrites (memWrites m 0x100000 (toBytes 0x101001 8)) 0x101000 (toBytes 0x1F 8)

/-- `s` with the bytes of one instruction placed where context 0 of core 0 fetches next: a launch from queue 0 resident on core 0, its control
context at 0x1000_0000, the tables of `bootTables`, and that context's turn first (log 2). -/
def placeInstr (s : State) (l : List Byte) : State :=
  let s := onMem s fun g => { g with
    hbm := memWrites (bootTables g.hbm) 0x10000000 l
    troot := vecSet g.troot 0 0x100001 }
  let s := onCore s 0 fun k => { k with
    launch := some { id := 1, queue := 0, base := s.device * 1024, count := 1, monarch := s.device * 1024, arg := regNull, chry := 0,
                     saved := false } }
  let s := onCtx s ⟨0, 0⟩ fun x => { x with status := .live, pc := 0x10000000, guard := .none, fetched := [] }
  { s with cur := ⟨0, 0⟩, agenda := [.context 0 0] }

end Sys2Proof.Machine
end

