-- ==== Sys2Proof/Machine/Step.lean ====
section
/-! DEFINITION. One step of the package, and where a given instruction is placed so that the next step fetches and runs it. -/

namespace Sys2Proof.Machine

/-- One step: one turn of one agent. -/
def step (s : State) : Host.Outcome State Fault Refusal := nextStep s

/-- `s` with an instruction whose bits are `w`, numbered as the opcode table numbers them, stored where the next step fetches; the bits above
`nbits` are 0 up to the longest instruction, 32 bits. -/
def State.withFetchWord (s : State) (nbits w : Nat) : State := placeInstr s (wordBytes (w % 2 ^ nbits) 4)

end Sys2Proof.Machine
end

