-- ==== Sys2Proof/Safety.lean ====
section
/-! DEFINITION. The terms in which claims speak of a step: what a register settles to, what an instruction leaves alone, when it issues; and
what counts as a safe run. -/

namespace Sys2Proof.Machine

/-- The memories of a core are in canonical form: its cell memory and, in a pair, that of its restart point (R105, R258). -/
def Core.memWf (k : Core) : Prop := Memory.wf k.cell = true ∧ ∀ t, k.twin = some t → Memory.wf t.point.cell = true

/-- Every memory of the state is in canonical form, what pre-emption keeps included (R105, R117, R250). -/
def State.memWf (s : State) : Prop :=
  Memory.wf s.mem.hbm = true ∧ Memory.wf s.mem.host = true ∧ (∀ p ∈ s.cores, Core.memWf p.2) ∧ ∀ v ∈ s.saved, ∀ k ∈ v.cores, Core.memWf k.core

/-- A step does not stop the machine. -/
def State.safe (s : State) : Prop := ∃ t, step s = .next t

/-- The value that a general register holds once every write issued so far has landed (R53, R67). -/
def settled (x : Ctx) (r : BitVec 5) : Reg := readReg (landAll x) r

/-- X(c) of R283: the data bits of a general register. -/
def xval (x : Ctx) (r : BitVec 5) : W64 := regData (readReg x r)

/-- The registers whose pending writes an instruction waits for: those it reads, for the 16-bit forms and the wing-dispatched instructions (R64, R69). -/
def lateRegs (reads : List (BitVec 5)) (waits : Bool) : List (BitVec 5) := if waits then reads else []

/-- A GUARD lets the next instruction execute: it does not suppress it, and its own register was ready (R60, R75). -/
def guardOpen (g : GuardLatch) : Bool :=
  match g with
  | .none => true
  | .pass => true
  | .suppress => false
  | .unread _ => false

/-- The executing context may issue an instruction that reads and writes these registers: its GUARD, if any, lets it execute (R60) and CHKSB has nothing
to report (R41, R69). -/
abbrev issuesLate (s : State) (reads writes late : List (BitVec 5)) : Prop :=
  guardOpen (curCtx s).guard = true ∧ scoreboardHit (curCtx s) (reads ++ writes) late = none

/-- `issuesLate` for the registers that an instruction waits for. -/
abbrev issues (s : State) (reads writes : List (BitVec 5)) (waits : Bool) : Prop := issuesLate s reads writes (lateRegs reads waits)

/-- The context as an instruction that waits for the writes of what it reads, or for none, reads it (R64, R69). -/
def readCtx (s : State) (reads : List (BitVec 5)) (waits : Bool) : Ctx := landRegs (curCtx s) (lateRegs reads waits)

/-- Issue cycles of an instruction of `n` cycles, with the one of its GUARD (R60, R67). -/
def cyclesOf (x : Ctx) (n : Nat) : Nat := if x.guard = .none then n else n + 1

/-- The other general registers see nothing but `n` issue cycles pass: a register with no earlier write on its way stays as it was (R67). -/
def othersKept (x z : Ctx) (n : Nat) (writes : List (BitVec 5)) : Prop :=
  ∀ r, r ∉ writes → readReg z r = readReg (advance x n) r ∧
    (z.pending.filter fun p => p.reg = r) = (advance x n).pending.filter fun p => p.reg = r

/-- Everything outside the general registers, the program counter and the issue state of a context is as before. -/
def ctxKept (x z : Ctx) : Prop :=
  z = { x with
    c := z.c
    pending := z.pending
    pc := z.pc
    guard := z.guard
    resume := z.resume
    resuming := z.resuming
    kept := z.kept
    doing := z.doing
    lag := z.lag
    delayed := z.delayed
    waiting := z.waiting
    issued := z.issued
    gathering := z.gathering
    idling := z.idling
    stalled := z.stalled }

/-- Everything outside the executing context is as before, but for the count and fingerprint of a twinned core (R257). -/
def outsideKept (s t : State) : Prop :=
  t = { s with cores := t.cores } ∧
  (∀ c, c ≠ s.cur.core → getCore t c = getCore s c) ∧
  getCore t s.cur.core = { curCore s with ctxs := (getCore t s.cur.core).ctxs, twin := (getCore t s.cur.core).twin } ∧
  ∀ id, id ≠ s.cur → getCtx t id = getCtx s id

/-- Every byte of every memory reads as before. -/
def memoryKept (s t : State) : Prop :=
  (∀ a, memRead t.mem.hbm a = memRead s.mem.hbm a) ∧ (∀ a, memRead t.mem.host a = memRead s.mem.host a) ∧
  ∀ c a, memRead (getCore t c).cell a = memRead (getCore s c).cell a

/-- The state as an instruction's own operation finds it, once the writes that it waits for have landed. -/
def lateState (late : List (BitVec 5)) (s : State) : State := if late.isEmpty then s else onCur s fun x => landRegs x late

/-- `lateState` for the 16-bit forms and the wing-dispatched instructions, which wait for the writes of what they read, and for those that wait for none
(R64, R69). -/
def bodyState (reads : List (BitVec 5)) (waits : Bool) (s : State) : State := lateState (lateRegs reads waits) s

/-- Instruction `i` of `n` issue cycles, which waits for the writes of `late`, completes wherever it may issue and `P` holds of the context as `i` reads
it: execution goes on behind it; `d` settles to `v` of that context (c0 stays the null capability), and holds it once `l` issue cycles have passed since
the issue, its older value until then (R67, R68; 0 for an interlocked result); every other register, everything else of the context, of the package and
of memory is kept. -/
def writesLate (i : Instr) (n l : Nat) (reads late : List (BitVec 5)) (d : BitVec 5) (P : Ctx → Prop) (v : Ctx → Reg) : Prop :=
  legal i = true → ∀ s, issuesLate s reads [d] late → P (landRegs (curCtx s) late) →
    ∃ t, exec i s = .next t ∧ (curCtx t).pc = nextPc (curCtx s) i.len ∧
      settled (curCtx t) d = (if d = 0 then regNull else v (landRegs (curCtx s) late)) ∧
      readReg (curCtx t) d = (if d = 0 then regNull else if l ≤ n then v (landRegs (curCtx s) late)
        else readReg (advance (landRegs (curCtx s) late) (cyclesOf (curCtx s) n)) d) ∧
      othersKept (landRegs (curCtx s) late) (curCtx t) (cyclesOf (curCtx s) n) [d] ∧
      ctxKept (curCtx s) (curCtx t) ∧ outsideKept s t ∧ memoryKept s t

/-- `writesLate` for an instruction that waits for the writes of what it reads, or for none. -/
def writesWhen (i : Instr) (n l : Nat) (reads : List (BitVec 5)) (waits : Bool) (d : BitVec 5) (P : Ctx → Prop) (v : Ctx → Reg) : Prop :=
  writesLate i n l reads (lateRegs reads waits) d P v

/-- `writesWhen` wherever the instruction may issue. -/
def writesOne (i : Instr) (n l : Nat) (reads : List (BitVec 5)) (waits : Bool) (d : BitVec 5) (v : Ctx → Reg) : Prop :=
  writesWhen i n l reads waits d (fun _ => True) v

/-- `u` is the state when the instruction's own operation has taken place: the instruction retires there, with `pc` as the next address. -/
def retiredAt (n : Nat) (writes : List (BitVec 5)) (pc : W64) (u : State) : State := retire (twinRetire u writes) n pc

/-- Instruction `i` of `n` issue cycles completes wherever it may issue and `P` holds of the state as it reads it: its own operation takes that
state to `E` of it, and it retires with `pc` as the next address. -/
def completesAt (i : Instr) (n : Nat) (reads writes : List (BitVec 5)) (waits : Bool) (P : State → Prop) (pc : State → W64) (E : State → State) : Prop :=
  legal i = true → ∀ s, issues s reads writes waits → P (bodyState reads waits s) →
    exec i s = .next (retiredAt n writes (pc (bodyState reads waits s)) (E (bodyState reads waits s)))

/-- `completesAt` for an instruction behind which execution goes on. -/
def completes (i : Instr) (n : Nat) (reads writes : List (BitVec 5)) (waits : Bool) (P : State → Prop) (E : State → State) : Prop :=
  completesAt i n reads writes waits P (fun s => nextPc (curCtx s) i.len) E

/-- Wherever `i` may issue and `P` holds, it raises a synchronous fault and has no effect of its own (R242, R244). -/
def faultsWhen (i : Instr) (reads writes : List (BitVec 5)) (waits : Bool) (P : State → Prop) (t : State → Trap) : Prop :=
  legal i = true → ∀ s, issues s reads writes waits → P (bodyState reads waits s) →
    exec i s = .next (raiseSync (bodyState reads waits s) (t (bodyState reads waits s)) (curCtx s).pc)

/-- A context when it has taken a trap (R242): its writes have landed, the trap registers are written, execution continues at TRAPVEC. -/
def entered (x : Ctx) (t : Trap) (defer : Bool) (pc : W64) : Ctx :=
  { landAll x with
    trapcause := causeWord t defer
    trappc := pc
    trapval := t.val
    handler := true
    pc := x.trapvec
    guard := .none
    waiting := none
    doing := none
    issued := none
    gathering := false
    idling := none
    stalled := false
    delayed := false
    resuming := 0 }

/-- From `s` to `z` the executing context took a trap (R242): no other register changes, no memory byte, and no other context but for array
operations that the interrupted instruction withdraws. -/
def trapTaken (s z : State) (t : Trap) (defer : Bool) (pc : W64) : Prop :=
  z.cur = s.cur ∧ curCtx z = entered (curCtx s) t defer pc ∧ memoryKept s z ∧
    ∀ id, id ≠ s.cur → { getCtx z id with task := (getCtx s id).task } = getCtx s id

/-- A trap of the executing context enters its handler: it runs no speculative task, is in no handler, and TRAPVEC is not 0 (R242, R243, R248). -/
abbrev canTrap (s : State) : Prop := isSpec (curCtx s) = false ∧ (curCtx s).handler = false ∧ (curCtx s).trapvec ≠ 0

/-- The executing core belongs to no twinned pair. -/
abbrev unpaired (s : State) : Prop := (curCore s).twin = none

/-- The executing context runs no speculative task (R44). -/
abbrev direct (s : State) : Prop := isSpec (curCtx s) = false

/-- The store buffer of the executing core takes one more entry (R127, R128). -/
abbrev bufferOpen (s : State) : Prop := (curCore s).buf.length < 32 ∧ (curCore s).tail = none

/-- The tags of vector registers, in order (R199). -/
def tagsOf (x : Ctx) (l : List (BitVec 4)) : List LiftTag := l.map fun r => (vecGet x.v r.toNat vregReset).tag

/-- Vector instruction `i` that reads the registers `srcs` and writes `d`, for elements of up to `w` bits and shapes (rows, columns) that meet `ok`: it
completes wherever it may issue, the front dispatches and the tags agree with the open levels, with `F` of the number of shaped elements run over
the union of those tags (`overVec`); a shape that does not fit raises ILLOP, and then a tag that does not agree AXOVF (R18, R55, R198, R199, R270, R398). -/
def vecRuns (i : Instr) (y : BitVec 3) (d : BitVec 4) (srcs : List (BitVec 4)) (w : Nat) (ok : Nat → Nat → Prop)
    (F : Ctx → Nat → List Nat → Nat → BitVec 32 → Nat × BitVec 32) : Prop :=
  legal i = true → ∀ s, issues s [] [] true → dispatches s = true →
    let x := curCtx s
    let z := bodyState [] true s
    let fits := shapeRows x * shapeCols x * w ≤ 4096 ∧ ok (shapeRows x) (shapeCols x)
    (fits → tagFault x.lframe (tagsOf x srcs) = none → ∃ t, overVec d srcs (F x (shapeRows x * shapeCols x)) z = .ok () t ∧
      exec i s = .next (retiredAt (1 + y.toNat) [] (instrPc x + 4) t)) ∧
    (¬fits → exec i s = .next (raiseSync z ⟨1, false, natW i.word⟩ x.pc)) ∧
    (fits → ∀ v, tagFault x.lframe (tagsOf x srcs) = some v → exec i s = .next (raiseSync z ⟨9, false, v⟩ x.pc))

end Sys2Proof.Machine
end

