-- ==== Sys2Proof/WellFormed.lean ====
section
/-! DEFINITION. Which instructions are well formed.

An instruction is well formed when every encoded operand value is one that its reference entry lists (R65), and an event
when its operands name an agent the package has. The values themselves stand in `Machine.legal`. -/

namespace Sys2Proof

/-- The instruction's encoded operands are all listed in its entry (R65). -/
abbrev Instr.WellFormed (i : Instr) : Prop := Machine.legal i = true

end Sys2Proof
end

