-- ==== Sys2Proof/Certificates/Slice0/Obligations.lean ====
section
/-! DEFINITION. The statements of this model for the provers. -/

section
open Sys2Proof Sys2Proof.Machine


/-! ### Integer instructions -/

/-- R287, R290, R370, R389, R420: ADD, SUB, AND, OR and XOR. Each example word decodes to the instruction it stands for; for every operand the
instruction completes, writes its result with latency 1, raises nothing and changes nothing else. -/
def Obligations.PlainArithmeticRules : Prop :=
  decodeTableWord 32 0x01CC5003 = some (.add 5 6 7 0) ∧ decodeTableWord 32 0x0882_9003 = some (.sub 9 1 2 0) ∧
  decodeTableWord 32 0x49CC5003 = some (.and 5 6 7 0) ∧ decodeTableWord 32 0x51CC5003 = some (.or 5 6 7 0) ∧
  decodeTableWord 32 0x59CC5003 = some (.xor 5 6 7 0) ∧
  ∀ (d a b : BitVec 5) (y : BitVec 3),
    writesOne (.add d a b y) (1 + y.toNat) 1 [a, b] false d (fun x => dataReg (xval x a + xval x b)) ∧
    writesOne (.sub d a b y) (1 + y.toNat) 1 [a, b] false d (fun x => dataReg (xval x a - xval x b)) ∧
    writesOne (.and d a b y) (1 + y.toNat) 1 [a, b] false d (fun x => dataReg (xval x a &&& xval x b)) ∧
    writesOne (.or d a b y) (1 + y.toNat) 1 [a, b] false d (fun x => dataReg (xval x a ||| xval x b)) ∧
    writesOne (.xor d a b y) (1 + y.toNat) 1 [a, b] false d (fun x => dataReg (xval x a ^^^ xval x b))

/-- R355, R366, R377: products, shifts, minimum and maximum, with their latencies (R68). Each example word decodes to its instruction. R330, R375:
the interlocked divisions, with the results that the rules give a divisor of 0 and the signed overflow. -/
def Obligations.ProductsShiftsAndQuotients : Prop :=
  (decodeTableWord 32 0x11CC5003 = some (.mul 5 6 7 0) ∧ decodeTableWord 32 0x19CC5003 = some (.mulh 5 6 7 0) ∧
  decodeTableWord 32 0x21CC5003 = some (.mulhUi64 5 6 7 0) ∧ decodeTableWord 32 0x61CC5003 = some (.shl 5 6 7 0) ∧
  decodeTableWord 32 0x69CC5003 = some (.shr 5 6 7 0) ∧ decodeTableWord 32 0x71CC5003 = some (.sar 5 6 7 0) ∧
  decodeTableWord 32 0x79CC5003 = some (.min 5 6 7 0) ∧ decodeTableWord 32 0x81CC5003 = some (.minUi64 5 6 7 0) ∧
  decodeTableWord 32 0x89CC5003 = some (.max 5 6 7 0) ∧ decodeTableWord 32 0x91CC5003 = some (.maxUi64 5 6 7 0) ∧
  ∀ (d a b : BitVec 5) (y : BitVec 3),
    writesOne (.mul d a b y) (1 + y.toNat) 3 [a, b] false d
      (fun x => dataReg (BitVec.ofNat 64 ((xval x a).toNat * (xval x b).toNat))) ∧
    writesOne (.mulh d a b y) (1 + y.toNat) 4 [a, b] false d
      (fun x => dataReg (BitVec.ofInt 64 ((xval x a).toInt * (xval x b).toInt / 2 ^ 64))) ∧
    writesOne (.mulhUi64 d a b y) (1 + y.toNat) 4 [a, b] false d
      (fun x => dataReg (BitVec.ofNat 64 ((xval x a).toNat * (xval x b).toNat / 2 ^ 64))) ∧
    writesOne (.shl d a b y) (1 + y.toNat) 1 [a, b] false d (fun x => dataReg (xval x a <<< ((xval x b).toNat % 64))) ∧
    writesOne (.shr d a b y) (1 + y.toNat) 1 [a, b] false d (fun x => dataReg (xval x a >>> ((xval x b).toNat % 64))) ∧
    writesOne (.sar d a b y) (1 + y.toNat) 1 [a, b] false d (fun x => dataReg ((xval x a).sshiftRight ((xval x b).toNat % 64))) ∧
    writesOne (.min d a b y) (1 + y.toNat) 1 [a, b] false d
      (fun x => dataReg (if (xval x a).toInt < (xval x b).toInt then xval x a else xval x b)) ∧
    writesOne (.minUi64 d a b y) (1 + y.toNat) 1 [a, b] false d
      (fun x => dataReg (if (xval x a).toNat < (xval x b).toNat then xval x a else xval x b)) ∧
    writesOne (.max d a b y) (1 + y.toNat) 1 [a, b] false d
      (fun x => dataReg (if (xval x b).toInt < (xval x a).toInt then xval x a else xval x b)) ∧
    writesOne (.maxUi64 d a b y) (1 + y.toNat) 1 [a, b] false d
      (fun x => dataReg (if (xval x b).toNat < (xval x a).toNat then xval x a else xval x b))) ∧
  (∀ (d a b : BitVec 5) (y : BitVec 3),
    writesOne (.div d a b y) (1 + y.toNat) 0 [a, b] false d (fun x => dataReg (
      if xval x b = 0 then BitVec.allOnes 64
      else if (xval x a).toInt = -2 ^ 63 ∧ (xval x b).toInt = -1 then BitVec.ofInt 64 (-2 ^ 63)
      else BitVec.ofInt 64 ((xval x a).toInt.tdiv (xval x b).toInt))) ∧
    writesOne (.divUi64 d a b y) (1 + y.toNat) 0 [a, b] false d (fun x => dataReg (
      if xval x b = 0 then BitVec.allOnes 64 else BitVec.ofNat 64 ((xval x a).toNat / (xval x b).toNat))) ∧
    writesOne (.rem d a b y) (1 + y.toNat) 0 [a, b] false d (fun x => dataReg (
      if xval x b = 0 then xval x a
      else if (xval x a).toInt = -2 ^ 63 ∧ (xval x b).toInt = -1 then 0
      else BitVec.ofInt 64 ((xval x a).toInt - (xval x b).toInt * (xval x a).toInt.tdiv (xval x b).toInt))) ∧
    writesOne (.remUi64 d a b y) (1 + y.toNat) 0 [a, b] false d (fun x => dataReg (
      if xval x b = 0 then xval x a else BitVec.ofNat 64 ((xval x a).toNat % (xval x b).toNat))))

/-- R288, R291, R325, R360 to R362, R371, R379, R381, R382, R394: counts, copies, immediates, selections and comparisons. R293, R295: BFX and BFI
on a field operand with 1 ≤ w, p + w ≤ 64 and clear reserved bits, and ILLOP, with the instruction as TRAPVAL, for any other operand. R54, R322 to
R324, R326: CCLR, CINC, CPRM and CGET complete wherever they issue. CINC keeps the tag where the bounds stay the same; CPRM never sets a
permission; CGET reads fields, whatever the tag, or writes a root. That selector 12 gives PCC as the context holds it, with the bounds of a PCC that JR or START has
replaced, is the model's choice (log 85). The example words of the immediate forms decode to them. -/
def Obligations.ImmediatesFieldsAndCapabilities : Prop :=
  (decodeTableWord 32 0x0052B023 = some (.addi 11 9 1 0) ∧ decodeTableWord 16 0xFD70 = some (.addi16 11 63) ∧
  decodeTableWord 32 0x3FF5B043 = some (.andi 27 26 0xFF 0) ∧ decodeTableWord 32 0x010100A3 = some (.movh 16 0x80 0) ∧
  decodeTableWord 32 0x00090083 = some (.movi 16 4 0) ∧ decodeTableWord 32 0x028C5063 = some (.seti 5 6 10 0) ∧
  ∀ (d a b fn : BitVec 5) (i : BitVec 10) (j : BitVec 6) (k : BitVec 15) (y : BitVec 3),
    writesOne (.clz d a y) (1 + y.toNat) 1 [a] false d
      (fun x => dataReg (BitVec.ofNat 64 (if xval x a = 0 then 64 else 63 - (xval x a).toNat.log2))) ∧
    writesOne (.popc d a y) (1 + y.toNat) 1 [a] false d
      (fun x => dataReg (BitVec.ofNat 64 ((List.range 64).countP fun n => (xval x a).getLsbD n))) ∧
    writesOne (.mov d a y) (1 + y.toNat) 1 [a] false d (fun x => readReg x a) ∧
    writesOne (.mov16 d a) 1 1 [a] true d (fun x => readReg x a) ∧
    writesOne (.addi d a i y) (1 + y.toNat) 1 [a] false d (fun x => dataReg (xval x a + i.signExtend 64)) ∧
    writesOne (.addi16 d j) 1 1 [d] true d (fun x => dataReg (xval x d + j.signExtend 64)) ∧
    writesOne (.andi d a i y) (1 + y.toNat) 1 [a] false d (fun x => dataReg (xval x a &&& i.setWidth 64)) ∧
    writesOne (.seti d a i y) (1 + y.toNat) 1 [a] false d
      (fun x => dataReg (if (xval x a).toInt < i.toInt then 1 else 0)) ∧
    writesOne (.movi d k y) (1 + y.toNat) 1 [] false d (fun _ => dataReg (k.signExtend 64)) ∧
    writesOne (.movh d k y) (1 + y.toNat) 1 [d] false d
      (fun x => dataReg (BitVec.ofNat 64 ((xval x d).toNat % 2 ^ 49 * 2 ^ 15 + k.toNat))) ∧
    writesOne (.sel d a b fn y) (1 + y.toNat) 1 [d, a, b] false d
      (fun x => dataReg (if (fn = 0 ∧ xval x d ≠ 0) ∨ (fn = 1 ∧ (xval x d).toInt < 0) ∨ (fn = 2 ∧ (xval x d).toNat % 2 = 1)
        then xval x a else xval x b)) ∧
    writesOne (.set d a b fn y) (1 + y.toNat) 1 [a, b] false d
      (fun x => dataReg (if (fn = 0 ∧ xval x a = xval x b) ∨ (fn = 1 ∧ xval x a ≠ xval x b) ∨
          (fn = 2 ∧ (xval x a).toInt < (xval x b).toInt) ∨ (fn = 3 ∧ (xval x b).toInt ≤ (xval x a).toInt) ∨
          (fn = 4 ∧ (xval x a).toNat < (xval x b).toNat) ∨ (fn = 5 ∧ (xval x b).toNat ≤ (xval x a).toNat) then 1 else 0)) ∧
    writesOne (.tsget d y) (1 + y.toNat) 0 [] false d (fun x => dataReg (x.tstamp.setWidth 64))) ∧
  (∀ (d a b : BitVec 5) (sg : BitVec 1) (y : BitVec 3),
    let p := fun x => (xval x b).toNat % 64
    let w := fun x => (xval x b).toNat / 2 ^ 8 % 2 ^ 7
    let ok := fun x => 1 ≤ w x ∧ p x + w x ≤ 64 ∧ (xval x b).toNat / 2 ^ 6 % 4 = 0 ∧ (xval x b).toNat / 2 ^ 15 = 0
    let field := fun x => (xval x a).toNat / 2 ^ p x % 2 ^ w x
    let mask := fun x => BitVec.ofNat 64 ((2 ^ w x - 1) * 2 ^ p x)
    writesWhen (.bfx d a b sg y) (1 + y.toNat) 1 [a, b] false d ok
      (fun x => dataReg (if sg = 1 ∧ 2 ^ (w x - 1) ≤ field x then BitVec.ofInt 64 ((field x : Int) - (2 ^ w x : Nat))
        else BitVec.ofNat 64 (field x))) ∧
    writesWhen (.bfi d a b y) (1 + y.toNat) 1 [d, a, b] false d ok
      (fun x => dataReg ((xval x d &&& ~~~(mask x)) ||| ((xval x a <<< p x) &&& mask x))) ∧
    faultsWhen (.bfx d a b sg y) [a, b] [d] false (fun s => ¬ok (curCtx s)) (fun _ => ⟨1, false, natW (Instr.bfx d a b sg y).word⟩) ∧
    faultsWhen (.bfi d a b y) [d, a, b] [d] false (fun s => ¬ok (curCtx s)) (fun _ => ⟨1, false, natW (Instr.bfi d a b y).word⟩)) ∧
  (∀ (d a b : BitVec 5) (sel : BitVec 10) (y : BitVec 3),
    writesOne (.cclr d a y) (1 + y.toNat) 1 [a] false d (fun x => ⟨(readReg x a).bits, false⟩) ∧
    writesOne (.cinc d a b y) (1 + y.toNat) 1 [a, b] false d (fun x =>
      let c := readReg x a
      let n := (c.bits.extractLsb' 64 64) ++ (xval x a + xval x b)
      ⟨n, c.tag && decide (capBounds n = capBounds c.bits)⟩) ∧
    writesOne (.cprm d a b y) (1 + y.toNat) 1 [a, b] false d (fun x =>
      let c := readReg x a
      ⟨(c.bits.extractLsb' 122 6 &&& (xval x b).setWidth 6) ++ c.bits.setWidth 122, c.tag⟩) ∧
    writesOne (.cget d a sel y) (1 + y.toNat) 1 [a] false d (fun x =>
      let c := readReg x a
      if sel = 0 then dataReg (BitVec.ofNat 64 (capBounds c.bits).1)
      else if sel = 1 then dataReg (BitVec.ofInt 64 ((capBounds c.bits).2 - (capBounds c.bits).1))
      else if sel = 2 then dataReg ((c.bits.extractLsb' 120 8).setWidth 64)
      else if sel = 3 then dataReg (if c.tag then 1 else 0)
      else if sel = 4 then dataReg ((c.bits.extractLsb' 114 6).setWidth 64)
      else if sel = 8 then capCell
      else if sel = 9 then capMesh
      else if sel = 10 then capGlobal
      else if sel = 11 then capEngine
      else ⟨x.pcc.extractLsb' 64 64 ++ instrPc x, true⟩))

/-! ### Bit fields and capabilities -/

/-- R324, R52: CINC to a cursor from base to top − 1 keeps the bounds, and so the tag, of a capability whose exponent is at most 39. R321: CBND of
an untagged capability raises CAPT with the register number; of a range that leaves the bounds it raises CAPB with the first byte outside: the
range's base when that lies below, else the top. -/
def Obligations.CursorAndBoundsChange : Prop :=
  (∀ (c : W128) (n : W64), (c.toNat / 2 ^ 114) % 64 ≤ 39 → (capBounds c).1 ≤ n.toNat → (n.toNat : Int) < (capBounds c).2 →
    capBounds (capWithAddr c n) = capBounds c) ∧
  (∀ (d a b : BitVec 5) (y : BitVec 3),
    let c := fun s => readReg (curCtx s) a
    let below := fun s => (xval (curCtx s) a).toNat < (capBounds (c s).bits).1
    let above := fun s => (capBounds (c s).bits).2 < (((xval (curCtx s) a).toNat + (xval (curCtx s) b).toNat : Nat) : Int)
    faultsWhen (.cbnd d a b y) [a, b] [d] false (fun s => (c s).tag = false) (fun _ => ⟨6, false, BitVec.ofNat 64 a.toNat⟩) ∧
    faultsWhen (.cbnd d a b y) [a, b] [d] false (fun s => (c s).tag = true ∧ below s) (fun s => ⟨5, false, xval (curCtx s) a⟩) ∧
    faultsWhen (.cbnd d a b y) [a, b] [d] false (fun s => (c s).tag = true ∧ ¬below s ∧ above s)
      (fun s => ⟨5, false, BitVec.ofInt 64 (capBounds (c s).bits).2⟩))

/-- R321: CBND. From a tagged capability whose bounds hold the range and its rounding outwards to granules of the smallest exponent at which it
spans fewer than 2^25 of them, it derives a tagged capability with the same permissions and the cursor kept; by R52 its bounds are exactly that
rounding, hold the range, lie within those of ca, and are the range itself where its length is below 2^25. -/
def Obligations.BoundsDerivedFitTheRange : Prop :=
  ∀ (d a b : BitVec 5) (y : BitVec 3) (e : Nat),
    let from_ := fun x => (xval x a).toNat
    let to_ := fun x => (xval x a).toNat + (xval x b).toNat
    let spans := fun (x : Ctx) (k : Nat) => (to_ x + 2 ^ k - 1) / 2 ^ k - from_ x / 2 ^ k < 2 ^ 25
    let low := fun x => from_ x / 2 ^ e * 2 ^ e
    let high := fun x => (to_ x + 2 ^ e - 1) / 2 ^ e * 2 ^ e
    let ok := fun x => (readReg x a).tag = true ∧ e ≤ 39 ∧ spans x e ∧ (∀ k < e, ¬spans x k) ∧
      (capBounds (readReg x a).bits).1 ≤ low x ∧ (high x : Int) ≤ (capBounds (readReg x a).bits).2
    ∃ v : Ctx → Reg,
      writesWhen (.cbnd d a b y) (1 + y.toNat) 1 [a, b] false d ok v ∧
      ∀ x, ok x → (v x).tag = true ∧ (v x).bits.setWidth 64 = xval x a ∧
        (v x).bits.extractLsb' 122 6 = (readReg x a).bits.extractLsb' 122 6 ∧
        capBounds (v x).bits = (low x, (high x : Int)) ∧ low x ≤ from_ x ∧ to_ x ≤ high x ∧
        ((xval x b).toNat < 2 ^ 25 → low x = from_ x ∧ high x = to_ x)

/-! ### Control flow and traps -/

/-- R313 to R315, R369: the branches and NOP. They write no register; a branch taken continues 2 · offset bytes from the instruction, one not
taken behind it. R318, R345, R376: CALL, JR and RET. The link is PCC with the address behind the instruction, tag 1; c0 as cd discards it. A
tagged target replaces PCC, and the target is read before the link is written. That RET waits for a pending write of c31 in its 32-bit form too is
the model's reading (log 24). -/
def Obligations.BranchesCallsAndReturns : Prop :=
  (∀ (a b : BitVec 5) (bit : BitVec 6) (sense : BitVec 1) (cond : BitVec 2) (o20 : BitVec 20) (o11 : BitVec 11) (o8 : BitVec 8) (y : BitVec 3),
    let at_ := fun (s : State) (o : Int) => instrPc (curCtx s) + BitVec.ofInt 64 (2 * o)
    let p := fun s => xval (curCtx s) a
    let q := fun s => xval (curCtx s) b
    completesAt (.br o20 y) (1 + y.toNat) [] [] false (fun _ => True) (fun s => at_ s o20.toInt) id ∧
    completesAt (.br16 o11) 1 [] [] true (fun _ => True) (fun s => at_ s o11.toInt) id ∧
    completesAt (.brb a bit sense o8 y) (1 + y.toNat) [a] [] false (fun _ => True)
      (fun s => if (p s).getLsbD bit.toNat = decide (sense = 1) then at_ s o8.toInt else instrPc (curCtx s) + 4) id ∧
    completesAt (.brc a b cond o8 y) (1 + y.toNat) [a, b] [] false (fun _ => True)
      (fun s => if (cond = 0 ∧ p s = q s) ∨ (cond = 1 ∧ p s ≠ q s) ∨ (cond = 2 ∧ (p s).toInt < (q s).toInt) ∨
          (cond = 3 ∧ (q s).toInt ≤ (p s).toInt) then at_ s o8.toInt else instrPc (curCtx s) + 4) id ∧
    completesAt (.nop y) (1 + y.toNat) [] [] false (fun _ => True) (fun s => instrPc (curCtx s) + 4) id ∧
    completesAt .nop16 1 [] [] true (fun _ => True) (fun s => instrPc (curCtx s) + 2) id) ∧
  (∀ (d a : BitVec 5) (off : BitVec 20) (y : BitVec 3),
    let link := fun x => (⟨x.pcc.extractLsb' 64 64 ++ (instrPc x + 4), true⟩ : Reg)
    let jump := fun (t : Reg) (x : Ctx) => if t.tag then { x with pcc := t.bits } else x
    completesAt (.call off y) (1 + y.toNat) [] [31] false (fun _ => True)
      (fun s => instrPc (curCtx s) + BitVec.ofInt 64 (2 * off.toInt)) (fun s => onCur s fun x => setReg x 31 (link x)) ∧
    completesAt (.jr d a y) (1 + y.toNat) [a] [d] false (fun _ => True) (fun s => xval (curCtx s) a)
      (fun s => onCur s fun x => jump (readReg x a) (setReg x d (link x))) ∧
    completesAt (.ret y) (1 + y.toNat) [31] [] true (fun _ => True) (fun s => xval (curCtx s) 31)
      (fun s => onCur s fun x => jump (readReg x 31) x) ∧
    completesAt .ret16 1 [31] [] true (fun _ => True) (fun s => xval (curCtx s) 31)
      (fun s => onCur s fun x => jump (readReg x 31) x))

/-- R59, R61, R342: GUARD waits for the writes of its register; the next instruction of the pair runs when the bit agrees with its sense and is
suppressed otherwise. A register that awaits a deposit under CHKSB is kept for STALLCNT, which comes behind the faults of the next instruction's
parcels (R75). Nothing else changes, and execution stays at the GUARD. R60, R63, R64: an instruction that its GUARD suppresses makes no register
write, access, message or fault; it occupies its 1 + Y cycles, a 16-bit form one, and the GUARD's. Shown for every instruction of a program but GUARD
itself, which no GUARD may precede; TWIN on a core whose TWINCTL does not say already that it is paired. That GUARD's cycle is added to its instruction's
is the model's reading (log 54). -/
def Obligations.GuardsDecideAndSuppress : Prop :=
  (∀ (a : BitVec 5) (bit : BitVec 6) (s : State),
    (∀ r, scoreboardHit (curCtx s) [a] [a] = some r → exec (.guardT a bit) s = .next (putCtx s s.cur { curCtx s with guard := .unread r }) ∧
      exec (.guardF a bit) s = .next (putCtx s s.cur { curCtx s with guard := .unread r })) ∧
    (scoreboardHit (curCtx s) [a] [a] = none →
    let x := landDue (landRegs (curCtx s) [a]) 1
    let b := (regData (settled (curCtx s) a)).getLsbD bit.toNat
    exec (.guardT a bit) s = .next (putCtx s s.cur { x with guard := if b then .pass else .suppress }) ∧
    exec (.guardF a bit) s = .next (putCtx s s.cur { x with guard := if b then .suppress else .pass }))) ∧
  (∀ (i : Instr) (s : State), legal i = true → i.len ≠ 0 → (∀ a bit, i ≠ .guardT a bit ∧ i ≠ .guardF a bit) →
    ((curCore s).twinState = 1 → ∀ d a y, i ≠ .twin d a y) → (curCtx s).guard = .suppress →
    exec i s = .next (retiredAt (if i.len = 2 then 1 else 1 + i.word / 4 % 8) [] (instrPc (curCtx s) + natW i.len) s))

/-- R242, R244, R246, R248: a synchronous fault enters the handler: the writes on their way land, TRAPCAUSE, TRAPPC and TRAPVAL are written, and
execution continues at TRAPVEC. A speculative task stalls at the fault, takes nothing yet and keeps it; it takes it at its next turn once it is no longer
speculative, its held effects have left and no deferred fault is pending. R246, R316, R392: BRK and TRAP take BREAK and SWTRAP
with TRAPPC behind the instruction; TRAP's code is TRAPVAL. R246, R263: TRAP 1023 seals the executing core: every context of it stops running, its
store buffer and queues are empty, and no trap is taken. R245, R332: ERET leaves handler mode and continues at TRAPPC with the resume state kept
for the next instruction; outside handler mode it raises ILLOP. -/
def Obligations.TrapsAreTakenAndReturn : Prop :=
  (∀ (s : State) (t : Trap) (pc : W64),
    (canTrap s → trapTaken s (raiseSync s t pc) t false pc) ∧
    (isSpec (curCtx s) = true → raiseSync s t pc = keepFault (withdraw s s.cur) t pc ∧ runnable (keepFault (withdraw s s.cur) t pc) s.cur = false) ∧
    (keptFault (curCtx s) = some (t, pc) → canTrap s → draining (curCtx s) = false → commitDone (curCtx s) = false → (curCtx s).deferred = [] →
      ∃ z, runOne s = .next z ∧
        trapTaken (onCur s fun x => { x with task := x.task.map fun k => { k with fault := none } }) z t false pc)) ∧
  (∀ (imm : BitVec 10) (y : BitVec 3) (s : State), issues s [] [] false → canTrap s →
    (legal (.brk y) = true → ∃ z, exec (.brk y) s = .next z ∧ trapTaken s z ⟨17, false, 0⟩ false (instrPc (curCtx s) + 4)) ∧
    (∃ z, exec .brk16 s = .next z ∧ trapTaken (bodyState [] true s) z ⟨17, false, 0⟩ false (instrPc (curCtx s) + 2)) ∧
    (legal (.trap imm y) = true → ∃ z, exec (.trap imm y) s = .next z ∧
      trapTaken s z ⟨18, false, imm.setWidth 64⟩ false (instrPc (curCtx s) + 4))) ∧
  (∀ (y : BitVec 3) (s : State), legal (.trapSeal y) = true → issues s [] [] false → direct s → unpaired s →
    ∃ z, exec (.trapSeal y) s = .next z ∧ z.cur = s.cur ∧ (curCore z).isSealed = true ∧ (curCore z).buf = [] ∧ (curCore z).queues = [] ∧
      (∀ cx, runnable z ⟨s.cur.core, cx⟩ = false) ∧ memoryKept s z ∧
      ∀ l, (curCore s).launch = some l → l.monarch ≠ coreNum s s.cur.core → ∃ f ∈ z.flights, f.dst = l.monarch ∧ ∃ m, f.cargo = .msg m ∧ m.kind = .error ∧ m.cls = 63 ∧
        m.payload = [BitVec.ofNat 64 (1 + 18 * 2 ^ 8 + s.cur.cx * 2 ^ 16), BitVec.ofNat 64 (coreNum s s.cur.core), BitVec.ofNat 64 s.mg.rechead.toNat, BitVec.ofNat 64 l.id]) ∧
  (∀ (y : BitVec 3),
    completesAt (.eret y) (1 + y.toNat) [] [] false (fun s => (curCtx s).handler = true ∧ (curCtx s).faulting = none) (fun s => (curCtx s).trappc)
      (fun s => onCur s fun x => { x with handler := false, faulting := none, resuming := 2 }) ∧
    faultsWhen (.eret y) [] [] false (fun s => (curCtx s).handler = false) (fun _ => ⟨1, false, natW (Instr.eret y).word⟩))

/-! ### Contexts, messages and barriers -/

/-- R35, R386: START takes the lowest-numbered free helper once the starter's own buffer entries have left (R132): c1 to c4 from ca to ca + 3 with
their tags, c5 the starter's number, c6 the launch argument, c7 to c31 zero, TRAPVEC of the control context, PCC of a tagged ct; every register
that no rule names at its reset value. cd receives the number. With no helper free, or in a twinned pair (R256), cd receives 0. R35, R132, R343:
HJOIN. A joinable helper whose buffer entries have left, for which no lower-numbered context waits, gives its c1 with its tag and becomes free; a
helper outside 1 to 10, the executing context, a free or task-owned one raise ILLOP with the helper number; a live one is waited for. That the
lowest-numbered of several waiting contexts collects is the model's reading (log 59). -/
def Obligations.HelpersStartAndJoin : Prop :=
  (∀ (d a b : BitVec 5) (y : BitVec 3),
    completes (.start d a b y) (1 + y.toNat) [a, b, b + 1, b + 2, b + 3] [d] false
      (fun s => direct s ∧ (¬unpaired s ∨ ∀ h, 1 ≤ h → h ≤ 10 → (getCtx s ⟨s.cur.core, h⟩).status ≠ .free))
      (fun s => onCur s fun x => setReg x d (dataReg 0)) ∧
    (legal (.start d a b y) = true → ∀ s (h : Nat), issues s [a, b, b + 1, b + 2, b + 3] [d] false → direct s → unpaired s →
      1 ≤ h → h ≤ 10 → h ≠ s.cur.cx → (getCtx s ⟨s.cur.core, h⟩).status = .free →
      (∀ g, 1 ≤ g → g < h → (getCtx s ⟨s.cur.core, g⟩).status ≠ .free) →
      bufEmpty s (senderOf s s.cur) = true → (∀ f ∈ s.flights, f.inDie = true → f.src ≠ senderOf s s.cur) →
      ∃ t, exec (.start d a b y) s = .next t ∧ (curCtx t).pc = instrPc (curCtx s) + 4 ∧
        settled (curCtx t) d = (if d = 0 then regNull else dataReg (BitVec.ofNat 64 h)) ∧
        (let x := getCtx t ⟨s.cur.core, h⟩
         x = { ctxReset (coreNum s s.cur.core) h with
          epoch := (curCore s).epochs + 1
          energy := (getCtx s ⟨s.cur.core, h⟩).energy
          fetched := (getCtx s ⟨s.cur.core, h⟩).fetched
          trapvec := (getCtx s ⟨s.cur.core, 0⟩).trapvec
          status := .live
          starter := s.cur.cx
          c := x.c
          pcc := if (readReg (curCtx s) a).tag then (readReg (curCtx s) a).bits else (curCtx s).pcc
          pc := xval (curCtx s) a } ∧
         ∀ r : BitVec 5, readReg x r =
          if r = 1 then readReg (curCtx s) b else if r = 2 then readReg (curCtx s) (b + 1) else if r = 3 then readReg (curCtx s) (b + 2)
          else if r = 4 then readReg (curCtx s) (b + 3) else if r = 5 then dataReg (BitVec.ofNat 64 s.cur.cx)
          else if r = 6 then argCap s s.cur.core else regNull) ∧
        memoryKept s t ∧ ∀ id, id ≠ s.cur → id ≠ ⟨s.cur.core, h⟩ → getCtx t id = getCtx s id)) ∧
  (∀ (d a : BitVec 5) (y : BitVec 3), legal (.hjoin d a y) = true → ∀ s, issues s [a] [d] false → direct s → unpaired s →
    let h := (xval (curCtx s) a).toNat
    let id : CtxId := ⟨s.cur.core, h⟩
    let named := 1 ≤ h ∧ h ≤ 10 ∧ h ≠ s.cur.cx
    let first := ∀ g e, (curCtx s).waiting = some (.hjoin g e) → g = h → e = (getCtx s id).epoch
    ((¬named ∨ (getCtx s id).status = .free ∨ (getCtx s id).status = .task) →
      exec (.hjoin d a y) s = .next (raiseSync s ⟨1, false, xval (curCtx s) a⟩ (curCtx s).pc)) ∧
    (named → (getCtx s id).status = .live → first → ∃ t, exec (.hjoin d a y) s = .next t ∧ (curCtx t).pc = (curCtx s).pc ∧ (curCtx t).c = (curCtx s).c ∧
      getCtx t id = getCtx s id ∧ memoryKept s t) ∧
    (named → (getCtx s id).status = .joinable → first → bufEmpty s (senderOf s id) = true →
      (∀ f ∈ s.flights, f.inDie = true → f.src ≠ senderOf s id) →
      (∀ p ∈ (curCore s).ctxs, p.1 < s.cur.cx → alive p.2 = true → p.2.waiting ≠ some (.hjoin h (getCtx s id).epoch)) →
      ∃ t, exec (.hjoin d a y) s = .next t ∧ (curCtx t).pc = instrPc (curCtx s) + 4 ∧
        settled (curCtx t) d = (if d = 0 then regNull else readReg (getCtx s id) 1) ∧
        getCtx t id = { getCtx s id with status := .free } ∧ memoryKept s t ∧ ∀ k, k ≠ s.cur → k ≠ id → getCtx t k = getCtx s k))

/-- R47, R344, R394: IDLE reports the pending wake events, bit 5 only when it names a time that has come, clears them and goes on; with none it
waits. TSHOR gives HORIZON, which is the least last timestamp of the bound senders of the core's ORD channels (R43), or all ones without one. R35,
R260, R331, R397: DONE of a context outside a pair that is no callee of CALLAT and holds no bank lease: the control context ends its part, a
helper started by START becomes joinable with its c1, an unordered task frees its helper; tokens, barriers, streams, deposits, deferred
faults, lift state and handler mode go. R67, R69, R64: a pending write of that c1 is returned at its older value, and CHKSB reports it; the 16-bit
form waits for it. A speculative ordered task loses all of that too, keeps its held effects and waits for its commit. UNTWIN on a core that is not
twinned does nothing. -/
def Obligations.ContextsIdleAndEnd : Prop :=
  (∀ (d a : BitVec 5) (y : BitVec 3),
    let events := fun s => (curCtx s).wake.toNat % 32 +
      (if a ≠ 0 ∧ (xval (curCtx s) a ≤ s.mg.time ∨ (curCtx s).wake.toNat / 32 % 2 = 1) then 32 else 0)
    completes (.idle d a y) (1 + y.toNat) [a] [d] false (fun s => direct s ∧ unpaired s ∧ events s ≠ 0)
      (fun s => onCur s fun x => setReg { x with wake := 0 } d (dataReg (BitVec.ofNat 64 (events s)))) ∧
    (legal (.idle d a y) = true → ∀ s, issues s [a] [d] false → direct s → unpaired s → events s = 0 →
      exec (.idle d a y) s = .next (onCur s fun x =>
        stallAt (.idle d a y) { x with idling := some (if a = 0 then none else some (xval x a)) })) ∧
    completes (.tshor d y) (1 + y.toNat) [] [d] false unpaired
      (fun s => onCur s fun x => setReg x d (dataReg (BitVec.ofNat 64 (horizon (curCore s))))) ∧
    ∀ k : Core,
      let last := fun chn j => mapGetD k.senderLast (chn * 4 + j) 0
      (∀ chn j, chn < 15 → chanOrd k chn = true → j < (boundSenders k chn).length → horizon k ≤ last chn j) ∧
      (horizon k = 2 ^ 48 - 1 ∨
        ∃ chn j, chn < 15 ∧ chanOrd k chn = true ∧ j < (boundSenders k chn).length ∧ horizon k = last chn j)) ∧
  (∀ (i : Instr) (y : BitVec 3) (s : State), (i = .done y ∨ i = .done16) → legal i = true → guardOpen (curCtx s).guard = true → unpaired s →
    (∀ t, (curCtx s).task = some t → t.msg.kind ≠ .callat) → (∀ l ∈ s.leases, l.holder ≠ senderOf s s.cur) →
    let returns := s.cur.cx ≠ 0 ∧ (curCtx s).status = .live ∧ (curCtx s).task = none
    (returns → scoreboardHit (curCtx s) [1] (if i = .done16 then [1] else []) = none) →
    (direct s → (s.cur.cx = 0 ∨ (curCtx s).status = .live ∨ ((curCtx s).status = .task ∧ (curCtx s).task ≠ none)) →
      ∃ t, exec i s = .next t ∧ memoryKept s t ∧
        (curCtx t).status = (if s.cur.cx ≠ 0 ∧ (curCtx s).status = .live then .joinable else .free) ∧
        (returns → readReg (curCtx t) 1 = if i = .done16 then settled (curCtx s) 1 else readReg (curCtx s) 1) ∧
        (curCtx t).k = Vector.replicate 8 tokenReset ∧ (curCtx t).bar = Vector.replicate 8 ⟨.unset, 0, 0⟩ ∧
        (curCtx t).s = Vector.replicate 8 none ∧ (curCtx t).awaiting = [] ∧ (curCtx t).deferred = [] ∧ (curCtx t).pending = [] ∧
        (curCtx t).ldepth = 0 ∧ (curCtx t).lframe = tagNone ∧ (curCtx t).handler = false ∧ (curCtx t).guard = .none) ∧
    (isSpec (curCtx s) = true → ∃ t, exec i s = .next t ∧ (curCtx t).status = .task ∧
      (curCtx t).task = (curCtx s).task.map (fun k => { k with finished := true }) ∧ (curCtx t).ldepth = 0 ∧ (curCtx t).lframe = tagNone ∧
      (curCtx t).k = Vector.replicate 8 tokenReset ∧ (curCtx t).s = Vector.replicate 8 none ∧ (curCtx t).handler = false ∧ memoryKept s t ∧
      ∀ id, id ≠ s.cur → getCtx t id = getCtx s id) ∧
    completes (.untwin y) (1 + y.toNat) [] [] false unpaired id)

/-- R37, R42, R127, R364, R365, R333: MSG, MSGT and EVTICK outside a speculative task and a pair, with room in the store buffer and, but for EVTICK,
in the target's channel queue (of a pair the primary's): one message entry leaves through the store buffer, an entry of the queue is reserved, and
MSGT takes the next sequence number for its target. The payload travels as data. R41, R319: CALLAT outside a speculative task and a pair, its token
below 255: the call leaves as a message of channel 15 with the entry and the arguments, the token gains an operation, and cd awaits the deposit. -/
def Obligations.MessagesAndCallsLeave : Prop :=
  (∀ (d a : BitVec 5) (imm : BitVec 10) (chn : BitVec 4) (y : BitVec 3),
    let dst := fun s => (xval (curCtx s) d).toNat % 2 ^ 22
    let send := fun (kind : MsgKind) (cls ch : Nat) (p : State → List W64) (ts seq : State → Nat) (s : State) =>
      ({ kind := kind, src := senderOf s s.cur, dst := dst s, cls := cls, chn := ch, payload := p s, ts := ts s, seq := seq s, entry := 0, tok := 0,
         reg := 0, call := 0, rolls := 0, room := if kind = .evtick then none else (localCore s (dst s)).map (viewCore s) } : Msg)
    let four := fun s => [xval (curCtx s) a, xval (curCtx s) (a + 1), xval (curCtx s) (a + 2), xval (curCtx s) (a + 3)]
    let at_ := fun (s : State) => (localCore s (dst s)).map (viewCore s)
    let reserve := fun (ch : Nat) (s : State) => match at_ s with
      | some c => onCore s c fun k => { k with reserved := mapSet k.reserved ch (mapGetD k.reserved ch 0 + 1) }
      | none => s
    let post := fun (m : State → Msg) (s z : State) => onCore z s.cur.core fun k => { k with buf := k.buf ++ [⟨senderOf s s.cur, .msg (m s)⟩] }
    let room := fun (ch : Nat) (s : State) => ∀ c, at_ s = some c →
      (chanQueue (getCore s c) ch).length + mapGetD (getCore s c).reserved ch 0 < 16
    let ready := fun s => direct s ∧ unpaired s ∧ bufferOpen s
    let next := fun s => mapGetD (curCore s).seqOut (dst s) 0
    let cls := imm.toNat % 64
    let ch := imm.toNat / 64
    completes (.msg d a imm y) (1 + y.toNat) [d, a, a + 1, a + 2, a + 3] [] false (fun s => ready s ∧ room ch s)
      (fun s => post (send .msg cls ch four (fun _ => 0) fun _ => 0) s (reserve ch s)) ∧
    completes (.msgt d a imm y) (1 + y.toNat) [d, a, a + 1, a + 2, a + 3, a + 4] [] false (fun s => ready s ∧ room ch s)
      (fun s => post (send .msgt cls ch four (fun s => (xval (curCtx s) (a + 4)).toNat % 2 ^ 48) next) s
        (onCore (reserve ch s) s.cur.core fun k => { k with seqOut := mapSet k.seqOut (dst s) ((next s + 1) % 2 ^ 32) })) ∧
    completes (.evtick d a chn y) (1 + y.toNat) [d, a] [] false ready
      (fun s => post (send .evtick 0 chn.toNat (fun _ => []) (fun s => (xval (curCtx s) a).toNat % 2 ^ 48) fun _ => 0) s s)) ∧
  (∀ (d a b : BitVec 5) (k y : BitVec 3),
    let dst := fun s => (xval (curCtx s) a).toNat % 2 ^ 22
    let call := fun (s : State) =>
      ({ kind := .callat, src := senderOf s s.cur, dst := dst s, cls := 0, chn := 15,
         payload := [xval (curCtx s) (b + 1), xval (curCtx s) (b + 2), xval (curCtx s) (b + 3), xval (curCtx s) (b + 4)], ts := 0, seq := 0,
         entry := xval (curCtx s) b, tok := k.toNat, reg := d, call := (curCtx s).nextCall, rolls := 0,
         room := (localCore s (dst s)).map (viewCore s) } : Msg)
    let reserve := fun (s : State) => match (localCore s (dst s)).map (viewCore s) with
      | some c => onCore s c fun q => { q with reserved := mapSet q.reserved 15 (mapGetD q.reserved 15 0 + 1) }
      | none => s
    completes (.callat d a b k y) (1 + y.toNat) [a, b, b + 1, b + 2, b + 3, b + 4] [d] false
      (fun s => direct s ∧ unpaired s ∧ bufferOpen s ∧ (vecGet (curCtx s).k k.toNat tokenReset).count < 255 ∧
        ∀ c, (localCore s (dst s)).map (viewCore s) = some c → (chanQueue (getCore s c) 15).length + mapGetD (getCore s c).reserved 15 0 < 16)
      (fun s => onCur (onCore (reserve s) s.cur.core fun q => { q with buf := q.buf ++ [⟨senderOf s s.cur, .msg (call s)⟩] })
        fun x => { x with
          nextCall := x.nextCall + 1
          awaiting := x.awaiting ++ [⟨x.nextCall, d, k.toNat, dst s⟩]
          k := vecModify x.k k.toNat fun t => { t with count := t.count + 1 } }))

/-- R236 to R239, R292, R297, R317: BINIT sets an idle barrier of 1 to 1,024 participants and refuses a waiting one; BARR sends the arrival
through the store buffer and waits from then on; BWAIT returns when the phase is done, acquiring for its die (R239), waits while it is not, and
raises ILLOP on a barrier that no arrival stands on; behind a release of its context it waits until what comes before that is performed (R124, R145):
`behind` is the state once it is. R47, R236 to R238: a barrier arrival at its home opens a phase, joins one of equal count,
completes it, or is refused; a completion that reaches its context sets the barrier done and is wake event 4. Where a participant of the phase is on another
die than the home, the home's die first makes its REDs and owned words visible there (R239, R147). That BWAIT acquires whatever the
scope of the phase, and that an acquire drops every shared word of the die, is the model's reading (log 25). -/
def Obligations.BarriersMeet : Prop :=
  (∀ (n : BitVec 3) (a b : BitVec 5) (y : BitVec 3),
    let bar := fun s => vecGet (curCtx s).bar n.toNat ⟨.unset, 0, 0⟩
    let put := fun (f : Barrier → Barrier) (x : Ctx) => { x with bar := vecModify x.bar n.toNat f }
    let count := fun s => (xval (curCtx s) b).toNat
    let counted := fun s => 1 ≤ count s ∧ count s ≤ 1024 ∧ (bar s).st ≠ .waiting
    let behind := fun s => releaseNow (onCur s (stallsInBar n.toNat))
    completes (.binit n a b y) (1 + y.toNat) [a, b] [] false counted
      (fun s => onCur s (put fun _ => ⟨.idle, (xval (curCtx s) a).toNat % 2 ^ 22, count s⟩)) ∧
    faultsWhen (.binit n a b y) [a, b] [] false (fun s => ¬counted s) (fun _ => ⟨1, false, natW (Instr.binit n a b y).word⟩) ∧
    completes (.barr n y) (1 + y.toNat) [] [] false
      (fun s => direct s ∧ unpaired s ∧ bufferOpen s ∧ ((bar s).st = .idle ∨ (bar s).st = .done))
      (fun s => onCur (onCore s s.cur.core fun k =>
        { k with buf := k.buf ++ [⟨senderOf s s.cur, .arrive n.toNat (bar s).count (bar s).home⟩] }) (put fun q => { q with st := .waiting })) ∧
    faultsWhen (.barr n y) [] [] false (fun s => (bar s).st = .unset ∨ (bar s).st = .waiting) (fun _ => ⟨1, false, natW (Instr.barr n y).word⟩) ∧
    completes (.bwait n y) (1 + y.toNat) [] [] false
      (fun s => direct s ∧ unpaired s ∧ releasePending s = false ∧ (bar s).st = .done ∧ ∀ t, (curCtx s).waiting ≠ some (.broken t))
      (fun s => acquireDie (onCur (behind s) (put fun q => { q with st := .done })) (dieOf s.cur.core)) ∧
    (legal (.bwait n y) = true → ∀ s, issues s [] [] false → direct s → unpaired s → releasePending s = true →
      exec (.bwait n y) s = .next (onCur s fun x => stallAt (.bwait n y) (stallsInBar n.toNat x))) ∧
    (legal (.bwait n y) = true → ∀ s, issues s [] [] false → direct s → unpaired s → releasePending s = false →
      (∀ t, (curCtx s).waiting ≠ some (.broken t)) →
      ((bar s).st = .waiting →
        exec (.bwait n y) s = .next (onCur (behind s) (stallAt (.bwait n y))) ∧ (curCtx (behind s)).waiting = some (.bwait n.toNat)) ∧
      ((bar s).st = .unset ∨ (bar s).st = .idle →
        exec (.bwait n y) s = .next (raiseSync (behind s) ⟨1, false, natW (Instr.bwait n y).word⟩ (curCtx s).pc))) ∧
    (legal (.bwait n y) = true → ∀ s t, issues s [] [] false → direct s → unpaired s → releasePending s = false → (curCtx s).waiting = some (.broken t) →
      exec (.bwait n y) s = .next (raiseSync (behind s) t (curCtx s).pc))) ∧
  (∀ (s : State),
    (∀ before f after b count c, s.flights = before ++ f :: after → f.cargo = .arrive b count → (∀ g ∈ before, g.src.core ≠ f.src.core ∨ g.dst ≠ f.dst) →
      localCore s f.dst = some c → asleep s c = false → 0 < count →
      let phase := mapGet (getCore s c).barHome b
      let here := absent s c = false ∧ resident s c = true
      let counted := fun p : Phase => p.arrived ++ [f.src]
      let wide := fun l : List Sender => if ∀ g ∈ l, (localCore s g.core).map dieOf = some (dieOf c) then none else some (dieOf c)
      ∃ t, exec (.barrierArrival before.length) s = .next t ∧ t.flights = before ++ after ∧
        (¬here ∨ (∃ p, phase = some p ∧ p.count ≠ count) → t.refused = s.refused ++ [⟨f.src, ⟨14, false, BitVec.ofNat 64 f.dst⟩, none, some b⟩] ∧
          getCore t c = getCore s c) ∧
        (∀ p, here → p.count = count → (phase = some p ∨ (phase = none ∧ p.arrived = [])) →
          (p.arrived.length + 1 < count → mapGet (getCore t c).barHome b = some ⟨count, counted p⟩ ∧ t.completions = s.completions) ∧
          (count ≤ p.arrived.length + 1 → t.completions = s.completions ++ (counted p).map (fun g => ⟨g, b, wide (counted p)⟩) ∧
            (mapSorted (getCore s c).barHome = true → mapGet (getCore t c).barHome b = none)))) ∧
    (∀ before d after id, s.completions = before ++ d :: after → findSender s d.dst = some id → (getCore s id.core).twin = none → d.bar < 8 →
      let st := fun (z : State) => (vecGet (getCtx z id).bar d.bar ⟨.unset, 0, 0⟩).st
      let x := exec (.barrierCompletion before.length) s
      let taken := fun t => t.completions = before ++ after ∧ (getCtx t id).wake.getLsbD 4 = true ∧
        (st s = .waiting → st t = .done) ∧ (st s ≠ .waiting → st t = st s)
      (d.wide = none → ∃ t, x = .next t ∧ taken t) ∧
      (∀ die, d.wide = some die →
        ((∃ r ∈ s.reds, (localCore s r.src.core).map dieOf = some die) → x = .next s) ∧
        (s.reds = [] → s.flights = [] → farWaits s die = false → ∃ t, x = .next t ∧ taken t ∧ t.mem = (flushFar s die).mem))))

/-- R44, R131, R144, R173, R193: an instruction that waits for an outside result, acts on something outside the core, starts a helper, reads a stream
register, updates memory atomically, acquires from global memory or works on accumulators stalls while its task is speculative: nothing but its
guard's latch and the mark that it stalls changes. Those that check operands or an address first may stall at a fault instead, which the task keeps (R248). A wing-dispatched one first waits for the
writes of what it reads (R69). LDG, GAMO and GCAS stall behind the translation of their address. For TRAP 1023 this is the model's reading (log 28). -/
def Obligations.SpeculativeTasksWait : Prop :=
  (∀ (i : Instr) (reads writes : List (BitVec 5)) (s : State), legal i = true → issues s reads writes false → isSpec (curCtx s) = true → unpaired s →
    let waits := exec i s = .next (onCur s (stallAt i))
    (((∃ d n t y, i = .ldvStream d n t y ∧ reads = [] ∧ writes = []) ∨
      (∃ d a b op w y, i = .amo d a b op w y ∧ reads = [a, b] ∧ writes = [d]) ∨ (∃ d a b w y, i = .cas d a b w y ∧ reads = [d, a, b] ∧ writes = [d]) ∨
      (∃ a y, i = .tlbiAs a y ∧ reads = [a] ∧ writes = []) ∨ (∃ a b y, i = .tlbiVa a b y ∧ reads = [a, b] ∧ writes = [])) →
      waits ∨ ∃ t, exec i s = .next (keepFault (withdraw s s.cur) t (curCtx s).pc)) ∧
    (((∃ a y, i = .csrw a 0x0A y ∧ reads = [a] ∧ writes = []) ∨
      (∃ lo hi y, i = .waitk lo hi y ∧ reads = [] ∧ writes = []) ∨ (∃ d a y, i = .hjoin d a y ∧ reads = [a] ∧ writes = [d]) ∨
      (∃ d n y, i = .pope d n y ∧ reads = [] ∧ writes = [d]) ∨ (∃ d a y, i = .idle d a y ∧ reads = [a] ∧ writes = [d]) ∨
      (∃ d a b y, i = .start d a b y ∧ reads = [a, b, b + 1, b + 2, b + 3] ∧ writes = [d]) ∨
      (∃ n y, i = .bwait n y ∧ reads = [] ∧ writes = []) ∨ (∃ sc y, i = .fence sc y ∧ reads = [] ∧ writes = []) ∨
      (∃ n y, i = .bfree n y ∧ reads = [] ∧ writes = []) ∨ (∃ n a b all y, i = .blease n a b all y ∧ reads = [a, b] ∧ writes = []) ∨
      (∃ n a b z y, i = .sbind n a b z y ∧ reads = [a, b] ∧ writes = []) ∨ (∃ n y, i = .sfree n y ∧ reads = [] ∧ writes = []) ∨
      (∃ a y, i = .bind a y ∧ reads = [a] ∧ writes = []) ∨ (∃ y, i = .tlbiAll y ∧ reads = [] ∧ writes = []) ∨
      (∃ y, i = .trapSeal y ∧ reads = [] ∧ writes = [])) → waits)) ∧
  (∀ (i : Instr) (reads : List (BitVec 5)) (s : State), legal i = true → issues s reads [] true → isSpec (curCtx s) = true → unpaired s → (curCtx s).doing = none →
    ((∃ d a b y, i = .mma d a b y ∧ reads = []) ∨ (∃ d h a b l y, i = .mmas d h a b l y ∧ reads = []) ∨ (∃ n m k y, i = .tfetch n m k y ∧ reads = []) ∨ (∃ d y, i = .mzero d y ∧ reads = []) ∨
      (∃ d a b t y, i = .mrda d a b t y ∧ reads = [b]) ∨ (∃ d a b t y, i = .mwra d a b t y ∧ reads = [b]) ∨ (∃ y, i = .mlease y ∧ reads = []) ∨
      (∃ y, i = .mrel y ∧ reads = []) ∨ (∃ n y, i = .tunpin n y ∧ reads = [])) →
    let z := bodyState reads true s
    exec i s = .next (onCur z (stallAt i)) ∨ ∃ t, exec i s = .next (keepFault (withdraw z z.cur) t (curCtx s).pc)) ∧
  (∀ (d a b : BitVec 5) (sz : BitVec 3) (sc : BitVec 2) (off : BitVec 4) (op : BitVec 3) (w : BitVec 1) (y : BitVec 3) (s z : State) (p : Place × Bool),
    isSpec (curCtx s) = true → isSpec (curCtx z) = true → unpaired z →
    let waits := fun i : Instr => onCur z (stallAt i)
    let n := if w = 1 then 8 else 4
    (legal (.ldg d a sz 1 sc off y) = true → issues s [a] [d] false → 2 ≤ sc.toNat →
      accessGlobal (readReg (curCtx s) a) a.toNat (memAddr (readReg (curCtx s) a) off.toInt (sizeOf_ sz)) (sizeOf_ sz) accLoad s = .ok p z →
      exec (.ldg d a sz 1 sc off y) s = .next (waits (.ldg d a sz 1 sc off y))) ∧
    (legal (.gamo d a b op sc y) = true → issues s [a, b] [d] false →
      accessGlobal (readReg (curCtx s) a) a.toNat (capAddr (readReg (curCtx s) a).bits) 8 accAtomic s = .ok p z →
      exec (.gamo d a b op sc y) s = .next (waits (.gamo d a b op sc y))) ∧
    (legal (.gcas d a b w sc y) = true → issues s [d, a, b] [d] false →
      accessGlobal (readReg (curCtx s) a) a.toNat (capAddr (readReg (curCtx s) a).bits) n accAtomic s = .ok p z →
      exec (.gcas d a b w sc y) s = .next (waits (.gcas d a b w sc y))))

/-! ### Loads, stores, atomics and fences -/

/-- R102 to R104, R75: the checks of an access that need no translation, in their order; an access to global space is then translated. Each clause
takes up where the one before it found no fault. The bounds are those of R52. -/
def Obligations.AccessesAreChecked : Prop :=
  ∀ (s : State) (c : Reg) (r : Nat) (a : W64) (n : Nat) (k : Access), 0 < n →
    let has := fun p => c.bits.toNat / 2 ^ p % 2 = 1
    let engine := a.toNat / 2 ^ 60 = 14
    let permitted := (k.read = true → has 127) ∧ (k.write = true → has 126) ∧ (k.fetch = true → has 125) ∧ (k.storeCap = true → has 123) ∧
      (engine → has 122)
    let base := (capBounds c.bits).1
    let top := (capBounds c.bits).2
    let aligned := k.aligned = true → a.toNat % n = 0 ∧ (engine → n = 8)
    let raises := fun (code : Nat) (capp : Bool) (v : W64) => access c r a n k s = .error (.trap ⟨code, capp, v⟩) s
    (c.tag = false → raises 6 false (BitVec.ofNat 64 r)) ∧
    (c.tag = true → (¬permitted → raises 4 true a) ∧
      (permitted → (a.toNat < base ∨ top ≤ (a.toNat : Int) → raises 5 false a) ∧
        (base ≤ a.toNat → (a.toNat : Int) < top → top < (a.toNat : Int) + n → raises 5 false (BitVec.ofInt 64 top)) ∧
        (base ≤ a.toNat → (a.toNat : Int) + n ≤ top → (¬aligned → raises 2 false a) ∧
          (aligned → (spaceOf s s.cur.core a = none → raises 3 false a) ∧
            (∀ d o, spaceOf s s.cur.core a = some (.cell d o) →
              (k.fetch = true → raises 3 false a) ∧
              (k.fetch = false → k.ownCell = true → d ≠ coreNum s s.cur.core → raises 7 false a) ∧
              (k.fetch = false → (k.ownCell = true → d = coreNum s s.cur.core) → unpaired s → s.cur.core < 1024 →
                access c r a n k s = .ok (.cell d o, true) s)) ∧
            (∀ o, spaceOf s s.cur.core a = some (.engine o) →
              (k.fetch = true → raises 3 false a) ∧ (k.fetch = false → access c r a n k s = .ok (.engine o, true) s)) ∧
            ∀ va, spaceOf s s.cur.core a = some (.global va) → access c r a n k s = translate s.cur.core va a k s))))

/-- R102, R103: the space of an address by bits [63:60]: global (0), another core by absolute coordinates (0xC) or by coordinates relative to the
executing core (0xD), engine and system space (0xE). A reserved bit that is set, relative coordinates outside the grid, and every other value name
no space. R111 to R114: a translation that is cached, or walked without a fault, gives the place and its key when the page permits the access and
its key is loaded, and PERM otherwise: R for a load, W for a store, X for a fetch, CAPST for a stored tag. A launch whose root is not enabled, or a
core without a launch, raises PAGE. R111, R112: the walk reads the entry that the level's nine bits of the address select, in host memory or at its
home in HBM as plaintext; an entry that is not valid or has a reserved bit set raises PAGE; one that is no leaf names the next table; a leaf at level
4, a 1 GiB or 2 MiB page that is not aligned, and a page in neither memory raise PAGE; any other leaf gives the page, 64 KiB where C64 is set. A walk
that succeeds is entered in the caches of the core's site and cluster, a hit in the cluster's in that of the site. The replacement of cached
translations is the model's choice (log 30). -/
def Obligations.AddressesAreTranslated : Prop :=
  (∀ (s : State) (a : W64), unpaired s →
    let f : Nat → Nat → Nat := fun hi lo => a.toNat / 2 ^ lo % 2 ^ (hi + 1 - lo)
    let dx := if f 36 32 < 16 then (f 36 32 : Int) else (f 36 32 : Int) - 32
    let dy := if f 41 37 < 16 then (f 41 37 : Int) else (f 41 37 : Int) - 32
    let x := (coreX s.cur.core : Int) + dx
    let y := (coreY s.cur.core : Int) + dy
    (f 63 60 = 0 → spaceOf s s.cur.core a = if f 59 48 = 0 then some (.global (f 47 0)) else none) ∧
    (f 63 60 = 12 → spaceOf s s.cur.core a =
      if f 47 42 = 0 ∧ f 31 20 = 0 then some (.cell (f 59 48 * 1024 + coreAt (f 36 32) (f 41 37)) (f 19 0)) else none) ∧
    (f 63 60 = 13 → spaceOf s s.cur.core a =
      if f 59 42 = 0 ∧ f 31 20 = 0 ∧ 0 ≤ x ∧ x ≤ 31 ∧ 0 ≤ y ∧ y ≤ 31 then some (.cell (s.device * 1024 + coreAt x.toNat y.toNat) (f 19 0))
      else none) ∧
    (f 63 60 = 14 → spaceOf s s.cur.core a = if f 59 32 = 0 then some (.engine (f 31 0)) else none) ∧
    (f 63 60 ≠ 0 → f 63 60 ≠ 12 → f 63 60 ≠ 13 → f 63 60 ≠ 14 → spaceOf s s.cur.core a = none)) ∧
  (∀ (s : State) (c va : Nat) (a : W64) (k : Access),
    ((getCore s c).launch = none → translate c va a k s = .error (.trap ⟨3, false, a⟩) s) ∧
    (∀ l, (getCore s c).launch = some l →
      let root := vecGet s.mem.troot (l.queue % 16) 0
      (root.toNat % 2 = 0 → translate c va a k s = .error (.trap ⟨3, false, a⟩) s) ∧
      let answers := fun (e : TlbEntry) (u : State) =>
        let key := e.pte.toNat / 2 ^ 52 % 2 ^ 8
        let permits := (k.read = true → e.pte.getLsbD 1 = true) ∧ (k.write = true → e.pte.getLsbD 2 = true) ∧
          (k.fetch = true → e.pte.getLsbD 3 = true) ∧ (k.storeCap = true → e.pte.getLsbD 9 = true) ∧ (key ≠ 0 → mapGet u.mem.keys key ≠ none)
        (permits → translate c va a k s = .ok (.phys (e.pa + (va - e.va)) (e.pte.getLsbD 7) key, e.pte.getLsbD 9) u) ∧
        (¬permits → translate c va a k s = .error (.trap ⟨4, false, a⟩) u)
      (root.toNat % 2 = 1 → ∀ e, ((getFront s (siteOf s c)).tlb.find? fun e => covers e l.queue va) = some e → answers e s) ∧
      (root.toNat % 2 = 1 → ((getFront s (siteOf s c)).tlb.find? fun e => covers e l.queue va) = none →
        ∀ e, ((getCluster s (clusterOf (siteOf s c))).tlb.find? fun e => covers e l.queue va) = some e → answers e (fillMicro s (siteOf s c) e)) ∧
      (root.toNat % 2 = 1 → ((getFront s (siteOf s c)).tlb.find? fun e => covers e l.queue va) = none →
        ((getCluster s (clusterOf (siteOf s c))).tlb.find? fun e => covers e l.queue va) = none →
        ∀ e z, walk l.queue va (root.toNat / 2 ^ 12 % 2 ^ 40 * 4096) 4 a s = .ok e z →
          answers e (fillMicro (fillCluster z (clusterOf (siteOf s c)) e) (siteOf s c) e)))) ∧
  (∀ (q va t lvl : Nat) (a p : W64) (s z : State), 1 ≤ lvl → lvl ≤ 4 →
    readPte (t + 8 * (va / 2 ^ (12 + 9 * (lvl - 1)) % 512)) s = .ok p z →
    let b := fun n => p.getLsbD n = true
    let reserved := p.toNat / 2 ^ 60 ≠ 0 ∨ p.toNat / 2 ^ 10 % 4 ≠ 0 ∨ b 8 ∨ b 6 ∨ (lvl ≠ 1 ∧ b 5) ∨ (lvl = 1 ∧ b 4)
    let pa := p.toNat / 2 ^ 12 % 2 ^ 40 * 4096
    let size := if lvl = 3 then 2 ^ 30 else if lvl = 2 then 2 ^ 21 else if p.getLsbD 5 then 2 ^ 16 else 2 ^ 12
    let good := lvl ≠ 4 ∧ (lvl = 3 ∨ lvl = 2 → pa % size = 0) ∧
      (isHost (pa / size * size + va % size) = true ∨ inHbm z (pa / size * size + va % size) = true)
    (¬b 0 ∨ reserved → walk q va t lvl a s = .error (.trap ⟨3, false, a⟩) z) ∧
    (b 0 → ¬reserved → lvl ≠ 1 → ¬b 4 → walk q va t lvl a s = walk q va pa (lvl - 1) a z) ∧
    (b 0 → ¬reserved → (lvl = 1 ∨ b 4) → ¬good → walk q va t lvl a s = .error (.trap ⟨3, false, a⟩) z) ∧
    (b 0 → ¬reserved → (lvl = 1 ∨ b 4) → good → walk q va t lvl a s = .ok ⟨q, va / size * size, size, pa / size * size, p⟩ z)) ∧
  (∀ (pa : Nat) (s : State),
    (isHost pa = true → readPte pa s = .ok (BitVec.ofNat 64 (ofBytes (memReads s.mem.host (pa % 2 ^ 51) 8))) s) ∧
    (isHost pa = false → inHbm s pa = true → ∀ l z, homeRead pa 8 0 s = .ok l z → readPte pa s = .ok (BitVec.ofNat 64 (ofBytes l)) z))

/-- R348, R349, R105, R124: LD and LDG complete once their address has passed its checks and their data are there: sizes 0 to 2 extend the sign, 3
to 6 zeros, size 7 takes 16 bytes with the granule's tag where the capability has LC and the page, if the place is global, CAPST, but no tag with EXP
above 39, and with a tag the reserved bits 0 (R5, R51, R52). An acquire of
scope .dv or .sy drops the die's shared words. The second clause says where the data come from for own cell memory: its bytes, little-endian.
R385, R387, R127: ST and STG complete once their address has passed its checks, with room in the store buffer: the entry holds the place, the low
bytes of the register, little-endian, the tag of a stored capability, and the scope of a release. No byte of memory changes before the entry
leaves. R105, R45: bytes put into a core's cell memory: each is read back at its address, no other byte of any memory changes, the granules
touched lose their tags unless a capability is stored. That an acquire drops every shared word of the die is the model's reading (log 25). -/
def Obligations.LoadsAndStores : Prop :=
  (∀ (d a : BitVec 5) (sz : BitVec 3) (acq : BitVec 1) (sc : BitVec 2) (o7 : BitVec 7) (o4 : BitVec 4) (y : BitVec 3),
    let n : Nat := if sz = 7 then 16 else 2 ^ (sz.toNat % 4)
    let at_ := fun (s : State) (off : Int) => xval (curCtx s) a + BitVec.ofInt 64 (off * n)
    let value := fun (c : Reg) (t capst : Bool) (p : Place) (l : List Byte) =>
      if sz = 7 then
        let b := BitVec.ofNat 128 (ofBytes l)
        if (t && c.bits.getLsbD 124 && (isCellPlace p || capst)) = true ∧ ofBytes l / 2 ^ 114 % 64 ≤ 39 then (⟨b &&& ~~~(3#128 <<< 120), true⟩ : Reg) else ⟨b, false⟩
      else if sz.toNat ≤ 2 then dataReg ((BitVec.ofNat (8 * n) (ofBytes l)).signExtend 64)
      else dataReg (BitVec.ofNat 64 (ofBytes l))
    let tagOf := fun (p : Place) (z : State) => match loadTag p z with
      | .ok t _ => t
      | .error _ _ => false
    let done := fun (s : State) (v : Reg) (u : State) =>
      .next (retiredAt (1 + y.toNat) [d] (instrPc (curCtx s) + 4) (onCur u fun x => setReg x d v))
    (∀ s p b z l u, issues s [a] [d] false → unpaired z → unpaired u →
      access (readReg (curCtx s) a) a.toNat (at_ s o7.toInt) n accLoad s = .ok (p, b) z → loadPlace p n false z = .ok l u → l.length = n →
      legal (.ld d a sz o7 y) = true → exec (.ld d a sz o7 y) s = done s (value (readReg (curCtx s) a) (tagOf p u) b p l) u) ∧
    (∀ s o, issues s [a] [d] false → unpaired s → direct s → s.cur.core < 1024 → ownStores s = [] →
      access (readReg (curCtx s) a) a.toNat (at_ s o7.toInt) n accLoad s = .ok (.cell (coreNum s s.cur.core) o, true) s →
      legal (.ld d a sz o7 y) = true → exec (.ld d a sz o7 y) s = done s
        (value (readReg (curCtx s) a) ((curCore s).tags.contains (o / 16)) true (.cell (coreNum s s.cur.core) o) (memReads (curCore s).cell o n)) s) ∧
    (∀ s p b z l u, issues s [a] [d] false → unpaired z → unpaired u → (acq = 1 → 2 ≤ sc.toNat → direct z) →
      accessGlobal (readReg (curCtx s) a) a.toNat (at_ s o4.toInt) n accLoad s = .ok (p, b) z →
      loadPlace p n (decide (2 ≤ sc.toNat)) z = .ok l u → l.length = n → legal (.ldg d a sz acq sc o4 y) = true →
      ∃ w, w = onCur u (fun x => setReg x d (value (readReg (curCtx s) a) (tagOf p u) b p l)) ∧
        exec (.ldg d a sz acq sc o4 y) s = .next (retiredAt (1 + y.toNat) [d] (instrPc (curCtx s) + 4)
          (if acq = 1 ∧ 2 ≤ sc.toNat then acquireDie w (dieOf w.cur.core) else w)))) ∧
  (∀ (d a : BitVec 5) (sz : BitVec 3) (rel : BitVec 1) (sc : BitVec 2) (o7 : BitVec 7) (o4 : BitVec 4) (y : BitVec 3),
    let n : Nat := if sz = 7 then 16 else 2 ^ sz.toNat
    let at_ := fun (s : State) (off : Int) => xval (curCtx s) a + BitVec.ofInt 64 (off * n)
    let v := fun s => readReg (curCtx s) d
    let kind := fun s => accStore (sz = 7 && (v s).tag)
    let entry := fun s p r => BufKind.store p (toBytes (v s).bits.toNat n) (if sz = 7 then some (v s).tag else none) r
    let done := fun (s : State) (e : BufKind) (z t : State) =>
      t = retiredAt (1 + y.toNat) [] (instrPc (curCtx s) + 4) (onCore z z.cur.core fun k => { k with buf := k.buf ++ [⟨senderOf z z.cur, e⟩] }) ∧
      memoryKept z t
    (∀ s p b z, issues s [d, a] [] false → direct z → unpaired z → bufferOpen z → redBefore z (senderOf z z.cur) (entry s p none) = false →
      access (readReg (curCtx s) a) a.toNat (at_ s o7.toInt) n (kind s) s = .ok (p, b) z → legal (.st d a sz o7 y) = true →
      ∃ t, exec (.st d a sz o7 y) s = .next t ∧ done s (entry s p none) z t) ∧
    (∀ s p b z, issues s [d, a] [] false → direct z → unpaired z → bufferOpen z →
      redBefore z (senderOf z z.cur) (entry s p (if rel = 1 then some sc.toNat else none)) = false →
      accessGlobal (readReg (curCtx s) a) a.toNat (at_ s o4.toInt) n (kind s) s = .ok (p, b) z → legal (.stg d a sz rel sc o4 y) = true →
      ∃ t, exec (.stg d a sz rel sc o4 y) s = .next t ∧ done s (entry s p (if rel = 1 then some sc.toNat else none)) z t)) ∧
  (∀ (s : State) (c off : Nat) (l : List Byte) (cap : Option Bool) (who : Option CtxId),
    let z := cellPut s c off l cap who
    Memory.wf (getCore s c).cell = true → setSorted (getCore s c).tags = true → mapSorted (getCore s c).ctxs = true →
    (∀ a, memRead (getCore z c).cell a = if off ≤ a ∧ a < off + l.length then l.getD (a - off) 0 else memRead (getCore s c).cell a) ∧
    (∀ k, k ≠ c → ∀ a, memRead (getCore z k).cell a = memRead (getCore s k).cell a) ∧ z.mem = s.mem ∧
    (∀ g, g ∈ (getCore z c).tags ↔ match cap with
      | some t => if g = off / 16 then t = true else g ∈ (getCore s c).tags
      | none => g ∈ (getCore s c).tags ∧ ¬(off < g * 16 + 16 ∧ g * 16 < off + l.length)) ∧
    (∀ id, isSpec (getCtx s id) = false → (getCtx z id).c = (getCtx s id).c))

/-- R131, R289, R320: AMO and CAS on own cell memory, the context's own buffer entries having left: the old word goes to cd, sign-extended, and the
new word to memory in the same step, little-endian at the operand's address; a CAS whose comparison fails writes no memory. R151, R340, R341, R144:
GAMO and GCAS once their address has passed its checks, the context's own entries and REDs have been performed and the release of their scope is done
(state `u`). On host memory the word is read and written in one step; in HBM the reduce line that the die holds of it is merged first (R120, R152), it
is recalled from every die that owns it, read and written at its home, and the die keeps no copy of it. An acquire of scope .dv or .sy follows. GCAS
writes only where the comparison holds. Operations 2 to 7 of GAMO raise PERM on host memory. That an acquire drops every shared word of the die is the
model's reading (log 25). -/
def Obligations.AtomicsReadAndWrite : Prop :=
  (∀ (d a b : BitVec 5) (op : BitVec 4) (w64 : BitVec 1) (y : BitVec 3) (s : State) (o : Nat),
    let n : Nat := if w64 = 1 then 8 else 4
    let old := BitVec.ofNat (8 * n) (ofBytes (memReads (curCore s).cell o n))
    let v := (xval (curCtx s) b).setWidth (8 * n)
    let new := if op = 0 then v else if op = 1 then old + v else if op = 2 then old &&& v else if op = 3 then old ||| v
      else if op = 4 then old ^^^ v else if op = 5 then (if v.toInt < old.toInt then v else old)
      else if op = 6 then (if old.toInt < v.toInt then v else old) else if op = 7 then (if v.toNat < old.toNat then v else old)
      else (if old.toNat < v.toNat then v else old)
    let store := fun w : BitVec (8 * n) => cellPut s s.cur.core o (toBytes w.toNat n) none (some s.cur)
    let done := fun u => Host.Outcome.next (retiredAt (1 + y.toNat) [d] (instrPc (curCtx s) + 4) (onCur u fun x => setReg x d (dataReg (old.signExtend 64))))
    accessOwn (readReg (curCtx s) a) a.toNat (xval (curCtx s) a) n s = .ok o s → direct s → unpaired s →
    bufEmpty s (senderOf s s.cur) = true → (∀ f ∈ s.flights, f.inDie = true → f.src ≠ senderOf s s.cur) →
    (issues s [a, b] [d] false → legal (.amo d a b op w64 y) = true → exec (.amo d a b op w64 y) s = done (store new)) ∧
    (issues s [d, a, b] [d] false → legal (.cas d a b w64 y) = true →
      exec (.cas d a b w64 y) s = done (if old = (xval (curCtx s) d).setWidth (8 * n) then store v else s))) ∧
  (∀ (d a b : BitVec 5) (op : BitVec 3) (w64 : BitVec 1) (sc : BitVec 2) (y : BitVec 3) (s z u : State) (pa key : Nat) (uc capst : Bool),
    direct z → unpaired z → bufEmpty z (senderOf z z.cur) = true → (∀ f ∈ z.flights, f.inDie = true → f.src ≠ senderOf z z.cur) →
    redPending (.phys pa uc key) 8 z = .ok false z →
    releaseAt (senderOf z z.cur) (bufNext (curCore z)) (dieOf z.cur.core) sc.toNat z = .ok () u →
    let new := fun (n : Nat) (o v : BitVec (8 * n)) => if op = 0 then v else if op = 1 then o + v else if op = 2 then o &&& v else if op = 3 then o ||| v
      else if op = 4 then o ^^^ v else if op = 5 then (if v.toInt < o.toInt then v else o) else if op = 6 then (if o.toInt < v.toInt then v else o)
      else (if o.toNat < v.toNat then v else o)
    let done := fun (n : Nat) (o : BitVec (8 * n)) (w : State) =>
      let w := if 2 ≤ sc.toNat then acquireDie w (dieOf z.cur.core) else w
      Host.Outcome.next (retiredAt (1 + y.toNat) [d] (instrPc (curCtx s) + 4) (onCur w fun x => setReg x d (dataReg (o.signExtend 64))))
    let amo := fun w => issues s [a, b] [d] false → legal (.gamo d a b op sc y) = true →
      accessGlobal (readReg (curCtx s) a) a.toNat (xval (curCtx s) a) 8 accAtomic s = .ok (.phys pa uc key, capst) z → exec (.gamo d a b op sc y) s = w
    let cas := fun (n : Nat) w => n = (if w64 = 1 then 8 else 4) → issues s [d, a, b] [d] false → legal (.gcas d a b w64 sc y) = true →
      accessGlobal (readReg (curCtx s) a) a.toNat (xval (curCtx s) a) n accAtomic s = .ok (.phys pa uc key, capst) z → exec (.gcas d a b w64 sc y) s = w
    let equal := fun (n : Nat) (o : BitVec (8 * n)) => o = (xval (curCtx z) d).setWidth (8 * n)
    let v := fun n => (xval (curCtx z) b).setWidth (8 * n)
    (2 ≤ op.toNat → isHost pa = true → amo (.next (raiseSync z ⟨4, false, xval (curCtx s) a⟩ (curCtx s).pc))) ∧
    (isHost pa = true → ∀ n,
      let o := BitVec.ofNat (8 * n) (ofBytes (memReads u.mem.host (pa % 2 ^ 51) n))
      let put := fun w : BitVec (8 * n) => onMem u fun g => { g with host := memWrites g.host (pa % 2 ^ 51) (toBytes w.toNat n) }
      (n = 8 → op.toNat ≤ 1 → amo (done n o (put (new n o (v n))))) ∧ cas n (done n o (if equal n o then put (v n) else u))) ∧
    (isHost pa = false → ∀ n l r q,
      let o := BitVec.ofNat (8 * n) (ofBytes l)
      let die := dieOf z.cur.core
      let fresh := (wordsOf pa n).foldl (fun s w => farDrop s die w) r
      isLeased u pa n = false → homeRead pa n key ((wordsOf pa n).foldl (fun s w => recallWord s w none) (mergeFar u die (pa / 128))) = .ok l r → l.length = n →
      (n = 8 → homeWrite pa (toBytes (new n o (v n)).toNat n) key fresh = .ok () q → amo (done n o q)) ∧
      (equal n o → homeWrite pa (toBytes (v n).toNat n) key fresh = .ok () q → cas n (done n o q)) ∧ (¬equal n o → cas n (done n o fresh))))

/-- R123, R131, R150, R336, R374: RED leaves for its line with its value, behind what the store buffer then holds; only an integer add goes to host
memory, anything else raises PERM there. FENCE waits for the context's own entries, releases at its scope, and acquires for its die at .dv and .sy; at
.sy nothing fetched before it is kept (R126). R120, R152, R374: a RED is performed once the earlier stores of its context to the line, and the
releases it stands behind (R145), have left: on host memory as one read-modify-write, else as a partial in its line, which starts at the identity.
Integer addition wraps; minimum and maximum compare by the type. That an acquire drops every shared word of the die is the model's reading (log
25). -/
def Obligations.ReductionsAndFences : Prop :=
  (∀ (t : BitVec 3) (a b : BitVec 5) (op y : BitVec 3) (sc : BitVec 2),
    let n : Nat := if t = 2 ∨ t = 3 ∨ t = 5 then 8 else 4
    (legal (.red t a b op y) = true → ∀ s p capst z, issues s [a, b] [] false → direct z → unpaired z →
      accessGlobal (readReg (curCtx s) a) a.toNat (xval (curCtx s) a) n (accStore false) s = .ok (p, capst) z →
      let plain := op = 0 ∧ t.toNat ≤ 3
      (hostPlace p = false ∨ plain → exec (.red t a b op y) s = .next (retiredAt (1 + y.toNat) [] (instrPc (curCtx s) + 4)
        { z with
          reds := z.reds ++ [⟨z.nextRed, bufNext (curCore z), senderOf z z.cur, p, t.toNat, op.toNat, BitVec.ofNat 64 ((xval (curCtx z) b).toNat % 2 ^ (8 * n))⟩]
          nextRed := z.nextRed + 1 })) ∧
      (hostPlace p = true → ¬plain → exec (.red t a b op y) s = .next (raiseSync z ⟨4, false, xval (curCtx s) a⟩ (curCtx s).pc))) ∧
    (legal (.fence sc y) = true → ∀ s u, issues s [] [] false → direct s → unpaired s → bufEmpty s (senderOf s s.cur) = true →
      (∀ f ∈ s.flights, f.inDie = true → f.src ≠ senderOf s s.cur) → 
      releaseAt (senderOf s s.cur) (bufNext (curCore s)) (dieOf s.cur.core) sc.toNat s = .ok () u →
      let w := if sc = 3 then onCur u fun x => { x with fetched := [] } else u
      exec (.fence sc y) s = .next (retiredAt (1 + y.toNat) [] (instrPc (curCtx s) + 4)
        (if 2 ≤ sc.toNat then acquireDie w (dieOf w.cur.core) else w)))) ∧
  (∀ (s : State) (before after : List Red) (r : Red) (pa : Nat) (uc : Bool) (key : Nat),
    s.reds = before ++ r :: after → r.place = .phys pa uc key →
    (∀ e ∈ (getCore s (r.src.core % 1024)).buf, e.src = r.src → pa / 128 ∉ storeLines e.kind) →
    behindRelease s (r.src.core % 1024) r = false →
    let n := redSize r.typ
    let die := homeDie pa
    let parts := fun (z : State) => (z.mem.reduce.find? fun q => q.die = die && q.line = pa / 128).map fun q => (q.typ, q.op, q.key, mapGet q.parts (pa % 128))
    let x := exec (.redPerform before.length) s
    (isHost pa = true → Memory.wf s.mem.host = true → ∃ t, x = .next t ∧ t.reds = before ++ after ∧ t.mem.hbm = s.mem.hbm ∧
      memReads t.mem.host (pa % 2 ^ 51) n = toBytes (redCombine r.typ r.op (ofBytes (memReads s.mem.host (pa % 2 ^ 51) n)) r.val.toNat) n) ∧
    (isHost pa = false → uc = false → pa < s.mem.hbmtop.toNat → die = dieOf (r.src.core % 1024) → s.mem.far = [] → isLeased s (pa / 128 * 128) 128 = false →
      (parts s = none → ∃ t, x = .next t ∧ t.reds = before ++ after ∧ t.mem.hbm = s.mem.hbm ∧
        parts t = some (r.typ, r.op, key, some (BitVec.ofNat 64 (redCombine r.typ r.op (redIdentity r.typ r.op) r.val.toNat)))) ∧
      (∀ w, parts s = some (r.typ, r.op, key, some w) →
        (∀ q ∈ s.mem.reduce, q.die = die → q.line = pa / 128 → q.typ = r.typ ∧ q.op = r.op ∧ q.key = key) → ∃ t, x = .next t ∧ t.reds = before ++ after ∧ t.mem.hbm = s.mem.hbm ∧
        parts t = some (r.typ, r.op, key, some (BitVec.ofNat 64 (redCombine r.typ r.op w.toNat r.val.toNat))))) ∧
    (∀ a b, redCombine 1 0 a b = (a + b) % 2 ^ 32 ∧ redCombine 3 0 a b = (a + b) % 2 ^ 64 ∧ redCombine 3 1 a b = min (a % 2 ^ 64) (b % 2 ^ 64) ∧
      redCombine 3 2 a b = max (a % 2 ^ 64) (b % 2 ^ 64) ∧ (redCombine 2 1 a b = if (BitVec.ofNat 64 a).toInt ≤ (BitVec.ofNat 64 b).toInt then a % 2 ^ 64 else b % 2 ^ 64)) ∧
    redIdentity 3 1 = 2 ^ 64 - 1 ∧ redIdentity 2 1 = 2 ^ 63 - 1 ∧ redIdentity 2 2 = 2 ^ 63 ∧ redIdentity 0 3 = 2 ^ 32 - 1 ∧ redIdentity 4 0 = 0x80000000 ∧
      redIdentity 4 1 = 0x7F800000 ∧ redIdentity 5 2 = 0xFFF0000000000000)

/-! ### Copies, streams, tokens and engine ports -/

/-- R160, R161, R166, R168, R169, R380, R384, R419: the five copies outside a speculative task and a pair, their ranges having passed the checks, with
room in the copy port and the token, and the release towards an engine done (state `z`). A copy of no bytes completes at once; any other enters the
copy port with its runs, and the token gains an operation. SPREAD cuts the rows into blocks, block b for index b mod the extent along its axis. The
formats of the source banks are those of the issue (R108, R170). A set reserved bit of the length register raises ILLOP. That a push waits for its
release is the model's reading (log 26). -/
def Obligations.CopiesStart : Prop :=
  ∀ (d a b : BitVec 5) (k y : BitVec 3) (s z : State),
    let n := (xval (curCtx s) b).toNat % 2 ^ 32
    let high := (xval (curCtx s) b).toNat / 2 ^ 32
    let ca := readReg (curCtx s) a
    let cd := readReg (curCtx s) d
    let here := coreNum s s.cur.core
    let room := direct s ∧ unpaired s ∧ (vecGet (curCtx s).k k.toNat tokenReset).count < 255 ∧ inFlight (curCore s) < 16
    let next := fun u => Host.Outcome.next (retiredAt (1 + y.toNat) [] (instrPc (curCtx s) + 4) u)
    let charge := fun x : Ctx => { x with k := vecModify x.k k.toNat fun t => { t with count := t.count + 1 } }
    let none_ := next (onCur s fun x => tokenDone (charge x) k.toNat none)
    let enter := fun (kind : CopyKind) (runs : List Run) =>
      let cells := kind = .send ∨ kind = .spread
      let fmts := if cells then (List.range 16).map fun b => (b, bankFmt (curCore s) b) else []
      let ends := srcRange runs
      let copy := fun q : Core => ({
        id := q.nextCopy, src := senderOf s s.cur, tok := k.toNat, kind := kind, all := runs, runs := runs, flying := []
        srcFmts := fmts, dstFmts := [], failed := []
        scaled := decide cells && carriesScales (mapGetD fmts (ends.1 / 65536) 15) ends.1 ends.2
        queue := ((curCore s).launch.map (·.queue)).getD 0, begun := false, fault := none, err := none } : Copy)
      next (onCur (onCore z z.cur.core fun q => { q with nextCopy := q.nextCopy + 1, copies := q.copies ++ [copy q] }) charge)
    let started := fun (kind : CopyKind) (wide : Bool) (run : Run) (i : Instr) =>
      (n = 0 → exec i s = none_) ∧ (n ≠ 0 → pushRelease wide s = .ok () z → unpaired z → inFlight (curCore z) < 16 → exec i s = enter kind [run])
    issues s [d, a, b] [] false → room →
    (legal (.send d a b k y) = true → high = 0 → ∀ o t u, ownRange ca a.toNat n s = .ok o s → meshRange cd d.toNat (capAddr cd.bits) n s = .ok (t, u) s →
      started .send false ⟨BitVec.ofNat 64 o, meshAddr t u, 0, n, t⟩ (.send d a b k y)) ∧
    (legal (.sends d a b k y) = true → high / 2 ^ 3 = 0 → ∀ o, ownRange ca a.toNat n s = .ok o s →
      started (.sends (high % 2 ^ 3)) false ⟨BitVec.ofNat 64 o, 0, 0, n, (xval (curCtx s) d).toNat % 2 ^ 22⟩ (.sends d a b k y)) ∧
    (legal (.xget d a b k y) = true → high = 0 → ∀ t u, globalRange ca a.toNat n accCopySrc s = .ok () s → meshRange cd d.toNat (capAddr cd.bits) n s = .ok (t, u) s →
      started .xget true ⟨capAddr ca.bits, meshAddr t u, 0, n, t⟩ (.xget d a b k y)) ∧
    (legal (.xput d a b k y) = true → high = 0 → ∀ o, ownRange ca a.toNat n s = .ok o s → globalRange cd d.toNat n accCopyDst s = .ok () s →
      started .xput false ⟨BitVec.ofNat 64 o, capAddr cd.bits, 0, n, 0⟩ (.xput d a b k y)) ∧
    (legal (.spread d a b k y) = true → ∀ p l q o ts, access (readReg (curCtx s) b) b.toNat (xval (curCtx s) b) 32 accLoad s = .ok (.cell here p, true) s →
      loadPlace (.cell here p) 32 false s = .ok l s → spreadDesc l = some q → ownRange ca a.toNat (q.rows * q.rowLen) s = .ok o s →
      spreadTargets cd d.toNat q ((List.range q.h).flatMap fun j => (List.range q.w).map fun i => (i, j)) s = .ok ts s →
      let m := if q.axis = 0 then q.w else q.h
      let runs := ts.flatMap fun t => ((List.range ((q.rows + q.br - 1) / q.br)).filter fun bl => bl % m = t.2.2).map fun bl =>
        (⟨BitVec.ofNat 64 (o + bl * q.br * q.rowLen), meshAddr t.1 t.2.1, bl / m * q.br * q.rowLen, min q.br (q.rows - bl * q.br) * q.rowLen, t.1⟩ : Run)
      runs ≠ [] → pushRelease false s = .ok () z → unpaired z → inFlight (curCore z) < 16 → exec (.spread d a b k y) s = enter .spread runs) ∧
    (high ≠ 0 → (legal (.send d a b k y) = true → exec (.send d a b k y) s = .next (raiseSync s ⟨1, false, natW (Instr.send d a b k y).word⟩ (curCtx s).pc)) ∧
      (legal (.xget d a b k y) = true → exec (.xget d a b k y) s = .next (raiseSync s ⟨1, false, natW (Instr.xget d a b k y).word⟩ (curCtx s).pc)) ∧
      (legal (.xput d a b k y) = true → exec (.xput d a b k y) s = .next (raiseSync s ⟨1, false, natW (Instr.xput d a b k y).word⟩ (curCtx s).pc)))

/-- R166, R167, R418: WAITK goes on when every token of its mask is complete and none has its error bit; it waits while one is not complete; with
an error it raises the recorded fault of the lowest erring token and clears that token's error bit. Behind a release of its context it waits until what
comes before that is performed (R124, R145); `releaseNow` is the state once it is. R172, R175, R378, R383: SBIND binds an unbound
stream to a tagged region of own cell memory with R and W whose length is a power of two from twice the element size up to 64 KiB and to which it
is aligned, with both indices at 0. A bound stream or a reserved bit raises ILLOP. After SFREE the stream is unbound, and no other stream of the
context has changed. R173: an element of a SENDS arrives whole at the write index modulo the region; a full region lets it wait; a stream that is
unbound, or a length that is no multiple of its element, refuses the delivery. The context that takes a SENDS is the model's reading (log 13). -/
def Obligations.TokensAndStreams : Prop :=
  (∀ (lo : BitVec 5) (hi y : BitVec 3), legal (.waitk lo hi y) = true → ∀ s, issues s [] [] false → direct s → unpaired s →
    let named := fun n => n < 8 ∧ (lo.toNat + 32 * hi.toNat) / 2 ^ n % 2 = 1
    let tok := fun n => vecGet (curCtx s).k n tokenReset
    ((∀ n, named n → (tok n).count = 0 ∧ (tok n).err = false) → releasePending s = false →
      exec (.waitk lo hi y) s = .next (retiredAt (1 + y.toNat) [] (instrPc (curCtx s) + 4) (releaseNow s))) ∧
    (releasePending s = true → exec (.waitk lo hi y) s = .next (onCur s (stallAt (.waitk lo hi y)))) ∧
    ((∃ n, named n ∧ (tok n).count ≠ 0) → releasePending s = false → exec (.waitk lo hi y) s = .next (onCur (releaseNow s) (stallAt (.waitk lo hi y)))) ∧
    (∀ n, (∀ m, named m → (tok m).count = 0) → named n → (tok n).err = true → (∀ m, m < n → named m → (tok m).err = false) → releasePending s = false →
      exec (.waitk lo hi y) s = .next (raiseSync (onCur (releaseNow s) fun x => { x with k := vecModify x.k n fun t => { t with err := false } })
        ⟨(tok n).code, false, (tok n).val⟩ (curCtx s).pc))) ∧
  (∀ (n a b : BitVec 5) (z : BitVec 4) (y : BitVec 3),
    let len := fun s => (xval (curCtx s) b).toNat % 2 ^ 32
    let at_ := fun s => xval (curCtx s) a
    let cap := fun s => readReg (curCtx s) a
    let bound := fun (s : State) m => vecGet (curCtx s).s m none
    (legal (.sbind n a b z y) = true → ∀ s o m, issues s [a, b] [] false → direct s → unpaired s → (xval (curCtx s) b).toNat < 2 ^ 32 →
      bound s n.toNat = none → (cap s).tag = true → checkBounds (cap s).bits (at_ s) (len s) accBoth = .ok () →
      spaceOf s s.cur.core (at_ s) = some (.cell (coreNum s s.cur.core) o) → s.cur.core < 1024 → o + len s ≤ 2 ^ 20 → len s = 2 ^ m →
      z.toNat + 1 ≤ m → m ≤ 16 → (at_ s).toNat % len s = 0 →
      exec (.sbind n a b z y) s = .next (retiredAt (1 + y.toNat) [] (instrPc (curCtx s) + 4)
        (onCur s fun x => { x with s := vecSet x.s n.toNat (some ⟨o, len s, z.toNat, 0, 0⟩) }))) ∧
    (legal (.sbind n a b z y) = true → ∀ s, issues s [a, b] [] false → direct s → 2 ^ 32 ≤ (xval (curCtx s) b).toNat ∨ bound s n.toNat ≠ none →
      exec (.sbind n a b z y) s = .next (raiseSync s ⟨1, false, natW (Instr.sbind n a b z y).word⟩ (curCtx s).pc)) ∧
    (legal (.sfree n y) = true → ∀ s, issues s [] [] false → direct s → unpaired s →
      ∃ t, exec (.sfree n y) s = .next t ∧ (curCtx t).pc = instrPc (curCtx s) + 4 ∧ bound t n.toNat = none ∧
        (∀ m, m ≠ n.toNat → bound t m = bound s m) ∧ memoryKept s t)) ∧
  (∀ (s : State) (core id sn : Nat) (q : Copy) (before after : List Piece) (p : Piece) (c : Nat), findCopy s core id = some q → q.kind = .sends sn →
    q.flying = before ++ p :: after → p.done = false → (∀ r ∈ before, r.done = true) → localCore s p.run.target = some c → asleep s c = false → absent s c = false →
    (getCore s c).isSealed = false → (∀ w, (getCore s c).launch = some w → w.saved = false) → (getCore s c).twin = none →
    let gone := fun (t : State) => findCopy t core id = some { q with
      flying := q.flying.map fun r => { r with done := true }
      runs := []
      failed := p.run.target :: q.failed
      err := some ⟨14, false, BitVec.ofNat 64 p.run.target⟩ }
    let left := restBytes q.flying
    (streamOwner s c sn = none → ∃ t, exec (.streamDelivery core id before.length) s = .next t ∧ memoryKept s t ∧ gone t) ∧
    (∀ n st, streamOwner s c sn = some n → vecGet (getCtx s ⟨c, n⟩).s sn none = some st → sn < 8 →
      let e := 2 ^ st.elog
      let fits := (q.all.map fun r => r.len).sum % e = 0
      let waits := st.len / e ≤ st.wr - st.rd ∨ left.length < e
      (¬fits → ∃ t, exec (.streamDelivery core id before.length) s = .next t ∧ memoryKept s t ∧ gone t) ∧
      (fits → waits → exec (.streamDelivery core id before.length) s = .next s) ∧
      (fits → ¬waits → Memory.wf (getCore s c).cell = true →
        let o := st.base + st.wr * e % st.len
        let l := left.take e
        ∃ t, exec (.streamDelivery core id before.length) s = .next t ∧ t.mem = s.mem ∧
          vecGet (getCtx t ⟨c, n⟩).s sn none = some { st with wr := st.wr + 1 } ∧
          (∀ a, memRead (getCore t c).cell a = if o ≤ a ∧ a < o + l.length then l.getD (a - o) 0 else memRead (getCore s c).cell a) ∧
          ∃ g, findCopy t core id = some { q with flying := g, begun := true } ∧ restBytes g = left.drop e ∧
            g.map (fun r => r.data) = q.flying.map fun r => r.data)))

/-- R27, R154, R176, R372, R373: PUSHE and POPE. On a live lease a push adds its word behind the waiting ones of the port (of which it holds 16),
and a pop takes the oldest result; a port without a lease raises LEASE with the port number. On e15 a push queues the 64 bytes of its descriptor
and a pop takes the oldest result of the context; it waits while the descriptor that its word stands for has yet to flood. Behind a release of its context a
pop waits until what comes before that is performed (R124, R145); `r` is the state once it is. `z` and `u` are the states once the release towards the command is done. R177, R180, R294, R298:
BLEASE puts its request, once checked, in the order of arrival and waits; it completes when the grant has reached its context. A port that holds a
lease raises LEASE, a reserved bit ILLOP. BFREE ends the lease of its port, and raises LEASE without one. That a push waits for its release is the
model's reading (log 26). -/
def Obligations.PortsAndLeases : Prop :=
  (∀ (d n a : BitVec 5) (y : BitVec 3) (s : State),
    let push := Instr.pushe n a y
    let pop := Instr.pope d n y
    let next := fun w u => Host.Outcome.next (retiredAt (1 + y.toNat) w (instrPc (curCtx s) + 4) u)
    let me := senderOf s s.cur
    let live := fun l : Lease => l.granted = true ∧ l.expired = false
    let oldest := fun w : W64 => fun u => next [d] (onCur u fun x => setReg x d (dataReg w))
    direct s → unpaired s →
    (issues s [a] [] false → legal push = true → n ≠ 15 → ∀ z, pushRelease true s = .ok () z →
      (∀ l, findLease z (senderOf z z.cur) n.toNat = some l → live l → l.words.length < 16 →
        exec push s = next [] (putLease z { l with words := l.words ++ [xval (curCtx s) a] })) ∧
      (findLease z (senderOf z z.cur) n.toNat = none → exec push s = .next (raiseSync z ⟨12, false, BitVec.ofNat 64 n.toNat⟩ (curCtx s).pc))) ∧
    (issues s [a] [] false → legal push = true → n = 15 → ∀ p q z l u v, access (readReg (curCtx s) a) a.toNat (xval (curCtx s) a) 64 accLoad s = .ok (p, q) z →
      loadPlace p 64 false z = .ok l u → pushRelease true u = .ok () v → (v.launchPushes.filter fun r => r.src = senderOf v v.cur).length < 16 →
      exec push s = next [] { v with
        launchPushes := v.launchPushes ++ [⟨senderOf v v.cur, (List.range 8).map fun j => BitVec.ofNat 64 (ofBytes ((l.drop (8 * j)).take 8))⟩] }) ∧
    let r := releaseNow s
    (issues s [] [d] false → legal pop = true → releasePending s = true → exec pop s = .next (onCur s (stallAt pop))) ∧
    (issues s [] [d] false → legal pop = true → releasePending s = false → n ≠ 15 →
      (∀ l w q, findLease r me n.toNat = some l → live l → l.results = w :: q → exec pop s = oldest w (putLease r { l with results := q })) ∧
      (findLease r me n.toNat = none → exec pop s = .next (raiseSync r ⟨12, false, BitVec.ofNat 64 n.toNat⟩ (curCtx s).pc)) ∧
      (∀ l, findLease r me n.toNat = some l → l.expired = true →
        exec pop s = .next (raiseSync (dropLease r l) ⟨12, false, BitVec.ofNat 64 n.toNat⟩ (curCtx s).pc))) ∧
    (issues s [] [d] false → legal pop = true → releasePending s = false → n = 15 → ∀ before w waits after,
      r.launchResults = before ++ ⟨me, w, waits⟩ :: after → (∀ q ∈ before, q.src ≠ me) →
      exec pop s = if waits then .next (onCur r (stallAt pop)) else oldest w { r with launchResults := before ++ after })) ∧
  (∀ (n a b : BitVec 5) (all : BitVec 1) (y : BitVec 3) (s : State),
    let ask := Instr.blease n a b all y
    let free := Instr.bfree n y
    let w := (xval (curCtx s) b).toNat
    let reserved := w / 2 ^ 12 % 2 ^ 4 ≠ 0 ∨ w / 2 ^ 22 ≠ 0
    direct s → unpaired s →
    (issues s [a, b] [] false → legal ask = true →
      ((curCtx s).waiting = some (.leased n.toNat) → exec ask s = .next (retiredAt (1 + y.toNat) [] (instrPc (curCtx s) + 4) s)) ∧
      ((curCtx s).waiting = some (.blease n.toNat) → exec ask s = .next (onCur s (stallAt ask))) ∧
      ((curCtx s).waiting = none → reserved → exec ask s = .next (raiseSync s ⟨1, false, natW ask.word⟩ (curCtx s).pc)) ∧
      ((curCtx s).waiting = none → ¬reserved → findLease s (senderOf s s.cur) n.toNat ≠ none →
        exec ask s = .next (raiseSync s ⟨12, false, BitVec.ofNat 64 n.toNat⟩ (curCtx s).pc)) ∧
      ((curCtx s).waiting = none → ∀ u, askLease ask n.toNat a b (all = 1) s = .ok () u → ∃ t, exec ask s = .next t ∧
        (curCtx t).pc = (curCtx s).pc ∧ (curCtx t).waiting = some (.blease n.toNat) ∧
        ∃ l, t.leases = s.leases ++ [l] ∧ l.holder = senderOf s s.cur ∧ l.port = n.toNat ∧ l.granted = false ∧ l.micros = w % 2 ^ 12 + 1 ∧
          l.rows.length = w / 2 ^ 16 % 2 ^ 6 + 1)) ∧
    (issues s [] [] false → legal free = true →
      (∀ l, findLease s (senderOf s s.cur) n.toNat = some l → exec free s = .next (retiredAt (1 + y.toNat) [] (instrPc (curCtx s) + 4) (endLease s l))) ∧
      (findLease s (senderOf s s.cur) n.toNat = none → exec free s = .next (raiseSync s ⟨12, false, BitVec.ofNat 64 n.toNat⟩ (curCtx s).pc))))

/-! ### Scalar floating point -/

/-- R68, R329, R334, R335, R337 to R339: the scalar floating-point instructions on values of type `t`: each result is rounded once to nearest
even; FCVT rounds by its mode, SR steps RNGS, and .i32 results are sign-extended. Latencies: 4, or 6 for .f64; one more for FFMA, which reads cd once
a pending write of it has landed. -/
def Obligations.ScalarFloatingPoint : Prop :=
  ∀ (d a b t : BitVec 5) (ts : BitVec 3) (rnd : BitVec 2) (td : BitVec 5) (y : BitVec 3),
    let lat := if t = 13 then 6 else 4
    let v := fun (r : BitVec 5) (x : Ctx) => elemVal t.toNat (xval x r).toNat
    let once := fun w => dataReg (BitVec.ofNat 64 (encType t.toNat .rne 0 w).1)
    writesOne (.fadd d a b t y) (1 + y.toNat) lat [a, b] false d (fun x => once (fadd (v a x) (v b x))) ∧
    writesOne (.fmul d a b t y) (1 + y.toNat) lat [a, b] false d (fun x => once (fmul (v a x) (v b x))) ∧
    writesLate (.ffma d a b t y) (1 + y.toNat) (lat + 1) [d, a, b] [d] d (fun _ => True) (fun x => once (fadd (fmul (v a x) (v b x)) (v d x))) ∧
    writesOne (.fset d a b t y) (1 + y.toNat) lat [a, b] false d (fun x => dataReg (
      if v a x = .nan ∨ v b x = .nan then 8 else if flt (v a x) (v b x) then 1 else if flt (v b x) (v a x) then 4 else 2)) ∧
    (let src := if ts = 0 then 9 else if ts = 1 then 10 else if ts = 2 then 12 else if ts = 3 then 13 else ts.toNat + 12
     let wide := fun n => n = 13 ∨ n = 18 ∨ n = 19
     let res := fun (x : Ctx) => encType td.toNat (rndOf rnd.toNat) x.rngs (elemVal src (xval x a).toNat)
     completes (.fcvt d a ts rnd td y) (1 + y.toNat) [a] [d] false (fun _ => True) (fun s =>
      onCur s fun x => setLate { x with rngs := (res x).2 } d (if wide td.toNat ∨ wide src then 6 else 4)
        (if td = 16 then (BitVec.ofNat 32 (res x).1).signExtend 64 else BitVec.ofNat 64 (res x).1)))

/-! ### Lifted and vector execution -/

/-- R196, R198, R353, R354: LIFT opens the next level for the extent X(ca), outside every other context's lift, and gives it to the maps that
X(cb) names; the new LMASK repeats the saved one; LRET closes it again. The exceptions of both in their order. R184, R201, R202, R346, R347, R352,
R415: VSHAPE sets SHAPE; LIDX writes the index of each active instance at a level, or its number; LANY and LALL write the mask of the active
instances at which a shaped element has a set bit, LALL only when it holds at all of them. -/
def Obligations.LiftsShapesAndConditions : Prop :=
  (∀ (a b : BitVec 5) (y : BitVec 3) (s : State),
    let lift := Instr.lift a b y
    let x := curCtx s
    let e := (xval x a).toNat
    let p := tagCount x.lframe
    let named := fun n => (xval x b).getLsbD n
    let next := fun u => Host.Outcome.next (retiredAt (1 + y.toNat) [] (instrPc x + 4) u)
    let retag := fun (q : Nat → Bool) (l e : Nat) (m : Vector MapReg 16) => (List.range 16).foldl (fun v n =>
      if q n then vecModify v n (fun r => { r with lift := tagPut r.lift l e }) else v) m
    (issues s [a, b] [] false → legal lift = true →
      (e = 0 ∨ (xval x b).toNat / 2 ^ 16 ≠ 0 → exec lift s = .next (raiseSync s ⟨1, false, natW lift.word⟩ x.pc)) ∧
      (e ≠ 0 → (xval x b).toNat / 2 ^ 16 = 0 →
        (x.ldepth = 3 → exec lift s = .next (raiseSync s ⟨9, false, natW (frameWord x.lframe + min e 127 * 2 ^ 24)⟩ x.pc)) ∧
        (x.ldepth ≠ 3 → 64 < p * e →
          exec lift s = .next (raiseSync s ⟨9, false, natW (frameWord (tagPut x.lframe (x.ldepth + 1) (min e 127)))⟩ x.pc)) ∧
        (x.ldepth ≠ 3 → p * e ≤ 64 → (∀ q ∈ (curCore s).ctxs, q.1 ≠ s.cur.cx → q.2.ldepth = 0) →
          exec lift s = next (onCur s fun x => { x with
            masks := x.lmask :: x.masks
            ldepth := x.ldepth + 1
            lframe := tagPut x.lframe (x.ldepth + 1) e
            lmask := liftMask (if x.ldepth = 0 then BitVec.allOnes 64 else x.lmask) p (p * e)
            m := retag named (x.ldepth + 1) e x.m })))) ∧
    (issues s [] [] false → legal (.lret y) = true →
      (x.ldepth = 0 → exec (.lret y) s = .next (raiseSync s ⟨1, false, natW (Instr.lret y).word⟩ x.pc)) ∧
      (x.ldepth ≠ 0 → exec (.lret y) s = next (onCur s fun x => { x with
        lmask := x.masks.headD (BitVec.allOnes 64)
        masks := x.masks.tail
        ldepth := x.ldepth - 1
        lframe := tagPut x.lframe x.ldepth 0
        m := retag (fun _ => true) x.ldepth 0 x.m }))) ∧
    ∀ (saved : W64) (n j : Nat), 0 < p → n ≤ 64 → j < 64 → (liftMask saved p n).getLsbD j = (decide (j < n) && saved.getLsbD (j % p))) ∧
  (∀ (rows : BitVec 4) (clo : BitVec 5) (chi : BitVec 1) (d a : BitVec 4) (cd lvl t : BitVec 5) (y : BitVec 3),
    let drains := fun s => dispatches s = false
    completes (.vshape rows clo chi t y) (1 + y.toNat) [] [] true (fun s => ¬drains s)
      (fun s => onCur s fun x => { x with shape := chi ++ clo ++ rows }) ∧
    (legal (.lidx d lvl t y) = true → ∀ s, issues s [] [] true → ¬drains s →
      let x := curCtx s
      let w := typeBits t.toNat
      let n := shapeRows x * shapeCols x
      let u := if lvl = 0 then x.lframe else tagPut tagNone lvl.toNat (tagAt x.lframe lvl.toNat)
      let z := bodyState [] true s
      (lvl.toNat ≤ x.ldepth → n * w ≤ 4096 → ∃ q, writeCopies d u (fun m old => putEls old w (List.replicate n (m % 2 ^ w))) z = .ok () q ∧
        ∃ r, markWings (activeOver x u) false q = .ok () r ∧ exec (.lidx d lvl t y) s = .next (retiredAt (1 + y.toNat) [] (instrPc x + 4) r)) ∧
      (x.ldepth < lvl.toNat ∨ 4096 < n * w → exec (.lidx d lvl t y) s = .next (raiseSync z ⟨1, false, natW (Instr.lidx d lvl t y).word⟩ x.pc))) ∧
    (∀ s i, (i = .lany cd a t y ∨ i = .lall cd a t y) → legal i = true → issues s [cd] [cd] true → ¬drains s →
      let x := curCtx s
      let w := typeBits t.toNat
      let n := shapeRows x * shapeCols x
      let v := vecGet x.v a.toNat vregReset
      let active := fun j => j < tagCount x.lframe ∧ (if x.ldepth = 0 then j = 0 else x.lmask.getLsbD j = true)
      let holds := fun j => (copyOf v x.lframe j).toNat % 2 ^ (w * n) ≠ 0
      n * w ≤ 4096 → badLevel x.lframe v.tag = none → tagCount x.lframe ≤ 64 →
      ∃ r mask, exec i s = .next r ∧ (curCtx r).pc = instrPc x + 4 ∧ settled (curCtx r) cd = (if cd = 0 then regNull else dataReg mask) ∧
        ∀ j, j < 64 → (mask.getLsbD j = true ↔ active j ∧ holds j ∧ (i = .lall cd a t y → ∀ k, active k → holds k))))

/-- R199, R200, R398: what `overVec` does for a function of the elements alone: it runs once per active combination of the union tag, every source
as it stood before the instruction although the destination may be one; the destination takes the union tag, its other copies the value it held
for their projection; no other vector register, no general register and no RNGS changes. That the bits above the shaped elements stay is the
model's reading (log 39). -/
def Obligations.InstancesReadBeforeTheyWrite : Prop :=
  ∀ (d : BitVec 4) (srcs : List (BitVec 4)) (g : List Nat → Nat → Nat) (s t : State),
    overVec d srcs (fun c old r => (g c old, r)) s = .ok () t →
    let x := curCtx s
    let u := tagUnion (tagsOf x srcs)
    let at_ := fun (r : BitVec 4) m => copyOf (vecGet x.v r.toNat vregReset) u m
    (vecGet (curCtx t).v d.toNat vregReset).tag = u ∧
    (∀ m, m < tagCount u → copyOf (vecGet (curCtx t).v d.toNat vregReset) u m =
      if m ∈ activeOver x u then BitVec.ofNat 4096 (g (srcs.map fun r => (at_ r m).toNat) (at_ d m).toNat) else at_ d m) ∧
    (∀ r : BitVec 4, r ≠ d → vecGet (curCtx t).v r.toNat vregReset = vecGet x.v r.toNat vregReset) ∧
    (curCtx t).rngs = x.rngs ∧ (curCtx t).c = x.c ∧ (curCtx t).pending = x.pending ∧ memoryKept s t

/-- R65, R90, R93, R399, R400, R407, R409: the arithmetic vector instructions. A floating result is rounded once by M[1:0], SR stepping RNGS; an
integer result wraps, or is clamped under M[2]. R401, R403, R410, R414, R416: the vector instructions on bits: logic, moves, shifts (a count of
the width or more gives 0, the clamp, or the sign), the choice by the prior content of vd, whose unused container bits are written as 0 (R82), and the
comparison whose mask is all ones or all zeros.
That the bits above the shaped elements stay is the model's reading (log 39). -/
def Obligations.VectorElementOperations : Prop :=
  (∀ (d a b : BitVec 4) (m0 m1 m2 : BitVec 1) (t : BitVec 5) (y : BitVec 3),
    let w := typeBits t.toNat
    let mode := rndOf (2 * m1.toNat + m0.toNat)
    let V := elemVal t.toNat
    let I := intVal t.toNat
    let round := fun (f : FVal) (i : Int) (r : BitVec 32) =>
      if isFloat t.toNat then fenc (fmtOf t.toNat) mode r f else (intBits t.toNat (if m2 = 1 then clampInt t.toNat i else i), r)
    let two := fun (g : Nat → Nat → BitVec 32 → Nat × BitVec 32) (_ : Ctx) (n : Nat) (c : List Nat) (old : Nat) (r : BitVec 32) =>
      let p := mapRng (fun e => g e.1 e.2) ((getEls (c.getD 0 0) w n).zip (getEls (c.getD 1 0) w n)) r
      (putEls old w p.1, p.2)
    let three := fun (g : Nat → Nat → Nat → BitVec 32 → Nat × BitVec 32) (_ : Ctx) (n : Nat) (c : List Nat) (old : Nat) (r : BitVec 32) =>
      let p := mapRng (fun e => g e.1 e.2.1 e.2.2) ((getEls (c.getD 0 0) w n).zip ((getEls (c.getD 1 0) w n).zip (getEls (c.getD 2 0) w n))) r
      (putEls old w p.1, p.2)
    let any := fun (_ _ : Nat) => True
    vecRuns (.vadd d m0 a m1 b m2 t y) y d [a, b] w any (two fun p q => round (fadd (V p) (V q)) (I p + I q)) ∧
    vecRuns (.vsub d m0 a m1 b m2 t y) y d [a, b] w any (two fun p q => round (fadd (V p) (fminus (V q))) (I p - I q)) ∧
    vecRuns (.vmul d m0 a m1 b m2 t y) y d [a, b] w any (two fun p q => round (fmul (V p) (V q)) (I p * I q)) ∧
    vecRuns (.vfma d m0 a m1 b m2 t y) y d [d, a, b] w any (three fun o p q => round (fadd (fmul (V p) (V q)) (V o)) (I p * I q + I o)) ∧
    vecRuns (.vmin d a b t y) y d [a, b] w any (two fun p q r =>
      (if isFloat t.toNat then (encType t.toNat .rne 0 (fminV (V p) (V q))).1 else if I p ≤ I q then p else q, r)) ∧
    vecRuns (.vmax d a b t y) y d [a, b] w any (two fun p q r =>
      (if isFloat t.toNat then (encType t.toNat .rne 0 (fmaxV (V p) (V q))).1 else if I q ≤ I p then p else q, r)) ∧
    vecRuns (.vabs d a m2 t y) y d [a] w any (fun _ n c old r =>
      (putEls old w ((getEls (c.getD 0 0) w n).map fun p =>
        if isFloat t.toNat then (encType t.toNat .rne 0 (fmag (V p))).1
        else intBits t.toNat (if m2 = 1 then clampInt t.toNat (I p).natAbs else (I p).natAbs)), r))) ∧
  (∀ (d a b : BitVec 4) (m0 m1 m2 : BitVec 1) (t : BitVec 5) (y : BitVec 3),
    let w := typeBits t.toNat
    let I := intVal t.toNat
    let V := elemVal t.toNat
    let two := fun (g : Nat → Nat → Nat) (_ : Ctx) (n : Nat) (c : List Nat) (old : Nat) (r : BitVec 32) =>
      (putEls old w (((getEls (c.getD 0 0) w n).zip (getEls (c.getD 1 0) w n)).map fun e => g e.1 e.2), r)
    let any := fun (_ _ : Nat) => True
    vecRuns (.vand d a b t y) y d [a, b] w any (two fun p q => p &&& q) ∧
    vecRuns (.vor d a b t y) y d [a, b] w any (two fun p q => p ||| q) ∧
    vecRuns (.vxor d a b t y) y d [a, b] w any (two fun p q => p ^^^ q) ∧
    vecRuns (.vmov d a t y) y d [a] w any (fun _ n c old r => (putEls old w (getEls (c.getD 0 0) w n), r)) ∧
    vecRuns (.vshl d a b m2 t y) y d [a, b] w any (two fun p q =>
      if q < w then intBits t.toNat (if m2 = 1 then clampInt t.toNat (I p * 2 ^ q) else I p * 2 ^ q)
      else if m2 = 1 then intBits t.toNat (clampInt t.toNat (I p * 2 ^ w)) else 0) ∧
    vecRuns (.vshr d a b t y) y d [a, b] w any (two fun p q => intBits t.toNat (I p / 2 ^ min q w)) ∧
    vecRuns (.vsel d a b t y) y d [d, a, b] w any (fun _ n c old r =>
      (putEls old w (((getEls (c.getD 0 0) w n).zip ((getEls (c.getD 1 0) w n).zip (getEls (c.getD 2 0) w n))).map fun e =>
        let v := if e.1 ≠ 0 then e.2.1 else e.2.2
        if t = 11 then v / 2 ^ 13 * 2 ^ 13 else v), r)) ∧
    vecRuns (.vcmp d m0 a m1 b m2 t y) y d [a, b] w any (two fun p q =>
      let k := m2.toNat * 4 + m1.toNat * 2 + m0.toNat
      let holds := if V p = .nan ∨ V q = .nan then k = 1 else
        (k = 0 ∧ feq (V p) (V q) = true) ∨ (k = 1 ∧ feq (V p) (V q) = false) ∨ (k = 2 ∧ flt (V p) (V q) = true) ∨
        (k = 3 ∧ flt (V p) (V q) = false) ∨ (k = 4 ∧ flt (V q) (V p) = false) ∨ (k = 5 ∧ flt (V q) (V p) = true)
      if holds then 2 ^ w - 1 else 0))

/-- R404 to R406, R411: the special functions, VCVT, VDQ and VQNT. Each result is rounded once by M[1:0]; equal types of VCVT return the input but for
a NaN; VDQ and VQNT need whole blocks of 32 elements. VQNT writes the codes to vd and the scales to vb. R241, R402, R412, R413, R417: VBCST executes
once and leaves vd untagged; VTRN writes the transpose, of at most 16 columns; VRED adds the elements in ascending flat position (R91, R398), each to
its group, and leaves the other elements; VSCAN restarts at each row and at each element of vb with a set bit. The form of a NaN result of VRED, VSCAN
and VCVT is the model's reading (log 38). -/
def Obligations.VectorFunctionsAndReductions : Prop :=
  (∀ (d a b : BitVec 4) (m0 m1 m2 : BitVec 1) (t ts : BitVec 5) (y : BitVec 3),
    let mode := rndOf (2 * m1.toNat + m0.toNat)
    let one := fun (ws wd : Nat) (g : Nat → BitVec 32 → Nat × BitVec 32) (_ : Ctx) (n : Nat) (c : List Nat) (old : Nat) (r : BitVec 32) =>
      let p := mapRng g (getEls (c.getD 0 0) ws n) r
      (putEls old wd p.1, p.2)
    let w := typeBits t.toNat
    let V := elemVal t.toNat
    let any := fun (_ _ : Nat) => True
    let fn := fun (f : FVal → FVal) => one w w fun c r => fenc (fmtOf t.toNat) mode r (f (V c))
    let wide := if m2 = 1 then 10 else 12
    vecRuns (.vsqrt d m0 a m1 t y) y d [a] w any (fn fsqrt) ∧ vecRuns (.vrsq d m0 a m1 t y) y d [a] w any (fn frsq) ∧
    vecRuns (.vexp2 d m0 a m1 t y) y d [a] w any (fn fexp2) ∧ vecRuns (.vrcp d m0 a m1 t y) y d [a] w any (fn frcp) ∧
    vecRuns (.vcvt d m0 a m1 ts t y) y d [a] (max (typeBits ts.toNat) w) any (one (typeBits ts.toNat) w fun c r =>
      let v := elemVal ts.toNat c
      let p := encType t.toNat mode r v
      if ts = t ∧ v ≠ .nan then (if ts = 11 then c / 2 ^ 13 * 2 ^ 13 else c, p.2) else p) ∧
    vecRuns (.vdq d m0 a m1 b m2 t y) y d [a, b] (typeBits wide) (fun rows cols => rows * cols % 32 = 0) (fun _ n c old r =>
      let byte := fun k => c.getD 1 0 / 2 ^ (8 * k) % 256
      let p := mapRng (fun l r => fenc (fmtOf wide) mode r (blockVal t.toNat ((getEls (c.getD 0 0) w n).getD l 0) (byte (l / 32)) (byte (32 + l / 32))))
        (List.range n) r
      (putEls old (typeBits wide) p.1, p.2)) ∧
    (legal (.vqnt d m0 a m1 b m2 t y) = true → ∀ s, issues s [] [] true → dispatches s = true →
      let x := curCtx s
      let n := shapeRows x * shapeCols x
      let fits := n * typeBits wide ≤ 4096 ∧ n % 32 = 0
      let z := bodyState [] true s
      let u := (vecGet x.v a.toNat vregReset).tag
      (fits → badLevel x.lframe u = none → ∃ q, markWings (activeOver x u) false z = .ok () q ∧
        exec (.vqnt d m0 a m1 b m2 t y) s = .next (retiredAt (1 + y.toNat) [] (instrPc x + 4) (onCur q fun x =>
          (activeOver x u).foldl (quantStep t.toNat wide mode n d a b u)
            { x with v := vecModify (vecModify x.v d.toNat fun v => growReg v u) b.toNat fun v => growReg v u }))) ∧
      (¬fits → exec (.vqnt d m0 a m1 b m2 t y) s = .next (raiseSync z ⟨1, false, natW (Instr.vqnt d m0 a m1 b m2 t y).word⟩ x.pc)))) ∧
  (∀ (d a b : BitVec 4) (ca : BitVec 5) (m0 m1 m2 : BitVec 1) (op : BitVec 3) (axis : BitVec 2) (t : BitVec 5) (y : BitVec 3),
    let w := typeBits t.toNat
    let mode := rndOf (2 * m1.toNat + m0.toNat)
    let els := fun (n : Nat) (c : List Nat) k => getEls (c.getD k 0) w n
    let any := fun (_ _ : Nat) => True
    let add := fun (sat : Bool) (r : BitVec 32) (p q : Nat) => if isFloat t.toNat then fenc (fmtOf t.toNat) mode r (fadd (elemVal t.toNat p) (elemVal t.toNat q))
      else (intBits t.toNat (if sat then clampInt t.toNat (intVal t.toNat p + intVal t.toNat q) else intVal t.toNat p + intVal t.toNat q), r)
    vecRuns (.vtrn d a t y) y d [a] w (fun _ cols => cols ≤ 16) (fun x n c old r =>
      (putEls old w ((List.range n).map fun k => 
        let v := (els n c 0).getD (k % shapeRows x * shapeCols x + k / shapeRows x) 0
        if t = 11 then v / 2 ^ 13 * 2 ^ 13 else v), r)) ∧
    vecRuns (.vred d m0 a m1 op axis t y) y d [a] w any (fun x n c old r =>
      let p := redScan op.toNat t.toNat axis.toNat (shapeCols x) mode (els n c 0) 0 [] r
      (putEls old w (p.1.foldl (fun l g => listSet l g.1 g.2) (getEls old w n)), p.2)) ∧
    (∀ cols e rest k acc r, redScan op.toNat t.toNat axis.toNat cols mode (e :: rest) k acc r =
      let g := if axis = 0 then k / cols * cols else if axis = 1 then k % cols else 0
      let h := match mapGet acc g with
        | none => (accFirst t.toNat e, r)
        | some a => redElem op.toNat t.toNat mode a e r
      redScan op.toNat t.toNat axis.toNat cols mode rest (k + 1) (mapSet acc g h.1) h.2) ∧
    (∀ acc e r, redElem op.toNat t.toNat mode acc e r =
      if op = 0 then add false r acc e
      else if op = 1 then (if isFloat t.toNat then (encType t.toNat .rne 0 (fminV (elemVal t.toNat acc) (elemVal t.toNat e))).1
        else if intVal t.toNat acc ≤ intVal t.toNat e then acc else e, r)
      else if op = 2 then (if isFloat t.toNat then (encType t.toNat .rne 0 (fmaxV (elemVal t.toNat acc) (elemVal t.toNat e))).1
        else if intVal t.toNat e ≤ intVal t.toNat acc then acc else e, r)
      else if op = 3 then (acc &&& e, r) else if op = 4 then (acc ||| e, r) else (acc ^^^ e, r)) ∧
    vecRuns (.vscan d m0 a m1 b m2 t y) y d [a, b] w any (fun x n c old r =>
      let p := scanFrom t.toNat (shapeCols x) mode (m2 = 1) ((els n c 0).zip (els n c 1)) 0 0 r
      (putEls old w p.1, p.2)) ∧
    (∀ cols p q rest k acc r, scanFrom t.toNat cols mode (m2 = 1) ((p, q) :: rest) k acc r =
      let h := if k % cols = 0 ∨ q ≠ 0 then (accFirst t.toNat p, r) else add (m2 = 1) r acc p
      let z := scanFrom t.toNat cols mode (m2 = 1) rest (k + 1) h.1 h.2
      (h.1 :: z.1, z.2)) ∧
    (legal (.vbcst d ca t y) = true → ∀ s, issues s [ca] [] true → dispatches s = true →
      let z := bodyState [ca] true s
      let n := shapeRows (curCtx s) * shapeCols (curCtx s)
      let v := (xval (curCtx z) ca).toNat % 2 ^ w
      (n * w ≤ 4096 → ∃ t', exec (.vbcst d ca t y) s = .next t' ∧ (curCtx t').pc = instrPc (curCtx s) + 4 ∧
        (vecGet (curCtx t').v d.toNat vregReset).tag = tagNone ∧
        copyOf (vecGet (curCtx t').v d.toNat vregReset) tagNone 0 = BitVec.ofNat 4096 (putEls
          (copyOf (vecGet (curCtx s).v d.toNat vregReset) tagNone 0).toNat w (List.replicate n (if t = 11 then v / 2 ^ 13 * 2 ^ 13 else v))) ∧
        (∀ r : BitVec 4, r ≠ d → vecGet (curCtx t').v r.toNat vregReset = vecGet (curCtx s).v r.toNat vregReset) ∧ memoryKept s t') ∧
      (4096 < n * w → exec (.vbcst d ca t y) s = .next (raiseSync z ⟨1, false, natW (Instr.vbcst d ca t y).word⟩ (curCtx s).pc))))

/-! ### Vector memory -/

/-- R207, R351: where a map places its elements. A byte-aligned element of one to four dimensions lies at base + nT·LSTR + Σ idx·STR; a packed one
at its code in its block of 32, of 18, 24 or 16 bytes. R199, R240, R408: VGATH reads, for each active combination of the tags of va and the map,
the element at base + nT·LSTR + idx·STR0 for each index of va; every element is checked before one is read, and no copy is written unless all pass; an
index outside the extent raises CAPB with that address. A map that is not of one dimension and type T raises ILLOP. -/
def Obligations.MapsPlaceAndGather : Prop :=
  (∀ (q : MapReg) (n cols i j : Nat), j < cols → 1 ≤ mapNdim q → mapNdim q ≤ 4 →
    let base : Int := (q.img.toNat % 2 ^ 64 : Nat) + n * mapLstr q
    let f := mapFmt q
    let l := i * cols + j
    let e := fun k => mapExt q k
    let idx := if mapNdim q = 1 then [l] else if mapNdim q = 2 then [j, i] else if mapNdim q = 3 then [l % e 0, l / e 0 % e 1, l / e 0 / e 1]
      else [l % e 0, l / e 0 % e 1, l / e 0 / e 1 % e 2, l / e 0 / e 1 / e 2]
    let sum : Int := ((List.range (mapNdim q)).map fun k => if k = 0 ∧ (f ≤ 2 ∨ f = 5 ∨ f = 6) then (0 : Int) else idx.getD k 0 * mapStr q k).sum
    let block := if f = 0 then 18 else if f ≤ 2 then 24 else 16
    let bit := idx.headD 0 % 32 * typeBits f
    (∀ k, k < mapNdim q → 0 < e k) → elemIdx q cols i j = idx ∧
      elemAt q n idx = if f ≤ 2 ∨ f = 5 ∨ f = 6
        then (BitVec.ofInt 64 (base + sum + (idx.headD 0 / 32 * block + bit / 8)), bit % 8, (bit % 8 + typeBits f + 7) / 8)
        else (BitVec.ofInt 64 (base + sum), 0, typeBits f / 8)) ∧
  (∀ (d a m : BitVec 4) (t : BitVec 5) (y : BitVec 3) (s : State), issues s [] [] true → dispatches s = true →
    let i := Instr.vgath d a m t y
    let x := curCtx s
    let z := bodyState [] true s
    let q := vecGet x.m m.toNat mapRegReset
    let w := typeBits t.toNat
    let n := shapeRows x * shapeCols x
    let form := mapNdim q = 1 ∧ mapFmt q = t.toNat ∧ mapExt q 0 ≠ 0 ∧ n * max 32 w ≤ 4096
    let v := vecGet x.v a.toNat vregReset
    let u := tagUnion [v.tag, q.lift]
    let start := if x.resuming = 0 then 0 else x.resume
    let todo := (activeOver x u).filter fun k => start ≤ k
    let index := fun k l => ((BitVec.ofNat 32 (getEl (copyOf v u k).toNat 32 l)).toInt : Int)
    let at_ := fun k l => BitVec.ofInt 64 ((q.img.toNat % 2 ^ 64 : Nat) + crossIdx u q.lift k * mapLstr q + index k l * mapStr q 0)
    let in_ := fun k l => 0 ≤ index k l ∧ index k l < mapExt q 0
    let near := fun r => r = z ∨ ∃ v p, r = onCur z fun x => { x with v := v, waiting := p, gathering := true }
    let passes := fun k l p => ∀ r, near r → checkElem q m.toNat accLoad (elemAccesses t.toNat (at_ k l, 0, w / 8)) r = .ok p r
    let reads := fun k l e => ∃ p b, passes k l p ∧ (∀ r, near r → readPlaces (w / 8) false p r = .ok b r) ∧ e = ofBytes b
    let clean := fun e : Nat => if t = 11 then e / 2 ^ 13 * 2 ^ 13 else e
    let copy := fun (z : State) k => copyOf (vecGet (curCtx z).v d.toNat vregReset) u k
    let gathered := fun (z : State) (els : Nat → Nat → Nat) (did : List Nat) =>
      (∀ k, k < tagCount u → copy z k = if k ∈ did then BitVec.ofNat 4096 (putEls (copy s k).toNat w ((List.range n).map fun l => clean (els k l))) else copy s k) ∧
      (∀ r : BitVec 4, r ≠ d → vecGet (curCtx z).v r.toNat vregReset = vecGet x.v r.toNat vregReset) ∧ memoryKept s z
    legal i = true → x.waiting = none → x.pause = none →
    (form → tagFault x.lframe [v.tag, q.lift] = none → ∀ els : Nat → Nat → Nat,
      ((∀ k ∈ todo, ∀ l, l < n → in_ k l ∧ reads k l (els k l)) → ∃ r, exec i s = .next r ∧ (curCtx r).pc = instrPc x + 4 ∧
        (vecGet (curCtx r).v d.toNat vregReset).tag = u ∧ gathered r els todo) ∧
      (∀ before k after l, todo = before ++ k :: after → (∀ j ∈ before, ∀ l, l < n → in_ j l ∧ reads j l (els j l)) →
        l < n → (∀ e, e < l → in_ k e ∧ ∃ p, passes k e p) → ¬in_ k l →
        ∃ r, exec i s = .next (raiseSync (onCur r fun x => { x with resume := k }) ⟨5, false, at_ k l⟩ x.pc) ∧ r.cur = s.cur ∧ gathered r els before)) ∧
    (¬form → exec i s = .next (raiseSync z ⟨1, false, natW i.word⟩ x.pc)))

/-- R55, R56, R122, R124, R205, R207, R350: LDV through a map. It reads, in ascending order, the elements of each active instance under the map's tag that
has not completed, packed ones that share bytes together, and writes them over the shaped elements of that instance's copy; vd takes the map's tag. A map or shape that R56, R55 or R207
refuses raises ILLOP before any access; then a tag that does not agree raises AXOVF. When an element faults the earlier instances are complete, and
execution will resume at the faulting one. The last clause says what elements of own cell memory read as. R56, R105, R174, R207, R350: LDV of a map
image loads the 64 bytes at the cursor, their reserved last two as 0 (R5), BASE's tag under LC (with EXP above 39 no tag, with a tag its reserved bits 0:
R5, R51, R52), and leaves the map untagged. LDV of a stream moves the element at the read index over the shaped bytes of an untagged vd and advances the
index, shown where no store of the context waits in the buffer; it waits while none has arrived; an unbound stream raises ILLOP. -/
def Obligations.VectorAndImageLoads : Prop :=
  (∀ (d m : BitVec 4) (y : BitVec 3) (s : State),
    let i := Instr.ldv d m y
    let x := curCtx s
    let q := vecGet x.m m.toNat mapRegReset
    let f := mapFmt q
    let w := typeBits f
    let n := shapeRows x * shapeCols x
    let idx := fun k => elemIdx q (shapeCols x) (k / shapeCols x) (k % shapeCols x)
    let form := 1 ≤ mapNdim q ∧ mapNdim q ≤ 4 ∧ f ≤ 13 ∧ (∀ k, k < mapNdim q → mapExt q k ≠ 0) ∧ n * w ≤ 4096 ∧
      ∀ l, l < n → ∀ k, k < (idx l).length → (idx l).getD k 0 < mapExt q k
    let start := if x.resuming = 0 then 0 else x.resume
    let todo := (activeOver x q.lift).filter fun k => start ≤ k
    let near := fun (z : State) => z = s ∨ ∃ v p, z = onCur s fun x => { x with v := v, waiting := p }
    let groups := fun k => tieGroups f ((List.range n).map fun l => elemAt q k (idx l))
    let read := fun g v => ∀ z, near z → readGroup q m.toNat g z = .ok v z
    let reads := fun k (e : List Nat) => ∃ vs : List (List Nat), vs.flatMap id = e ∧ vs.length = (groups k).length ∧
      ∀ (j : Nat) g v, (groups k)[j]? = some g → vs[j]? = some v → read g v
    let faults := fun k e => ∃ before g after, groups k = before ++ g :: after ∧ (∀ h ∈ before, ∃ v, read h v) ∧
      ∀ z, near z → readGroup q m.toNat g z = .error (.trap e) z
    let clean := fun e : Nat => if f = 11 then e / 2 ^ 13 * 2 ^ 13 else e
    let copy := fun (z : State) k => copyOf (vecGet (curCtx z).v d.toNat vregReset) q.lift k
    let loaded := fun (z : State) (els : Nat → List Nat) (did : List Nat) =>
      (∀ k, k < tagCount q.lift → copy z k = if k ∈ did then BitVec.ofNat 4096 (putEls (copy s k).toNat w ((els k).map clean)) else copy s k) ∧
      (∀ r : BitVec 4, r ≠ d → vecGet (curCtx z).v r.toNat vregReset = vecGet x.v r.toNat vregReset) ∧ memoryKept s z
    legal i = true → issues s [] [] false → x.waiting = none → x.pause = none →
    (form → badLevel x.lframe q.lift = none → ∀ els,
      ((∀ k ∈ todo, reads k (els k)) → ∃ t, exec i s = .next t ∧ (curCtx t).pc = instrPc x + 4 ∧
        (vecGet (curCtx t).v d.toNat vregReset).tag = q.lift ∧ loaded t els todo) ∧
      (∀ before k after e, todo = before ++ k :: after → (∀ j ∈ before, reads j (els j)) → faults k e →
        ∃ z, exec i s = .next (raiseSync (onCur z fun x => { x with resume := k }) e x.pc) ∧ z.cur = s.cur ∧ loaded z els before)) ∧
    (¬form → exec i s = .next (raiseSync s ⟨1, false, natW i.word⟩ x.pc)) ∧
    (form → ∀ l, badLevel x.lframe q.lift = some l →
      exec i s = .next (raiseSync s ⟨9, false, natW (frameWord (tagPut x.lframe l (tagAt q.lift l)))⟩ x.pc)) ∧
    (∀ (g : List (W64 × Nat × Nat)) (o len : Nat), direct s → s.cur.core < 1024 → ownStores s = [] →
      let first := (g.headD (0, 0, 0)).1
      let step := if isPacked f then 1 else w / 8
      (g.flatMap (elemAccesses f)).eraseDups = ((List.range len).map fun k => (first + BitVec.ofNat 64 (k * step), step)) → len * step < 4096 →
      (∀ k, k < len → access (mapBase q) m.toNat (first + BitVec.ofNat 64 (k * step)) step accLoad s =
        .ok (.cell (coreNum s s.cur.core) (o + k * step), true) s) →
      readGroup q m.toNat g s = .ok (g.map fun e => ofBytes ((memReads (curCore s).cell o (len * step)).drop (e.1 - first).toNat) / 2 ^ e.2.1 % 2 ^ w) s)) ∧
  (∀ (c : BitVec 5) (d m : BitVec 4) (n : BitVec 3) (t : BitVec 5) (y : BitVec 3),
    (legal (.ldvImg c m y) = true → ∀ s p b z l u, issues s [c] [] false →
      access (readReg (curCtx s) c) c.toNat (xval (curCtx s) c) 64 accLoad s = .ok (p, b) z → readImage p 4 0 z = .ok l u →
      ∀ g v, loadTagShared p u = .ok g v →
      let t := (g && (readReg (curCtx s) c).bits.getLsbD 124 && (isCellPlace p || b)) && decide (ofBytes l / 2 ^ 114 % 64 ≤ 39)
      let img := if t then BitVec.ofNat 512 (ofBytes l % 2 ^ 496) &&& ~~~(3#512 <<< 120) else BitVec.ofNat 512 (ofBytes l % 2 ^ 496)
      exec (.ldvImg c m y) s = .next (retiredAt (1 + y.toNat) [] (instrPc (curCtx s) + 4) (onCur v fun x => { x with
        m := vecSet x.m m.toNat ⟨img, t, tagNone⟩ }))) ∧
    (∀ s o, direct s → s.cur.core < 1024 → ownStores s = [] →
      readImage (.cell (coreNum s s.cur.core) o) 4 0 s = .ok (memReads (curCore s).cell o 64) s ∧
      loadTagShared (.cell (coreNum s s.cur.core) o) s = .ok ((curCore s).tags.contains (o / 16)) s) ∧
    (legal (.ldvStream d n t y) = true → ∀ s, issues s [] [] false → direct s → unpaired s →
      let i := Instr.ldvStream d n t y
      let x := curCtx s
      let bound := fun (z : State) k => vecGet (curCtx z).s k none
      let bytes := (shapeRows x * shapeCols x * typeBits t.toNat + 7) / 8
      let reg := fun (z : State) (r : BitVec 4) => vecGet (curCtx z).v r.toNat vregReset
      (shapeRows x * shapeCols x * typeBits t.toNat ≤ 4096 → ∀ st, bound s n.toNat = some st →
        (st.rd < st.wr → ownStores s = [] → s.cur.core < 1024 → ∃ z, exec i s = .next z ∧ (curCtx z).pc = instrPc x + 4 ∧ memoryKept s z ∧
          bound z n.toNat = some { st with rd := st.rd + 1 } ∧ (∀ k, k ≠ n.toNat → bound z k = bound s k) ∧
          (reg z d).tag = tagNone ∧ copyOf (reg z d) tagNone 0 = BitVec.ofNat 4096 (putEls (copyOf (reg s d) tagNone 0).toNat 8
            ((memReads (curCore s).cell (st.base + st.rd * 2 ^ st.elog % st.len) (min (2 ^ st.elog) bytes)).map BitVec.toNat)) ∧
          ∀ r : BitVec 4, r ≠ d → reg z r = reg s r) ∧
        (st.wr ≤ st.rd → exec i s = .next (onCur s (stallAt i)))) ∧
      (4096 < shapeRows x * shapeCols x * typeBits t.toNat ∨ bound s n.toNat = none →
        exec i s = .next (raiseSync s ⟨1, false, natW i.word⟩ x.pc))))

/-- R122, R127, R205, R207, R388: STV through a map checks all elements of an instance and then puts one store for each, with its bytes (of a
packed format, the bits of its own code in each byte) into the store buffer, in ascending instance and (i, j). `places` holds what the checks
answered. STV of an image puts BASE with its tag and six doublewords there; a tagged map raises ILLOP. No byte of memory changes before the
entries leave. That the stores of the earlier instances stay is the model's reading (log 32). -/
def Obligations.VectorStores : Prop :=
  ∀ (d m : BitVec 4) (c : BitVec 5) (y : BitVec 3) (s : State), direct s → unpaired s → (curCore s).tail = none → (curCtx s).waiting = none →
    let x := curCtx s
    let q := vecGet x.m m.toNat mapRegReset
    let f := mapFmt q
    let w := typeBits f
    let n := shapeRows x * shapeCols x
    let idx := fun k => elemIdx q (shapeCols x) (k / shapeCols x) (k % shapeCols x)
    let form := 1 ≤ mapNdim q ∧ mapNdim q ≤ 4 ∧ f ≤ 13 ∧ (∀ k, k < mapNdim q → mapExt q k ≠ 0) ∧ n * w ≤ 4096 ∧
      ∀ l, l < n → ∀ k, k < (idx l).length → (idx l).getD k 0 < mapExt q k
    let v := vecGet x.v d.toNat vregReset
    let u := tagUnion [v.tag, q.lift]
    let start := if x.resuming = 0 then 0 else x.resume
    let todo := (activeOver x u).filter fun k => start ≤ k
    let elem := fun k l => elemAt q (crossIdx u q.lift k) (idx l)
    let enters := fun (i : Instr) (l : List BufKind) => ∃ t, exec i s = .next t ∧ (curCtx t).pc = instrPc x + 4 ∧
      (curCore t).buf = (curCore s).buf ++ l.map (fun b => ⟨senderOf s s.cur, b⟩) ∧ (curCtx t).v = x.v ∧ (curCtx t).m = x.m ∧ memoryKept s t
    let room := fun l : List BufKind => (curCore s).buf.length + l.length ≤ 32 ∧ ∀ b ∈ l, redBefore s (senderOf s s.cur) b = false
    (legal (.stv d m y) = true → issues s [] [] false →
      (form → tagFault x.lframe [v.tag, q.lift] = none → ∀ places : Nat → Nat → List (W64 × Place),
        (∀ k ∈ todo, ∀ l, l < n → checkElem q m.toNat (accStore false) (elemAccesses f (elem k l)) s = .ok (places k l) s) →
        let el := fun k l => if f = 11 then getEl (copyOf v u k).toNat w l / 2 ^ 13 * 2 ^ 13 else getEl (copyOf v u k).toNat w l
        let stores := fun k l => if f ≤ 2 ∨ f = 5 ∨ f = 6 then elemStores f (el k l) (elem k l) (places k l)
          else (places k l).map fun a => (a.1, .store a.2 (toBytes (el k l) (w / 8)) none none)
        let all := todo.flatMap fun k => ((List.range n).flatMap (stores k)).foldl (addStore 0) []
        room (all.map (·.2)) → enters (.stv d m y) (all.map (·.2))) ∧
      (¬form → exec (.stv d m y) s = .next (raiseSync s ⟨1, false, natW (Instr.stv d m y).word⟩ x.pc))) ∧
    (legal (.stvImg c m y) = true → issues s [c] [] false →
      (q.lift = tagNone → ∀ p b, access (readReg x c) c.toNat (xval x c) 64 (accStore q.capTag) s = .ok (p, b) s →
        let part := fun lo len => toBytes (q.img.toNat / 2 ^ lo % 2 ^ (8 * len)) len
        let all := BufKind.store p (part 0 16) (some q.capTag) none ::
          (List.range 6).map fun k => .store (placePlus p (16 + 8 * k)) (part (128 + 64 * k) 8) none none
        room all → enters (.stvImg c m y) all) ∧
      (q.lift ≠ tagNone → exec (.stvImg c m y) s = .next (raiseSync s ⟨1, false, natW (Instr.stvImg c m y).word⟩ x.pc)))

/-! ### Matrix -/

/-- R24, R193 to R195, R356, R357: MLEASE completes once the context holds the lease of every shared wing of its binding, at once where none is
shared; holding them all already it raises ILLOP; otherwise it asks for the first that it does not hold, in ascending site order, and waits. MREL
ends the context's leases and no other. R24, R194: a free matrix lease passes to the first front in rotation, after the one that held it last, of
which a context asks for it and no other context holds a lease; it ends when the 64th matrix instruction issued under it has completed, and at the
idle timeout. The ascending order and the pointer set at the grant are the model's reading (log 53). -/
def Obligations.MatrixLeasesAreHeld : Prop :=
  (∀ (y : BitVec 3) (s : State), direct s → unpaired s → issues s [] [] true → dispatches s = true →
    let z := bodyState [] true s
    let me := senderOf s s.cur
    let site := siteOf s s.cur.core
    let wants := fun t => t < 1088 ∧ t ∈ members s site ∧ isShared s t = true
    let asked := (curCtx s).waiting = some .mlease
    let lease := fun (z : State) t => (getWing z t).lease
    let alone := ∀ p ∈ s.wings, ∀ l, p.2.lease = some l → l.holder.core = me.core → l.holder = me
    legal (.mlease y) = true → legal (.mrel y) = true →
    ((∀ t, wants t → holdsLease s me t = true) → ((∀ t, ¬wants t) ∨ (asked ∧ alone)) →
      exec (.mlease y) s = .next (retiredAt (1 + y.toNat) [] (instrPc (curCtx s) + 4) (onCur z fun x => { x with waiting := some .mlease }))) ∧
    ((∃ t, wants t) → (∀ t, wants t → holdsLease s me t = true) → ¬asked →
      exec (.mlease y) s = .next (raiseSync z ⟨1, false, natW (Instr.mlease y).word⟩ (curCtx s).pc)) ∧
    (∀ t, wants t → holdsLease s me t = false → (∀ q, q < t → wants q → holdsLease s me q = true) →
      alone → ∃ u, exec (.mlease y) s = .next u ∧ (curCtx u).pc = (curCtx s).pc ∧ (curCtx u).waiting = some .mlease ∧
        me ∈ (getWing u t).leaseWait ∧ (∀ q, lease u q = lease s q) ∧ memoryKept s u) ∧
    (∃ u, exec (.mrel y) s = .next u ∧ (curCtx u).pc = instrPc (curCtx s) + 4 ∧ memoryKept s u ∧
      ∀ t, { getWing u t with lease := none } = { getWing s t with lease := none } ∧
        lease u t = if holdsLease s me t = true then none else lease s t)) ∧
  (∀ (s : State) (site : Nat),
    let w := getWing s site
    let code := fun f : Sender => frontCode site (siteOf s (f.core % 1024))
    let wait := fun f => (code f + 17 - w.leasePtr) % 9
    let may := fun f : Sender => findSender s f ≠ none ∧ ∀ p ∈ s.wings, ∀ l, p.2.lease = some l → l.holder.core = f.core → l.holder = f
    (∀ before f after, w.lease = none → w.leasePtr < 9 → w.leaseWait = before ++ f :: after → may f → code f < 9 →
      (∀ g ∈ w.leaseWait, may g → code g < 9 → wait f ≤ wait g) → (∀ g ∈ before, may g → code g ≠ code f) →
      ∃ t, exec (.matrixLeaseGrant site) s = .next t ∧ memoryKept s t ∧ t.cores = s.cores ∧ getWing t site = { w with
        lease := some ⟨f, 0⟩
        leasePtr := code f
        leaseWait := w.leaseWait.filter fun g => g != f }) ∧
    (w.lease ≠ none ∨ w.leaseWait = [] → exec (.matrixLeaseGrant site) s = .next s) ∧
    (∀ l c, w.lease = some l → localCore s l.holder.core = some c →
      let busy := (∃ m ∈ (getCore s c).marks, m.site = site ∧ m.isMatrix = true ∧ m.src = l.holder) ∨
        ∃ id, findSender s l.holder = some id ∧ (getCtx s id).doing ≠ none
      (busy → exec (.matrixLeaseCountEnd site) s = .next s ∧ exec (.matrixLeaseIdleTimeout site) s = .next s) ∧
      (l.used < 64 → exec (.matrixLeaseCountEnd site) s = .next s) ∧
      (¬busy → 64 ≤ l.used → ∃ t, exec (.matrixLeaseCountEnd site) s = .next t ∧ getWing t site = { w with lease := none } ∧ t.cores = s.cores ∧ memoryKept s t) ∧
      (¬busy → ∃ t, exec (.matrixLeaseIdleTimeout site) s = .next t ∧ getWing t site = { w with lease := none } ∧ t.cores = s.cores ∧ memoryKept s t)))

/-- R98, R99: what MMAS and MMA make of one accumulator element: in K64 mode the sum of the blocks' products, each rounded to an integer in units
of 2^E, is added and clamped, and NaN blocks count 0 and set NV; in F64 mode the exact sum of products is rounded, added and rounded again, and a
NaN result sets NV. -/
def Obligations.ElementsAccumulate : Prop :=
  ∀ (e : Int) (a b : List FVal) (old : W64) (m : Nat), a.length = 32 * m → b.length = 32 * m → 0 < m →
    let product : List FVal → List FVal → FVal := fun l r =>
      let t : List FVal := (l.zip r).map fun p => fmul p.1 p.2
      t.tail.foldl fadd (t.headD (.fin false 0 0))
    let block : Nat → FVal := fun j => product ((a.drop (32 * j)).take 32) ((b.drop (32 * j)).take 32)
    let units : FVal → FVal := fun v => fscale v (-e)
    let q : Nat → Int := fun j => if block j = .nan then 0 else (toInt .rne 0 (units (block j)) 0).1
    let sum := old.toInt + ((List.range m).map q).sum
    let dbl := fun v => (encType 13 .rne 0 v).1
    let res := fadd (elemVal 13 old.toNat) (elemVal 13 (dbl (product a b)))
    accElem true e a b old = (BitVec.ofInt 64 (max (-(2 ^ 63)) (min sum (2 ^ 63 - 1))), decide (sum < -(2 ^ 63) ∨ 2 ^ 63 - 1 < sum),
      (List.range m).any fun j => decide (block j = .nan)) ∧
    accElem false e a b old = (BitVec.ofNat 64 (dbl res), false, decide (res = .nan))

/-- R186 to R189, R191, R203 to R205, R209, R358, R359: MMA and MMAS. Formats, dimensions, K, shape and ad must fit, else ILLOP; then a shared
wing needs the lease, else LEASE. Once no earlier matrix instruction on its wings is under way and the operands of every active instance are there, each of its tiles takes, element by element, the
accumulation (ElementsAccumulate) of its row of A and of B on what the accumulator held before the instruction, and OV and NV stay set. `va` and
`vb` are the operands' rows; an untagged B is one tile for all instances. Where two active instances fall on one physical tile the last clause
does not say what it holds. What is kept over a stall and for a resumed MMA is the model's reading (log 37). -/
def Obligations.MatrixProducts : Prop :=
  ∀ (d : BitVec 3) (hi : BitVec 2) (ma mb : BitVec 4) (lo : BitVec 7) (y : BitVec 3) (s : State),
    direct s → unpaired s → issues s [] [] true → dispatches s = true → (curCtx s).resuming = 0 → (curCtx s).waiting = none → (curCtx s).doing = none →
    (curCtx s).pause = none →
    let run := fun (i : Instr) (k64 : Bool) (e : Int) (ok : Nat → Prop) =>
      let x := curCtx s
      let z := bodyState [] true s
      let a := vecGet x.m ma.toNat mapRegReset
      let b := vecGet x.m mb.toNat mapRegReset
      let site := siteOf s s.cur.core
      let k := min (kOf (mapFmt a)) (kOf (mapFmt b))
      let m := mapExt a 1
      let n := mapExt b 1
      let fused := decide ((m, n) ≠ (32, 32))
      let form := mapBad a = false ∧ mapBad b = false ∧ mapNdim a = 2 ∧ mapNdim b = 2 ∧ ok (mapFmt a) ∧ ok (mapFmt b) ∧ mapExt a 0 = k ∧ mapExt b 0 = k ∧
        ((m, n) = (32, 32) ∨ (m, n) = (32, 128) ∨ (m, n) = (64, 64) ∨ (m, n) = (128, 32)) ∧ (fused = true → d.toNat < 2)
      let acc := getTile s ((accTiles s site d.toNat 0 false).headD (site, d.toNat))
      let tags := [acc.tag, a.lift, b.lift]
      let u := tagUnion tags
      let l := activeOver x u
      let g := ext1 (wingsOf s site).length
      let baseOf := fun (q : MapReg) c => opBase q (crossIdx u q.lift c)
      let fits := l.length ≤ (if fused then g else 4 * g) ∧ ∀ c ∈ l, baseBad s a (baseOf a c) k = false ∧ baseBad s b (baseOf b c) k = false
      let shared := (l.flatMap fun c => instSites s site c).filter fun t => isShared s t
      let near := fun r : State => r = z ∨ ∃ (c : Option MatWork) (v : Option Wait) (p : List ((Nat × Nat) × Tile)),
        r = p.foldl (fun s q => putTile s q.1 q.2) (onCur z fun x => { x with doing := c, waiting := v })
      let operand := fun (q : MapReg) (reg c : Nat) (v : List (List FVal)) => ∃ p raw,
        (∀ r, near r → checkOperand q reg (baseOf q c) k r = .ok p r ∧ ∀ n, readList (operandPieces (mapFmt q) k p) [] n r = .ok (raw, true) r) ∧
        raw.reverse.flatten.length = ((operandPieces (mapFmt q) k p).map pieceSize).sum ∧
        v = operandVals (mapFmt q) k (mapExt q 1) raw.reverse.flatten
      let tile := fun (z : State) p => getTile z p
      legal i = true →
      (¬form → exec i s = .next (raiseSync z ⟨1, false, natW i.word⟩ x.pc)) ∧
      (form → tagFault x.lframe tags = none → fits →
        (∀ t ∈ shared, holdsLease s (senderOf s s.cur) t = true ∧ ∀ q, (getWing s t).lease = some q → q.used < 64) →
        matrixBusy z (l.flatMap fun c => instSites s site c).eraseDups = false →
        ∀ va vb : Nat → List (List FVal), (∀ c ∈ l, operand a ma.toNat c (va c)) → (∀ c ∈ l, operand b mb.toNat c (vb c)) →
        ∃ t, exec i s = .next t ∧ (curCtx t).pc = instrPc x + 4 ∧ (curCtx t).c = (advance (landRegs x []) (cyclesOf x (1 + y.toNat))).c ∧ memoryKept s t ∧
          ((l.flatMap fun c => accTiles s site d.toNat c fused).Nodup → ∀ c ∈ l, ∀ j, j < (if fused then 4 else 1) →
            let old := tile s ((accTiles s site d.toNat (crossIdx u acc.tag c) fused).getD j (0, 0))
            let new := tile t ((accTiles s site d.toNat c fused).getD j (0, 0))
            let rb := if (m, n) = (64, 64) then j / 2 else if (m, n) = (128, 32) then j else 0
            let cb := if (m, n) = (64, 64) then j % 2 else if (m, n) = (32, 128) then j else 0
            let el := fun r c' => accElem k64 e ((va c).getD (32 * rb + r) []) ((vb c).getD (32 * cb + c') []) (mapGetD old.els (32 * r + c') 0)
            (∀ r c', r < 32 → c' < 32 → mapGetD new.els (32 * r + c') 0 = (el r c').1) ∧
            (new.ov = true ↔ old.ov = true ∨ ∃ r c', r < 32 ∧ c' < 32 ∧ (el r c').2.1 = true) ∧
            (new.nv = true ↔ old.nv = true ∨ ∃ r c', r < 32 ∧ c' < 32 ∧ (el r c').2.2 = true)) ∧
          ∀ p, p.2 < 8 → (∀ c ∈ l, p ∉ accTiles s site d.toNat c fused) → { tile t p with tag := tagNone } = { tile s p with tag := tagNone }) ∧
      (form → tagFault x.lframe tags = none → fits → (∃ t ∈ shared, holdsLease s (senderOf s s.cur) t = false) →
        exec i s = .next (raiseSync z ⟨12, false, 0⟩ x.pc))
    run (.mma d ma mb y) false 0 (fun f => f = 4 ∨ (9 ≤ f ∧ f ≤ 13)) ∧
    run (.mmas d hi ma mb lo y) true (hi ++ lo : BitVec 9).toInt (fun f => f ≤ 3 ∨ (5 ≤ f ∧ f ≤ 8))

/-- R190, R200, R203, R208, R363, R367, R368: MZERO clears member 0's tile; MRDA converts rows of the tiles of its accumulator's active instances
into vd, or their flags, stepping RNGS in ascending instance order; MWRA converts shaped elements into rows of those tiles. A control word that
R208 refuses raises ILLOP. R154, R187, R188, R192, R390, R395: TFETCH checks its map, pins the lines of every active instance's tile for its slot,
and counts on its token until they are resident; a map that it refuses raises ILLOP. TUNPIN empties its slot. No set gains a pin beyond eight. `l`
holds the lines by instance, `u` is the state once the release of the push is done. That MRDA and MWRA over more combinations than a set has tiles
raise ILLOP, the set of a line, the ascending order of an instance's lines, and that a composite's pins stand on the wing of its first half are the
model's choice (logs 8, 52, 81, 82). -/
def Obligations.AccumulatorsAndPins : Prop :=
  (∀ (ad : BitVec 3) (v : BitVec 4) (b t : BitVec 5) (y : BitVec 3) (s : State),
    direct s → unpaired s → dispatches s = true →
    let x := curCtx s
    let site := siteOf s s.cur.core
    let z := bodyState [b] true s
    let w := (xval (curCtx z) b).toNat
    let rows := shapeRows x
    let cols := shapeCols x
    let n := rows * cols
    let f : Nat → Nat → Nat := fun hi lo => w / 2 ^ lo % 2 ^ (hi + 1 - lo)
    let good := n * typeBits t.toNat ≤ 4096 ∧ w < 2 ^ 25 ∧ f 15 12 = 0 ∧ f 7 6 = 0 ∧ f 9 8 ≠ 3 ∧ f 4 0 + rows ≤ 32 ∧ cols ≤ 32
    let e : Int := (BitVec.ofNat 9 (f 24 16)).toInt
    let rnd := rndOf (f 9 8)
    let scaled := fun (e : Int) (v : FVal) => match v with
      | .fin n k q => FVal.fin n k (q + e)
      | u => u
    let place := fun c => (accTiles s site ad.toNat c false).headD (site, ad.toNat)
    let ready := fun (l : List Nat) => l.length ≤ 4 * ext1 (wingsOf s site).length ∧ matrixBusy s (l.flatMap fun c => instSites s site c) = false ∧ ∀ c ∈ l, ∀ t ∈ instSites s site c, isShared s t = true →
      holdsLease s (senderOf s s.cur) t = true ∧ ∀ q, (getWing s t).lease = some q → q.used < 64
    let next := fun (i : Instr) (P : State → Prop) => ∃ r, exec i s = .next r ∧ (curCtx r).pc = instrPc x + 4 ∧ memoryKept s r ∧ P r
    (legal (.mzero ad y) = true → issues s [] [] true → ready [0] → next (.mzero ad y) fun r => getTile r (place 0) = tileReset ∧
      ∀ p, p.2 < 8 → p ≠ place 0 → getTile r p = getTile s p) ∧
    (legal (.mrda v ad b t y) = true → issues s [b] [] true →
      (¬good → exec (.mrda v ad b t y) s = .next (raiseSync z ⟨1, false, natW (Instr.mrda v ad b t y).word⟩ x.pc)) ∧
      (let u := (getTile s (place 0)).tag
       let l := activeOver x u
       let val := fun c k => if f 10 10 = 1 then (if k = 0 then ofInt ((if (getTile s (place c)).ov then 1 else 0) + if (getTile s (place c)).nv then 2 else 0)
          else ofInt 0) else
         let q := mapGetD (getTile s (place c)).els ((f 4 0 + k / cols) * 32 + k % cols) 0
         if f 5 5 = 1 then elemVal 13 q.toNat else scaled e (ofInt q.toInt)
       let conv := fun c r => mapRng (fun k r => encType t.toNat rnd r (val c k)) (List.range n) r
       good → tagFault x.lframe [u] = none → ready l → (l.map place).Nodup → next (.mrda v ad b t y) fun r =>
         (vecGet (curCtx r).v v.toNat vregReset).tag = u ∧
         (∀ j, j < l.length → copyOf (vecGet (curCtx r).v v.toNat vregReset) u (l.getD j 0) = BitVec.ofNat 4096 (putEls
            (copyOf (vecGet x.v v.toNat vregReset) u (l.getD j 0)).toNat (typeBits t.toNat)
            (conv (l.getD j 0) ((l.take j).foldl (fun r c => (conv c r).2) x.rngs)).1)) ∧
         (curCtx r).rngs = l.foldl (fun r c => (conv c r).2) x.rngs ∧
         ∀ c ∈ l, getTile r (place c) = if f 11 11 = 1 then { getTile s (place c) with ov := false, nv := false } else getTile s (place c))) ∧
    (legal (.mwra ad v b t y) = true → issues s [b] [] true →
      (¬good → exec (.mwra ad v b t y) s = .next (raiseSync z ⟨1, false, natW (Instr.mwra ad v b t y).word⟩ x.pc)) ∧
      (let src := vecGet x.v v.toNat vregReset
       let l := activeOver x src.tag
       let el := fun c k => getEl (copyOf src src.tag c).toNat (typeBits t.toNat) k
       good → tagFault x.lframe [src.tag] = none → ready l → (l.map place).Nodup → next (.mwra ad v b t y) fun r => ∀ c ∈ l,
         let old := getTile s (place c)
         let new := getTile r (place c)
         let stays := fun b : Bool => decide (f 11 11 = 0) && b
         (f 10 10 = 1 → (new.ov = true ↔ el c 0 % 2 = 1) ∧ (new.nv = true ↔ el c 0 / 2 % 2 = 1) ∧ ∀ p, p < 1024 → mapGetD new.els p 0 = mapGetD old.els p 0) ∧
         (f 10 10 = 0 → rnd ≠ .sr →
           let x' := fun k => elemVal t.toNat (el c k)
           let i := fun k => (toInt rnd 0 (scaled (-e) (x' k)) (2 ^ 64)).1
           let y' := fun k => if f 5 5 = 1 then BitVec.ofNat 64 (encType 13 rnd 0 (x' k)).1
             else BitVec.ofInt 64 (max (-(2 ^ 63)) (min (i k) (2 ^ 63 - 1)))
           (∀ p, p < 1024 → mapGetD new.els p 0 = if f 4 0 ≤ p / 32 ∧ p / 32 < f 4 0 + rows ∧ p % 32 < cols then y' ((p / 32 - f 4 0) * cols + p % 32)
             else mapGetD old.els p 0) ∧
           (new.ov = true ↔ stays old.ov = true ∨ (f 5 5 = 0 ∧ ∃ k, k < n ∧ (i k < -(2 ^ 63) ∨ 2 ^ 63 - 1 < i k))) ∧
           (new.nv = true ↔ stays old.nv = true ∨ ∃ k, k < n ∧ x' k = .nan))))) ∧
  (∀ (slot : BitVec 3) (m : BitVec 4) (k y : BitVec 3) (s : State), direct s → unpaired s → issues s [] [] true → dispatches s = true →
    let x := curCtx s
    let z := bodyState [] true s
    let q := vecGet x.m m.toNat mapRegReset
    let site := siteOf s s.cur.core
    let wing := (instSites s site 0).headD site
    let good := mapBad q = false ∧ mapNdim q = 2 ∧ kOf (mapFmt q) ≠ 0 ∧ ¬(1 ≤ mapFmt q ∧ mapFmt q ≤ 4) ∧
      (mapExt q 0 = kOf (mapFmt q) ∨ (kOf (mapFmt q) = 128 ∧ mapExt q 0 = 64)) ∧ (mapExt q 1 = 32 ∨ mapExt q 1 = 64 ∨ mapExt q 1 = 128) ∧
      q.img.toNat / 2 ^ 60 % 2 ^ 4 = 0
    let leased := ∀ t ∈ instSites s site 0, isShared s t = true → holdsLease s (senderOf s s.cur) t = true ∧ ∀ q, (getWing s t).lease = some q → q.used < 64
    let pins := fun (z : State) n => mapGet (getWing z wing).pins n
    (legal (.tfetch slot m k y) = true →
      (¬good → exec (.tfetch slot m k y) s = .next (raiseSync z ⟨1, false, natW (Instr.tfetch slot m k y).word⟩ x.pc)) ∧
      (good → leased → tagFault x.lframe [q.lift] = none → (vecGet x.k k.toNat tokenReset).count < 255 →
        ∀ l z' u, fetchLines q m.toNat (mapExt q 0) (activeOver x q.lift) z = .ok l z' → unpaired z' → pushRelease true z' = .ok () u →
        let lines := l.flatMap fun p => p.map (·.1)
        ∃ t, exec (.tfetch slot m k y) s = .next t ∧ (curCtx t).pc = instrPc x + 4 ∧ memoryKept u t ∧
          (lines ≠ [] → (vecGet (curCtx t).k k.toNat tokenReset).count = (vecGet (curCtx u).k k.toNat tokenReset).count + 1) ∧
          pins t slot.toNat = some (pinLines (pinnedLines (onWing u wing fun g => { g with pins := mapErase g.pins slot.toNat }) (dieOf s.cur.core)) lines []) ∧
          ∀ n, n ≠ slot.toNat → pins t n = pins u n)) ∧
    (legal (.tunpin slot y) = true → leased → ∃ t, exec (.tunpin slot y) s = .next t ∧ (curCtx t).pc = instrPc x + 4 ∧ memoryKept s t ∧
      (mapSorted (getWing s wing).pins = true → pins t slot.toNat = none) ∧ ∀ n, n ≠ slot.toNat → pins t n = pins s n) ∧
    ∀ held l : List Nat, ∀ p, let pinned := pinLines held l []
      (∀ n ∈ pinned, n ∈ l) ∧
      (pinned.filter fun n => !held.contains n && l2SetOf n == p).length ≤ 8 - (held.filter fun h => l2SetOf h == p).length)

/-! ### Bit-plane -/

/-- R133, R211, R213, R214, R216, R218, R219, R227, R228, R285: the array instructions that touch no memory. One whose fields, destination, descriptor
bits, widths and signedness fit is handed to the wings of its addressed sub-arrays, one part for each member wing, and execution goes on; the
speculative tasks of the core that have read what it writes roll back (R45, R229). Any other raises ILLOP and has no effect. R128, R135, R220 to R222,
R304, R310, R312: BPLD and BPST hand their operation to the wings and wait for its check; they complete when it has passed and raise its fault when it
has failed. A map, pattern or base that R220 and R221 refuse raises ILLOP, another core's cell memory under BPLD REMOTELD; of a base in mesh space its space
and its core alone count. BPSYNC waits for the
operations issued before it. The last clause gives the map element of a column. -/
def Obligations.ArrayOperationsAreIssued : Prop :=
  (∀ (d a b : BitVec 5) (sat : BitVec 1) (fn : BitVec 3) (f4 : BitVec 4) (y : BitVec 3) (s : State), direct s → unpaired s → dispatches s = true →
    let f : W64 → Nat → Nat → Nat := fun w hi lo => w.toNat / 2 ^ lo % 2 ^ (hi + 1 - lo)
    let row := fun w => f w 8 0
    let width := fun w => f w 13 9 + 1
    let sgn := fun w => f w 14 14 = 1
    let fits := fun w => row w + width w ≤ 512
    let site := siteOf s s.cur.core
    let dest := fun (ext writes flags : Bool) w => fits w ∧ f w 63 63 = 0 ∧ f w 15 15 = 0 ∧ (ext = false → f w 63 38 = 0) ∧
      f w 21 16 + f w 27 22 + 1 ≤ 16 * (wingsOf s site).length ∧
      (writes = true → ∀ r, row w ≤ r → r < row w + width w → r ≠ 508 ∧ r ≠ 509 ∧ (flags = true → r ≠ 511))
    let one := fun (i : Instr) (rd ra rb : BitVec 5) (form : W64 → W64 → W64 → Prop) => legal i = true → issues s [rd, ra, rb] [] true →
      let z := bodyState [rd, ra, rb] true s
      let v := fun r => xval (curCtx z) r
      let parts := ((wingsOf s site).filter fun w => !(partSubs s site (v rd) w).isEmpty).map fun w => ({ wing := w } : OpPart)
      let op : ArrayOp := ⟨(curCore s).nextOp, senderOf s s.cur, i, v rd, v ra, v rb, mapRegReset, parts, true, [], [], false⟩
      (form (v rd) (v ra) (v rb) → exec i s = .next (retiredAt (1 + y.toNat) [] (instrPc (curCtx s) + 4)
        (rollbackOwn (onCore z s.cur.core fun k => { k with
          nextOp := k.nextOp + 1
          ops := if parts = [] then k.ops else k.ops ++ [op] }) s.cur.core op (some s.cur)))) ∧
      (¬form (v rd) (v ra) (v rb) → exec i s = .next (raiseSync z ⟨1, false, natW i.word⟩ (curCtx s).pc))
    let sets := decide (sat = 1)
    let two := fun d a b => dest false true sets d ∧ fits a ∧ fits b
    one (.bpadd d a b sat y) d a b two ∧ one (.bpsub d a b sat y) d a b two ∧ one (.bpmul d a b sat y) d a b two ∧
    one (.bpcopy d a sat y) d a 0 (fun d a _ => dest false true sets d ∧ fits a) ∧
    one (.bpand d a b fn y) d a b (fun d a b => dest false true false d ∧ fits a ∧ fits b ∧ width a = width d ∧ width b = width d) ∧
    one (.bpcmp d a b fn y) d a b (fun d a b => dest false true false d ∧ fits a ∧ fits b ∧ width d = 1) ∧
    one (.bpsel d a b y) d a b (fun d a b => dest false true false d ∧ fits a ∧ fits b ∧ f d 28 28 = 1) ∧
    one (.bpset d b y) d 0 b (fun d _ _ => dest false true false d) ∧
    one (.bpdecay d y) d 0 0 (fun d _ _ => dest true true true d ∧ width d = 16 ∧ sgn d ∧ f d 46 38 ≤ 510) ∧
    one (.trstep d a b y) d a b (fun d a b => dest true true true d ∧ fits a ∧ fits b ∧ width d = 16 ∧ sgn d ∧ f d 46 38 ≤ 510 ∧ width a = 1 ∧
      width b = 16 ∧ sgn b) ∧
    one (.bpmacc d a b y) d a b (fun d a b => dest false true true d ∧ fits a ∧ width d = 24 ∧ sgn d ∧ width a = 16 ∧ sgn a ∧ f b 63 21 = 0) ∧
    one (.bprow d a b f4 sat y) d a b (fun d a b => dest false (decide (f4 ≠ 7)) false d ∧ row a + width d ≤ 512 ∧ row b + width d ≤ 512 ∧
      (f4 = 7 → width d = 1))) ∧
  (∀ (d : BitVec 5) (m : BitVec 4) (es : BitVec 2) (pat y : BitVec 3) (s : State), direct s → unpaired s → dispatches s = true →
    let x := curCtx s
    let z := bodyState [d] true s
    let w := xval (curCtx z) d
    let q := vecGet x.m m.toNat mapRegReset
    let base := BitVec.ofNat 64 q.img.toNat
    let p := ((List.range (mapNdim q)).map (mapExt q)).foldl (· * ·) 1
    let n := 512 * (w.toNat / 2 ^ 22 % 2 ^ 6 + 1)
    let g := (wingsOf s (siteOf s s.cur.core)).length
    let place := spaceOf s s.cur.core (plainMesh base)
    let own := ∃ o, place = some (.cell (coreNum s s.cur.core) o)
    let mesh := base.toNat / 2 ^ 60 = 12 ∨ base.toNat / 2 ^ 60 = 13
    let good := fun (k : ArrayKind) pat => mapBad q = false ∧ mapFmt q = 15 ∧ q.lift = tagNone ∧ fieldIll k w 0 0 g = false ∧ (pat = 0 → n ≤ p) ∧
      (pat = 1 → p ∣ n)
    let one := fun (i : Instr) (k : ArrayKind) (pat : Nat) => legal i = true → issues s [d] [] true →
      (∀ j, x.waiting = some (.arrayOk j) → exec i s = .next (retiredAt (1 + y.toNat) [] (instrPc x + 4) z)) ∧
      (∀ t, x.waiting = some (.arrayFault t) → exec i s = .next (raiseSync (onCur z fun x => { x with waiting := none }) t x.pc)) ∧
      (∀ j, x.waiting = some (.array j) → exec i s = .next (onCur (match findOp z s.cur.core j with
        | some o => if o.checked = false ∧ ∀ p ∈ o.parts, p.granted = true then settleOp z s.cur.core o else z
        | none => z) (stallAt i))) ∧
      (x.waiting = none → ¬(good k pat ∧ mesh) → exec i s = .next (raiseSync z ⟨1, false, natW i.word⟩ x.pc))
    let parts := ((wingsOf s (siteOf s s.cur.core)).filter fun g => !(partSubs s (siteOf s s.cur.core) w g).isEmpty).map fun g => ({ wing := g } : OpPart)
    let asks := fun (i : Instr) (t : State) => (curCtx t).pc = x.pc ∧ (curCtx t).waiting = some (.array (curCore s).nextOp) ∧ memoryKept s t ∧
      (curCore t).nextOp = (curCore s).nextOp + 1 ∧ (parts ≠ [] →
        (curCore t).ops = (curCore s).ops ++ [⟨(curCore s).nextOp, senderOf s s.cur, i, w, 0, 0, q, parts, false, [], [], false⟩])
    let ld := Instr.bpld d m es pat y
    let st := Instr.bpst d m es y
    one ld (.load pat.toNat es.toNat) pat.toNat ∧ one st (.store es.toNat) 0 ∧
    (legal ld = true → issues s [d] [] true → x.waiting = none → good (.load pat.toNat es.toNat) pat.toNat → mesh →
      (own ∨ place = none → ∃ t, exec ld s = .next t ∧ asks ld t ∧ (curCore t).buf = (curCore s).buf) ∧
      (∀ c o, place = some (.cell c o) → c ≠ coreNum s s.cur.core → exec ld s = .next (raiseSync z ⟨7, false, base⟩ x.pc))) ∧
    (legal st = true → issues s [d] [] true → x.waiting = none → good (.store es.toNat) 0 → mesh →
      (own → (curCore s).tail = none → ∃ t, exec st s = .next t ∧ asks st t ∧
        let l := (reservedBlocks s q w (2 ^ es.toNat)).map fun b => (⟨senderOf s s.cur, .wing (curCore s).nextOp b none⟩ : BufEntry)
        (curCore t).buf = (curCore s).buf ++ l.take (32 - (curCore s).buf.length) ∧
        ((curCore t).tail = none ↔ l.length ≤ 32 - (curCore s).buf.length)) ∧
      (¬own → exec st s = .next (raiseSync z ⟨1, false, natW st.word⟩ x.pc))) ∧
    (legal (.bpsync y) = true → issues s [] [] true → ∀ j, (x.waiting = some (.bpsync j) ∨ (x.waiting = none ∧ j = (curCore s).nextOp)) →
      let u := onCur (bodyState [] true s) fun x => { x with waiting := some (.bpsync j) }
      ((∀ o ∈ (curCore s).ops, j ≤ o.id) → exec (.bpsync y) s = .next (retiredAt (1 + y.toNat) [] (instrPc x + 4) u)) ∧
      ((∃ o ∈ (curCore s).ops, o.id < j) → exec (.bpsync y) s = .next (onCur u (stallAt (.bpsync y))))) ∧
    ∀ (pat : Nat) (c : Nat), c < n → 0 < p →
      let l := if pat = 0 then c else if pat = 1 then c * p / n else c % p
      let e := fun k => mapExt q k
      let idx := [l % e 0, l / e 0 % e 1, l / e 0 / e 1 % e 2, l / e 0 / e 1 / e 2]
      let at_ := fun k => if k + 1 = mapNdim q then l / ((List.range k).map e).foldl (· * ·) 1 else idx.getD k 0
      1 ≤ mapNdim q → mapNdim q ≤ 4 →
        colAddr q pat w c = base + BitVec.ofInt 64 ((List.range (mapNdim q)).map fun k => (at_ k : Int) * mapStr q k).sum)

/-- R95 to R97, R211, R212, R215, R217, R218, R227, R228: what an array operation makes of a sub-array. Each active column takes its result,
computed from the fields as they stood before, modulo the destination's width, and a clamp sets its flag; every other column, row and sub-array
keeps what it held; the latches of the columns that were written become 0. BPSEL writes every column. R212, R215, R219: BPROW. With KEEPC = 0 the
latches of the active columns are cleared first; then its steps follow in order, each on the rows as the one before left them: an active column
takes D in the step's destination row and its new carry, an inactive one keeps both, and no other row changes. That the predicate row is read once is
the model's choice (log 71). -/
def Obligations.ArrayRowsCompute : Prop :=
  (∀ (op : ArrayOp) (w : Wing) (sub j c : Nat), mapSorted w.rows = true → mapSorted w.latch = true → sub < 16 → c < 512 →
    let f : W64 → Nat → Nat → Nat := fun w hi lo => w.toNat / 2 ^ lo % 2 ^ (hi + 1 - lo)
    let row := fun w => f w 8 0
    let width := fun w => f w 13 9 + 1
    let sgn := fun w => f w 14 14 = 1
    let raw := fun (z : Wing) r n => ((List.range n).map fun k => if (rowGet z sub (r + k)).getLsbD c then 2 ^ k else 0).sum
    let field := fun w' : W64 => raw w (row w') (width w')
    let val : W64 → Int := fun w' => if sgn w' then (BitVec.ofNat (width w') (field w')).toInt else field w'
    let bit := fun r => (rowGet w sub r).getLsbD c
    let cls := (if bit (f op.d 46 38) then 1 else 0) + if bit (f op.d 46 38 + 1) then 2 else 0
    let decay := f op.d (50 + 4 * cls) (47 + 4 * cls)
    let lo : Int := if sgn op.d then -(2 ^ (width op.d - 1) : Nat) else 0
    let hi : Int := if sgn op.d then (2 ^ (width op.d - 1) : Nat) - 1 else (2 ^ width op.d : Nat) - 1
    let clamp := fun x => max lo (min x hi)
    let asr := fun (x : Int) (k : Nat) => if k = 0 then x else (x + (2 ^ (k - 1) : Nat)) / (2 ^ k : Nat)
    let fades := if decay = 0 then 0 else asr (val op.d) decay
    let active := f op.d 28 28 = 1 → bit (f op.d 37 29) = true
    let z := subArrayOp op ((arrayKind op.instr).getD .logic) w w sub j 0 (width op.d) true true 0 0 0
    let latch := fun (z : Wing) (s c : Nat) => (mapGetD z.latch s 0).getLsbD c
    let does := fun (i : Instr) (sets : Bool) (on : Prop) (x : Int) => op.instr = i → row op.d + width op.d ≤ 512 →
      (∀ r, row op.d ≤ r → r < row op.d + width op.d → r ≠ 508 ∧ r ≠ 509 ∧ (sets = true → r ≠ 511)) →
      (on → (raw z (row op.d) (width op.d) : Int) = (if sets then clamp x else x) % (2 ^ width op.d : Nat) ∧ latch z sub c = false) ∧
      (¬on → raw z (row op.d) (width op.d) = raw w (row op.d) (width op.d) ∧ latch z sub c = latch w sub c) ∧
      (sets = true → ((rowGet z sub 511).getLsbD c = true ↔ bit 511 = true ∨ (on ∧ clamp x ≠ x))) ∧
      (∀ q r k, q < 16 → r < 512 → (q ≠ sub ∨ ¬(row op.d ≤ r ∧ r < row op.d + width op.d) ∧ (sets = true → r ≠ 511)) →
        (rowGet z q r).getLsbD k = (rowGet w q r).getLsbD k) ∧
      ∀ q, q ≠ sub → latch z q c = latch w q c
    let A := val op.a
    let B := val op.b
    ∀ (d a b : BitVec 5) (sat : BitVec 1) (fn y : BitVec 3),
      let sets := decide (sat = 1)
      does (.bpadd d a b sat y) sets active (A + B) ∧ does (.bpsub d a b sat y) sets active (A - B) ∧ does (.bpmul d a b sat y) sets active (A * B) ∧
      does (.bpcopy d a sat y) sets active A ∧
      (width op.a = width op.d → width op.b = width op.d → does (.bpand d a b fn y) false active (
        let m := 2 ^ width op.d - 1
        let x := field op.a
        let y := field op.b
        (if fn = 0 then x &&& y else if fn = 1 then x ||| y else if fn = 2 then x ^^^ y else if fn = 3 then m - (x ||| y) else x &&& (m - y) : Nat))) ∧
      does (.bpcmp d a b fn y) false active (if (fn = 0 ∧ A = B) ∨ (fn = 1 ∧ A ≠ B) ∨ (fn = 2 ∧ A < B) ∨ (fn = 3 ∧ B ≤ A) ∨ (fn = 4 ∧ A ≤ B) ∨
        (4 < fn.toNat ∧ B < A) then 1 else 0) ∧
      does (.bpsel d a b y) false True (if bit (f op.d 37 29) then A else B) ∧
      does (.bpset d b y) false active op.b.toNat ∧
      (width op.d = 16 → sgn op.d → does (.bpdecay d y) true active (val op.d - fades)) ∧
      (width op.d = 16 → sgn op.d → does (.trstep d a b y) true active (val op.d - fades + if bit (row op.a) then B else 0)) ∧
      (width op.d = 24 → sgn op.d → does (.bpmacc d a b y) true active
        (val op.d + asr ((BitVec.ofNat 16 (f op.b 15 0)).toInt * A) (f op.b 20 16)))) ∧
  (∀ (op : ArrayOp) (w : Wing) (sub j : Nat) (d a b : BitVec 5) (f4 : BitVec 4) (keep : BitVec 1) (y : BitVec 3),
    let f : W64 → Nat → Nat → Nat := fun w hi lo => w.toNat / 2 ^ lo % 2 ^ (hi + 1 - lo)
    let mask := fun c => f op.d 28 28 = 1 → (rowGet w sub (f op.d 37 29)).getLsbD c = true
    let latch := fun (z : Wing) (s c : Nat) => (mapGetD z.latch s 0).getLsbD c
    op.instr = .bprow d a b f4 keep y → mapSorted w.rows = true → mapSorted w.latch = true → sub < 16 → f4.toNat < 8 → ∃ z : Nat → Wing,
      (∀ q c, c < 512 → latch (z 0) q c = if q = sub ∧ keep = 0 ∧ mask c then false else latch w q c) ∧ (∀ q r, rowGet (z 0) q r = rowGet w q r) ∧
      subArrayOp op (.rows f4.toNat (keep = 1)) w w sub j 0 (f op.d 13 9 + 1) true true (rowOf (colActive w sub op.d)) 0 0 = z (f op.d 13 9 + 1) ∧
      ∀ k, k ≤ f op.d 13 9 → f op.d 8 0 + k < 512 → (f4 ≠ 7 → f op.d 8 0 + k ≠ 508 ∧ f op.d 8 0 + k ≠ 509) → ∀ c, c < 512 →
        let P := (rowGet (z k) sub (f op.a 8 0 + k)).getLsbD c
        let Q := (rowGet (z k) sub (f op.b 8 0 + k)).getLsbD c
        let C := latch (z k) sub c
        let maj := fun x y z : Bool => (x && y) || (x && z) || (y && z)
        let D := if f4 = 0 then P && Q else if f4 = 1 then !(P || Q) else if f4 = 2 then P || Q else if f4 = 3 then xor P Q
          else if f4 = 4 then xor (xor P Q) C else if f4 = 5 then xor (xor P (!Q)) C else C
        let C' := if f4 = 4 then maj P Q C else if f4 = 5 then maj P (!Q) C else if f4 = 7 then P else C
        latch (z (k + 1)) sub c = (if mask c then C' else C) ∧
        (f4 ≠ 7 → (rowGet (z (k + 1)) sub (f op.d 8 0 + k)).getLsbD c = if mask c then D else (rowGet (z k) sub (f op.d 8 0 + k)).getLsbD c) ∧
        (∀ q r, q < 16 → r < 512 → (f4 = 7 ∨ q ≠ sub ∨ r ≠ f op.d 8 0 + k) → rowGet (z (k + 1)) q r = rowGet (z k) q r) ∧
        ∀ q, q ≠ sub → latch (z (k + 1)) q c = latch (z k) q c)

/-! ### System registers, bindings, translation caches, pairs -/

/-- R57, R58, R67, R68, R197, R327, R328: CSRR writes the register's value, zeros above its fields, with latency 2. CSRW writes the writable bits
of its register, which reads so from then on, and no other register of R57 reads differently: reserved and read-only bits, caps and PSTATE without
MGCFG, a PSTATE of 6 or 7 and a BFMT of 14 keep what they were; 0 into RNGS is stored as 1; caps are clamped to 350 to 1,000. R16 to R18, R113,
R296, R391: BIND, and CSRW to BIND, wait until the wing operations of the front are complete, the front dispatching none meanwhile; then the first
row of R17 that holds raises BINDF with its number and the binding stays, and with none the new binding stands. TLBI waits until the context's own
earlier stores are visible, drops the covered entries of every front and cluster, completes when the accesses they served have, and drops what was
cached meanwhile. What else TLBI waits for is the model's reading (log 27). -/
def Obligations.RegistersBindingsAndTranslations : Prop :=
  (∀ (d a : BitVec 5) (i : BitVec 10) (y : BitVec 3) (s : State), unpaired s → mapSorted (curCore s).bfmt = true →
    let x := curCtx s
    let k := curCore s
    let c := s.cur.core
    let site := siteOf s c
    let cl := getCluster s (clusterOf site)
    let front := (getFront s site).bind
    let mask := fun (f : Token → Bool) => ((List.range 8).map fun n => if f (vecGet x.k n tokenReset) then 2 ^ n else 0).sum
    let mem0 := (members s site).headD site
    let reads : Nat → Nat := fun n =>
      if n = 0x00 then s.device * 1024 + c else if n = 0x01 then coreY c * 32 + coreX c
      else if n = 0x02 then site / 272 * 2 ^ 12 + site % 272 / 16 * 2 ^ 4 + site % 16
      else if n = 0x03 then k.launchId.toNat else if n = 0x04 then k.instar.toNat else if n = 0x05 then k.stages.toNat
      else if n = 0x06 then x.shape.toNat else if n = 0x07 then x.lmask.toNat else if n = 0x08 then x.ldepth
      else if n = 0x09 then x.lframe.e1 % 128 + x.lframe.e2 % 128 * 2 ^ 8 + x.lframe.e3 % 128 * 2 ^ 16
      else if n = 0x0A then front.toNat % 2 ^ 24 + ((nearSites mem0).filter fun f => (members s f).contains mem0).length % 8 * 2 ^ 24
      else if n = 0x0B then s.mg.time.toNat else if n = 0x0C then x.tstamp.toNat else if n = 0x0D then horizon k else if n = 0x0E then x.rngs.toNat
      else if n = 0x0F then mask (fun t => t.count == 0) + 2 ^ 8 * mask (fun t => t.err) else if n = 0x10 then (if x.chksb then 1 else 0)
      else if n = 0x11 then x.trapcause.toNat else if n = 0x12 then x.trappc.toNat else if n = 0x13 then x.trapval.toNat else if n = 0x14 then x.trapvec.toNat
      else if n = 0x15 then k.twinPartner * 2 ^ 32 + k.twinState.toNat else if n = 0x16 then x.energy.toNat
      else if n = 0x17 then cl.request.toNat + max cl.request.toNat (max cl.imposed.toNat cl.hold.toNat) * 2 ^ 8 else if n = 0x18 then s.mg.capPeak.toNat else if n = 0x19 then s.mg.capAvg.toNat
      else mapGetD k.bfmt (n - 0x20) 15
    let listed := fun n : Nat => n < 0x1A ∨ (0x20 ≤ n ∧ n < 0x30)
    let old := fun n => (sysRead s n).toNat
    let v := xval x a
    let f : Nat → Nat → Nat := fun hi lo => v.toNat / 2 ^ lo % 2 ^ (hi + 1 - lo)
    let cap := max 350 (min 1000 (f 10 0))
    let stored : Nat := if i = 0x06 then f 9 0 else if i = 0x07 then (if x.ldepth = 0 then v.toNat else v.toNat % 2 ^ tagCount x.lframe)
      else if i = 0x0E then (if f 31 0 = 0 then 1 else f 31 0) else if i = 0x10 then f 0 0 else if i = 0x11 then f 9 0 else if i = 0x12 then v.toNat
      else if i = 0x13 then v.toNat else if i = 0x14 then f 63 1 * 2
      else if i = 0x17 then (if s.mg.mgcfg ∧ f 2 0 ≤ 5 then f 2 0 + max (f 2 0) (max cl.imposed.toNat cl.hold.toNat) * 2 ^ 8 else old 0x17)
      else if i = 0x18 then (if s.mg.mgcfg then cap else old 0x18) else if i = 0x19 then (if s.mg.mgcfg then cap else old 0x19)
      else if 0x20 ≤ i.toNat ∧ f 3 0 ≠ 14 then f 3 0 else old i.toNat
    (legal (.csrr d i y) = true → issues s [] [d] false →
      exec (.csrr d i y) s = .next (retiredAt (1 + y.toNat) [d] (instrPc x + 4) (onCur s fun x => setLate x d 2 (BitVec.ofNat 64 (reads i.toNat))))) ∧
    (legal (.csrr d i y) = true ↔ listed i.toNat) ∧ (legal (.csrw a i y) = true ↔ listed i.toNat) ∧
    (legal (.csrw a i y) = true → i ≠ 0x0A → issues s [a] [] false → ∃ t, exec (.csrw a i y) s = .next t ∧ (curCtx t).pc = instrPc x + 4 ∧ memoryKept s t ∧
      ∀ n, listed n → (sysRead t n).toNat = if n = i.toNat then stored else old n)) ∧
  (∀ (a b : BitVec 5) (y : BitVec 3) (s : State), direct s →
    let x := curCtx s
    let c := s.cur.core
    let me := senderOf s s.cur
    let site := siteOf s c
    let v := xval x a
    let f : Nat → Nat → Nat := fun hi lo => v.toNat / 2 ^ lo % 2 ^ (hi + 1 - lo)
    let mode := f 2 0
    let used := if mode = 0 then 1 else if mode = 3 then 4 else 2
    let code := fun j => f (11 + 4 * j) (8 + 4 * j)
    let px : Nat → Int := fun j => (site % 16 : Nat) + (code j % 3 : Nat) - 1
    let py : Nat → Int := fun j => (site % 272 / 16 : Nat) + (code j / 3 : Nat) - 1
    let wing := fun j => (site / 272 * 272 : Nat) + (py j * 16 + px j).toNat
    let half := fun t => (getWing s t).health = .halfA ∨ (getWing s t).health = .halfB
    let fails := fun r : Nat =>
      if r = 1 then 4 ≤ mode
      else if r = 2 then ∃ j, j < used ∧ (9 ≤ code j ∨ px j < 0 ∨ 15 < px j ∨ py j < 0 ∨ 16 < py j)
      else if r = 3 then ∃ j k, j < k ∧ k < used ∧ wing j = wing k
      else if r = 4 then ∃ j, j < used ∧ (if mode = 1 then ¬half (wing j) else (getWing s (wing j)).health ≠ .whole)
      else if r = 5 then ∃ j, j < used ∧ 4 < ((nearSites (wing j)).filter fun q => q != site && (members s q).contains (wing j)).length + 1
      else if r = 6 then s.cur.cx ≠ 0
      else if r = 7 then (∃ p ∈ s.wings, ∃ l, p.2.lease = some l ∧ l.holder.core = coreNum s c) ∨ (∃ p ∈ (curCore s).ctxs, p.2.ldepth ≠ 0) ∨
        ∃ q ∈ s.saved, ∃ r ∈ q.cores, r.number = coreNum s c ∧ r.core.ops ≠ []
      else (curCore s).twin ≠ none
    let idle := onCore (onCore s c fun k => { k with bindDrain := setAdd k.bindDrain s.cur.cx }) c fun k => { k with bindDrain := setDel k.bindDrain s.cur.cx }
    let tlb := fun (s t : State) (drop : TlbEntry → Bool) =>
      (∀ q e, e ∈ (getFront t q).tlb ↔ e ∈ (getFront s q).tlb ∧ drop e = false) ∧ ∀ q e, e ∈ (getCluster t q).tlb ↔ e ∈ (getCluster s q).tlb ∧ drop e = false
    let ti := fun (i : Instr) (reads : List (BitVec 5)) (good : Prop) (asid : Option Nat) (drop : TlbEntry → Bool) => unpaired s → legal i = true → issues s reads [] false →
      (¬good → exec i s = .next (raiseSync s ⟨1, false, natW i.word⟩ x.pc)) ∧
      (good → x.waiting = none → bufEmpty s me = true → (∀ g ∈ s.flights, g.src = me → g.inDie = false) → ∀ u,
        releaseAt me (bufNext (curCore s)) (dieOf c) 2 s = .ok () u → ∃ t l r p, exec i s = .next t ∧ (curCtx t).pc = x.pc ∧
          (curCtx t).waiting = some (.tlbi l r p) ∧ tlb u t drop ∧ memoryKept u t) ∧
      (good → x.waiting = none → bufEmpty s me = false → exec i s = .next (onCur s (stallAt i))) ∧
      (good → ∀ l r p, x.waiting = some (.tlbi l r p) → tlbiDone s l r p = true → heldVia s asid drop = false →
        exec i s = .next (retiredAt (1 + y.toNat) [] (instrPc x + 4) (dropEntries s drop)) ∧ tlb s (dropEntries s drop) drop)
    (∀ i, i = .bind a y ∨ i = .csrw a 0x0A y → legal i = true → issues s [a] [] false →
      ((curCore s).marks ≠ [] ∨ (curCore s).ops ≠ [] ∨ (∃ p ∈ (curCore s).ctxs, dispatchedOp p.2 = true) → unpaired s → ∃ t, exec i s = .next t ∧ (curCtx t).pc = x.pc ∧ s.cur.cx ∈ (curCore t).bindDrain ∧
        ∀ q, getFront t q = getFront s q) ∧
      ((curCore s).marks = [] → (curCore s).ops = [] → (∀ p ∈ (curCore s).ctxs, dispatchedOp p.2 = false) →
        ((∀ r, 1 ≤ r → r ≤ 8 → ¬fails r) → exec i s = .next (retiredAt (1 + y.toNat) [] (instrPc x + 4)
          (putFront idle site { getFront s site with bind := BitVec.ofNat 64 (f 23 8 * 2 ^ 8 + mode) }))) ∧
        (∀ r, 1 ≤ r → r ≤ 8 → fails r → (∀ q, 1 ≤ q → q < r → ¬fails q) → exec i s = .next (raiseSync idle ⟨13, false, BitVec.ofNat 64 r⟩ x.pc)))) ∧
    ti (.tlbiAll y) [] True none (fun _ => true) ∧ ti (.tlbiAs a y) [a] (v.toNat < 16) (some v.toNat) (fun e => decide (e.asid = v.toNat)) ∧
    ti (.tlbiVa a b y) [a, b] (v.toNat < 2 ^ 48 ∧ (xval x b).toNat < 16) (some (xval x b).toNat) (fun e => decide (e.asid = (xval x b).toNat ∧ e.va ≤ v.toNat ∧ v.toNat < e.va + e.size)))

/-- R110, R255, R396: TWIN writes the status of the first row of R255 that holds and changes nothing else; with none it writes 0, copies the
control context and banks 0 to 14 to the secondary, and both cores are in state 1 of a pair that names the other. -/
def Obligations.CoresPair : Prop :=
  ∀ (d a : BitVec 5) (y : BitVec 3) (s : State), unpaired s → issues s [a] [d] false → legal (.twin d a y) = true → (curCore s).twinState ≠ 1 →
    let p := s.cur.core
    let num := (xval (curCtx s) a).toNat % 2 ^ 22
    let q := num % 1024
    let me := senderOf s s.cur
    let local_ := num / 1024 = s.device
    let busy := fun c => (getCore s c).isSealed = true ∨ (∃ x ∈ (getCore s c).ctxs, x.2.status ≠ .free) ∨ ∃ m ∈ (getCore s c).queues, m.2 ≠ []
    let row := fun n : Nat =>
      if n = 0 then ¬local_ ∨ q = p
      else if n = 1 then absent s q = true ∨ busy q
      else if n = 2 then s.cur.cx ≠ 0
      else if n = 3 then (∃ x ∈ (curCore s).ctxs, x.1 ≠ 0 ∧ x.2.status ≠ .free) ∨ (∃ m ∈ (curCore s).queues, m.2 ≠ []) ∨ (curCtx s).ldepth ≠ 0 ∨
        (∃ l ∈ s.leases, l.holder = me) ∨ ∃ w ∈ s.wings, ∃ l, w.2.lease = some l ∧ l.holder = me
      else (getCore s q).twin ≠ none
    (∀ n, n < 5 → row n → (∀ m, m < n → ¬row m) → exec (.twin d a y) s = .next (retiredAt (1 + y.toNat) [d] (instrPc (curCtx s) + 4)
      (onCur s fun x => setReg x d (dataReg (BitVec.ofNat 64 (if n = 0 then 2 else if n = 1 then 1 else n + 1)))))) ∧
    ((∀ n, n < 5 → ¬row n) → bufEmpty s me = true → (∀ g ∈ s.flights, g.src = me → g.inDie = false) → p < 1024 →
      ∃ t, exec (.twin d a y) s = .next t ∧ (curCtx t).pc = instrPc (curCtx s) + 4 ∧ settled (curCtx t) d = dataReg 0 ∧
        ∀ c e, (c = p ∧ e = q) ∨ (c = q ∧ e = p) →
          (getCore t c).twinState = 1 ∧ (getCore t c).twinPartner = s.device * 1024 + e ∧ (∃ w, (getCore t c).twin = some w ∧ w.partner = e ∧ w.retired = 0 ∧
            (w.primary = true ↔ c = p)) ∧
          (∀ o, o < 0xF0000 → memRead (getCore t c).cell o = memRead (curCore s).cell o) ∧ (getCore t c).bfmt = (curCore s).bfmt ∧
          (getCore t c).launch = (curCore s).launch ∧ (getCtx t ⟨c, 0⟩).c = (curCtx t).c ∧ (getCtx t ⟨c, 0⟩).k = (curCtx s).k ∧ (getCtx t ⟨c, 0⟩).pc = (curCtx t).pc ∧
          (getCtx t ⟨c, 0⟩).v = (curCtx s).v ∧ (getCtx t ⟨c, 0⟩).m = (curCtx s).m ∧ (getCtx t ⟨c, 0⟩).trapvec = (curCtx s).trapvec)

/-! ### Launches -/

/-- R5, R16, R27 to R30, R32 to R34, R58, R111, R278, R281: the launch queues and engine space. Power-on; a write of each host register; a QTAIL write,
which submits, overruns or only stores; a push on e15, answered with its code or accepted with a word that waits for its flood; a flood, which starts the control context of every core
of the range; a head rejected for an absent core; completion on a core and of a launch. A flood of all cores at once, a QTAIL that moves back, the
order of rejection codes, when the word of a push can be popped, and a head behind a suspect cluster are the model's choice (logs 11, 41, 42, 43). What the
power-on clause says of cell memory, tiles, rows and context registers, where the rules give no value, and that the core table and repair data stay, is
the model's choice too (logs 3, 4). -/
def Obligations.LaunchesRun : Prop :=
  ∀ (s : State) (off : BitVec 32) (v : W64) (qn : BitVec 4) (core : Nat),
    let q := getQueue s qn.toNat
    let f : W64 → Nat → Nat → Nat := fun w hi lo => w.toNat / 2 ^ lo % 2 ^ (hi + 1 - lo)
    let low := v.toNat % 2 ^ 32
    let takes := fun q : Queue => 4 ≤ q.qsize.toNat ∧ q.qsize.toNat ≤ 16 ∧ q.halted = false ∧ s.mg.recovery = false
    let code := fun d : List W64 =>
      let w := fun n => d.getD n 0
      let base := f (w 1) 21 0
      let count := f (w 1) 54 32
      let level := f (w 2) 7 6
      let units := if level = 0 then count else if level = 1 then count / 16 else count / 256
      if f (w 1) 63 55 ≠ 0 ∨ f (w 1) 31 22 ≠ 0 ∨ f (w 2) 63 38 ≠ 0 ∨ f (w 2) 11 9 ≠ 0 ∨ f (w 4) 63 52 ≠ 0 ∨ f (w 6) 63 32 ≠ 0 ∨ w 7 ≠ 0 ∨ level = 3 then 1
      else if count = 0 ∨ base / 1024 ≠ s.device ∨ s.device * 1024 + 1024 < base + count ∨ (level ≠ 0 ∧ (base % 256 ≠ 0 ∨ count % 256 ≠ 0)) ∨
        units < f (w 2) 5 0 + 1 then 2
      else if f (w 0) 63 48 ≠ 0 ∨ f (w 0) 0 0 ≠ 0 ∨ f (w 4) 41 32 ≠ 0 then 4 else 0
    let nextId := if s.nextLaunch = 0xFFFFFFFF then 1 else s.nextLaunch + 1
    -- POWER_ON, REGISTER_WRITE, QSIZE_WRITE
    (∃ t, exec .powerOn s = .next t ∧ t.coreTable = s.coreTable ∧ t.device = s.device ∧ t.launches = [] ∧ t.nextLaunch = 1 ∧ t.lastFlood = 15 ∧
      (∀ c, getCore t c = coreReset) ∧ (∀ n, getQueue t n = queueReset) ∧ (∀ p, (getFront t p).bind = (getFront s p).repair) ∧
      ∀ p, getWing t p = { wingReset with health := (getWing s p).health }) ∧
    (s.mg.recovery = false → let w := fun off => exec (.registerWrite (.engine off) v) s
      (∀ r : Nat, off.toNat = qn.toNat * 64 + r →
        (r = 0 → w off = .next (putQueue s qn.toNat { q with qbase := BitVec.ofNat 64 (v.toNat / 64 * 64) })) ∧
        (r = 0x20 → w off = .next (putQueue s qn.toNat { q with qprio := BitVec.ofNat 3 v.toNat })) ∧
        (r = 0x10 ∨ r = 0x28 ∨ r = 0x30 ∨ r = 0x38 → w off = .next s)) ∧
      (off.toNat = 0x800 + qn.toNat * 16 → ∃ t, w off = .next t ∧ engineRead t off.toNat = BitVec.ofNat 64 (f v 51 12 * 2 ^ 12 + f v 0 0)) ∧
      (off = 0x3020 → ∃ t, w off = .next t ∧ engineRead t off.toNat = BitVec.ofNat 64 (f v 0 0) ∧ (f v 0 0 = 1 → t = { s with mg := t.mg }) ∧
        (f v 0 0 = 0 → t.mg.capPeak = s.mg.capPeakHost ∧ t.mg.capAvg = s.mg.capAvgHost ∧ ∀ n, (getCluster t n).request = (getCluster s n).requestHost)) ∧
      (off = 0x3068 → (f v 33 33 = 0 → ∃ t, w off = .next t ∧ t = { s with mg := t.mg } ∧ engineRead t off.toNat = BitVec.ofNat 64 (f v 33 0)) ∧
        (f v 33 33 = 1 → w off = exec (.preemptRequest (BitVec.ofNat 32 (f v 31 0)) (f v 32 32 = 1)) s)) ∧
      (off = 0x2000 ∨ (0x3000 ≤ off.toNat ∧ off.toNat < 0x3018) ∨ off = 0x3070 ∨ off = 0x3078 ∨ (0x1000 ≤ off.toNat ∧ off.toNat < 0x1800) ∨
        (0x3048 ≤ off.toNat ∧ off.toNat < 0x3068) ∨ 0x100000 ≤ off.toNat → w off = .next s)) ∧
    (s.mg.recovery = true → exec (.registerWrite (.engine off) v) s = .next s) ∧
    (let cap := BitVec.ofNat 11 (max 350 (min 1000 (f v 10 0)))
     exec (.registerWrite .capPeak v) s = .next { s with mg := { s.mg with capPeak := cap, capPeakHost := cap } } ∧
     exec (.registerWrite .capAvg v) s = .next { s with mg := { s.mg with capAvg := cap, capAvgHost := cap } } ∧
     ∀ n, n < 64 → (6 ≤ f v 2 0 → exec (.registerWrite (.pstate n) v) s = .next s) ∧
       (f v 2 0 < 6 → ∃ t, exec (.registerWrite (.pstate n) v) s = .next t ∧ (getCluster t n).request = BitVec.ofNat 3 (f v 2 0) ∧
         (getCluster t n).requestHost = BitVec.ofNat 3 (f v 2 0) ∧ ∀ m, m ≠ n → getCluster t m = getCluster s m)) ∧
    (s.mg.recovery = false → exec (.qsizeWrite qn v) s = .next (dropSlots (putQueue s qn.toNat
      { q with qsize := BitVec.ofNat 5 v.toNat, qhead := q.qtail, slots := [], halted := false, pendingAt := none }) q.slots)) ∧
    -- QTAIL_WRITE
    (let count := (BitVec.ofNat 32 low - q.qhead).toNat
     let ring := 2 ^ q.qsize.toNat
     let w := exec (.qtailWrite qn v) s
     (s.mg.recovery = false → ¬(4 ≤ q.qsize.toNat ∧ q.qsize.toNat ≤ 16) → w = .next (putQueue s qn.toNat { q with qtail := BitVec.ofNat 32 low })) ∧
     (s.mg.recovery = false → 4 ≤ q.qsize.toNat → q.qsize.toNat ≤ 16 → ring < count →
       w = .next (putQueue s qn.toNat { q with qtail := BitVec.ofNat 32 low, qstat := 5, halted := true })) ∧
     (takes q → count = q.slots.length + 1 → count ≤ ring → (∀ z ∈ q.slots, z.code = 0) →
       let slot := q.qbase.toNat + 64 * ((q.qhead.toNat + q.slots.length) % 2 ^ 32 % ring)
       let z := putQueue s qn.toNat { q with qtail := BitVec.ofNat 32 low }
       ∀ b u t, slotRead z slot = some (b, u) → slotWrite { u with nextLaunch := nextId } (slot + 48) (toBytes s.nextLaunch 4) = some t →
         u.nextLaunch = s.nextLaunch → t.device = s.device →
         let d := (List.range 8).map fun j => BitVec.ofNat 64 (ofBytes ((b.drop (8 * j)).take 8))
         ∃ r, w = .next r ∧ r.nextLaunch = t.nextLaunch ∧
           (code d = 0 → (getQueue r qn.toNat).slots = q.slots ++ [⟨listSet d 6 (BitVec.ofNat 64 (f (d.getD 6 0) 63 32 * 2 ^ 32 + s.nextLaunch)), s.nextLaunch, 0, none⟩] ∧
             (getQueue r qn.toNat).qhead = q.qhead ∧ (getQueue r qn.toNat).qstat = q.qstat) ∧
           (code d ≠ 0 → (getQueue r qn.toNat).qstat = BitVec.ofNat 40 (code d + s.nextLaunch * 2 ^ 8) ∧
             (q.slots = [] → (getQueue r qn.toNat).slots = [] ∧ (getQueue r qn.toNat).qhead = q.qhead + 1)))) ∧
    -- E15_LAUNCH_PUSH
    (∀ before p after, s.launchPushes = before ++ p :: after → (∀ z ∈ before, z.src ≠ p.src) →
      let k := f (p.desc.getD 2 0) 15 12
      let q := getQueue s k
      let s' := { s with launchPushes := before ++ after }
      let answered := fun (s : State) (w : Nat) (waits : Bool) => { s with launchResults := s.launchResults ++ [⟨p.src, BitVec.ofNat 64 w, waits⟩] }
      let e := exec (.e15LaunchPush before.length) s
      let full := ¬takes q ∨ 2 ^ q.qsize.toNat ≤ (q.qtail - q.qhead).toNat
      (code p.desc ≠ 0 → e = .next (answered { s' with nextLaunch := nextId } (code p.desc * 2 ^ 32 + s.nextLaunch) false)) ∧
      (code p.desc = 0 → full → e = .next (answered s' (5 * 2 ^ 32) false)) ∧
      (code p.desc = 0 → ¬full → let d := listSet p.desc 6 (BitVec.ofNat 64 (f (p.desc.getD 6 0) 63 32 * 2 ^ 32 + s.nextLaunch))
        ∀ t, slotWrite { s' with nextLaunch := nextId } (q.qbase.toNat + 64 * (q.qtail.toNat % 2 ^ q.qsize.toNat)) (d.flatMap fun w => toBytes w.toNat 8) = some t →
          e = .next (answered (putQueue t k { q with qtail := q.qtail + 1, slots := q.slots ++ [⟨d, s.nextLaunch, 0, some p.src⟩] }) s.nextLaunch true))) ∧
    -- FLOOD
    (∀ z c d r, markPending s = z → chosen z = some c → c.saved = none → (getQueue z c.queue).slots = d :: r →
      c.ready = true ∧ (∀ e ∈ claims z, c.prio < e.prio → ¬(e.ready = true ∧ (∀ x ∈ e.cores, asleep z x = false) ∧ (∀ x ∈ claims z, blockedBy e x = false) ∧
        (e.saved ≠ none ∨ ∀ x ∈ e.cores, suspectCore z x = false))) ∧
      let w := fun n => d.desc.getD n 0
      let base := f (w 1) 21 0
      let count := f (w 1) 54 32
      let at_ := fun c => base % 1024 ≤ c ∧ c < base % 1024 + count
      let unit := fun c => if f (w 2) 7 6 = 0 then s.device * 1024 + c - base else if f (w 2) 7 6 = 1 then logicalCluster c - logicalCluster (base % 1024)
        else c / 256 - base % 1024 / 256
      let units := if f (w 2) 7 6 = 0 then count else if f (w 2) 7 6 = 1 then count / 16 else count / 256
      let stages := f (w 2) 5 0 + 1
      let instar := fun c => if f (w 2) 8 8 = 1 then unit c % stages else unit c * stages / units
      let ends := fun (t : State) (code : Nat) => (d.pushed = none → t.launchResults = z.launchResults) ∧ (d.pushed ≠ none → t.launchResults =
        z.launchResults.map fun r => if r.waits = true ∧ r.word = BitVec.ofNat 64 d.id then { r with word := BitVec.ofNat 64 (code * 2 ^ 32 + d.id), waits := false } else r)
      ((∀ c, at_ c → absent s c = false) → ∃ t, exec .flood s = .next t ∧ t.lastFlood = c.queue ∧ ends t 0 ∧ (∃ l ∈ t.launches, l.id = d.id ∧ l.desc = d.desc) ∧
        ((∀ c, at_ c → (getCore z c).barHome = []) → ∀ c, ¬at_ c → getCore t c = getCore z c) ∧
        ∀ c, at_ c → (∀ k, 0 < k → (getCtx t ⟨c, k⟩).status = .free) ∧
          let x := getCtx t ⟨c, 0⟩
          x.status = .live ∧ x.pc = w 0 ∧ readReg x 1 = dataReg (BitVec.ofNat 64 (s.device * 1024 + c)) ∧ readReg x 2 = dataReg (BitVec.ofNat 64 base) ∧
          readReg x 3 = dataReg (BitVec.ofNat 64 count) ∧ readReg x 4 = dataReg (BitVec.ofNat 64 (instar c)) ∧ readReg x 5 = dataReg (BitVec.ofNat 64 stages) ∧
          (readReg x 6).bits.setWidth 64 = w 3 ∧ (readReg x 6).tag = true ∧ (∀ k : BitVec 5, 7 ≤ k.toNat → readReg x k = regNull) ∧ x.pending = [] ∧
          (getCore t c).launchId = BitVec.ofNat 32 d.id ∧ (getCore t c).senderLast = [] ∧ (getCore t c).cell = (getCore z c).cell) ∧
      (∀ j, at_ j → absent s j = true → ∃ t, exec .flood s = .next t ∧ (∀ i, getCore t i = getCore z i) ∧ ends t 3 ∧
        (getQueue t qn.toNat).qstat = if qn.toNat = c.queue ∧ d.pushed = none then BitVec.ofNat 40 (3 + d.id * 2 ^ 8) else (getQueue z qn.toNat).qstat)) ∧
    -- LAUNCH_COMPLETE
    (∀ l r, (getCore s core).launch = some l → (getCore s core).isSealed = false → l.saved = false → coreFree s core = true → s.saved = [] →
      (getCore s core).barHome = [] → s.launches.find? (fun k => k.id = l.id) = some r →
      let whole := ∀ c ∈ dCores r.desc, coreNum s c = coreNum s core ∨ coreNum s c ∈ r.doneOn
      ∃ t, exec (.launchComplete core) s = .next t ∧ (getCore t core).classes = [] ∧ (getCore t core).chans = [] ∧ (getCore t core).launch = none ∧
        (∀ c, c ≠ core → getCore t c = getCore s c) ∧
        (whole → (∀ k ∈ t.launches, k.id ≠ l.id) ∧ (getQueue t r.queue).qdone = (getQueue s r.queue).qdone + 1 ∧ t.mg.msix = s.mg.msix ++ [r.queue]) ∧
        (¬whole → t.queues = s.queues ∧ ∃ k ∈ t.launches, k.id = l.id ∧ coreNum s core ∈ k.doneOn))

/-! ### Arrivals, tasks, barriers -/

/-- R37, R38, R41, R47: a MSG, MSGT, EVTICK or CALLAT arrives at a core of the package: the first check of R38 that fails refuses it, and the refusal
goes back to its sender; an accepted message enters its channel's queue and is wake event 0, an accepted ordered one sets its sender's last timestamp;
the entry that its sender reserved, at the core where it did, is given up. A refusal that returns is taken deferred by its sender. The outcome of a
call lands in the caller's register and takes the operation off its token. What goes to another device counts as delivered while a link is up (log
55). -/
def Obligations.MessagesArrive : Prop :=
  ∀ (s : State),
    (∀ before f after m c, s.flights = before ++ f :: after → f.cargo = .msg m → m.kind ≠ .error → (∀ g ∈ before, g.src.core ≠ f.src.core ∨ g.dst ≠ f.dst) →
      localCore s f.dst = some c → asleep s c = false → (getCore s c).twin = none → freeHelper s c ≠ none →
      let k := getCore s c
      let word := mapGetD k.classes m.cls 0
      let valid := word.getLsbD 63 = true
      let isOrd := word.getLsbD 62 = true
      let named := m.kind = .msg ∨ m.kind = .msgt
      let ordered := m.kind = .evtick ∨ (m.kind = .msgt ∧ isOrd)
      let slots := senderSlots k m.chn m.src.core
      let last := fun (k : Core) j => mapGetD k.senderLast j 0
      let no := absent s c = true ∨ resident s c = false ∨ (named ∧ ¬valid) ∨ (m.kind = .msg ∧ isOrd) ∨ (ordered ∧ (chanOrd k m.chn = false ∨ slots = []))
      let late := ordered ∧ ∃ j ∈ slots, m.ts < last k j
      let i := if m.kind = .evtick then Instr.evtickArrival before.length else if m.kind = .callat then .callatArrival before.length else .messageArrival before.length
      ∃ t, exec i s = .next t ∧ t.flights = before ++ after ∧ memoryKept s t ∧
        (no ∨ late → t.refused = s.refused ++ [⟨m.src, if no then ⟨14, false, BitVec.ofNat 64 m.dst⟩ else ⟨11, false, BitVec.ofNat 64 m.ts⟩,
          if m.kind = .callat then some m.call else none, none⟩] ∧ (getCore t c).senderLast = k.senderLast ∧ (getCore t c).queues = k.queues) ∧
        (¬no → ¬late → t.refused = s.refused ∧
          (∀ n, chanQueue (getCore t c) n = if n = m.chn ∧ m.kind ≠ .evtick then chanQueue k n ++ [m] else chanQueue k n) ∧
          (∀ j, last (getCore t c) j = if ordered ∧ j ∈ slots then m.ts else last k j) ∧
          (m.kind ≠ .evtick → ∀ p ∈ k.ctxs, p.2.status ≠ .free → ∃ q ∈ (getCore t c).ctxs, q.1 = p.1 ∧ q.2 = { p.2 with wake := p.2.wake ||| 1 })) ∧
        (∀ d, m.room = some d → mapGetD (getCore t d).reserved m.chn 0 = mapGetD (getCore s d).reserved m.chn 0 - 1)) ∧
    (∀ before r after id, s.refused = before ++ r :: after → findSender s r.dst = some id → (getCore s id.core).twin = none →
      let x := getCtx s id
      ∃ t, exec (.refusalReturn before.length) s = .next t ∧ t.refused = before ++ after ∧
        (getCtx t id).deferred = x.deferred ++ [⟨r.trap, none⟩] ∧ (∀ b, r.bar = some b → b < 8 → (vecGet (getCtx t id).bar b ⟨.unset, 0, 0⟩).st = .idle) ∧
        ∀ n a, r.call = some n → x.awaiting.find? (fun a => a.call = n) = some a → (getCtx t id).awaiting = x.awaiting.filter (fun a => a.call != n) ∧
          (getCtx t id).c = x.c ∧ (a.tok < 8 → vecGet (getCtx t id).k a.tok tokenReset =
            { vecGet x.k a.tok tokenReset with count := (vecGet x.k a.tok tokenReset).count - 1 })) ∧
    (∀ before d after id a, s.deposits = before ++ d :: after → findSender s d.dst = some id → (getCore s id.core).twin = none →
      (∀ q ∈ s.saved, ∀ k ∈ q.cores, savedUse k d.dst = false) →
      (getCtx s id).awaiting.find? (fun a => a.call = d.call) = some a → a.tok < 8 →
      let x := getCtx s id
      let tok := fun (z : Ctx) => vecGet z.k a.tok tokenReset
      ∃ t, exec (.callatDeposit before.length) s = .next t ∧ t.deposits = before ++ after ∧
        (getCtx t id).awaiting = x.awaiting.filter (fun b => b.call != d.call) ∧
        (∀ w, d.val = some w → readReg (getCtx t id) a.reg = (if a.reg = 0 then regNull else dataReg w) ∧ (getCtx t id).wake.getLsbD 2 = true ∧
          (∀ r, r ≠ a.reg → readReg (getCtx t id) r = readReg x r) ∧ tok (getCtx t id) = { tok x with count := (tok x).count - 1 }) ∧
        (d.val = none → (getCtx t id).c = x.c ∧ tok (getCtx t id) = ⟨(tok x).count - 1, true, 14, BitVec.ofNat 64 d.callee⟩))

/-- R36, R39, R40, R42 to R44, R47, R244: a dispatch starts the head of the channel whose turn it is in the lowest free helper, with its payload,
sender, class, channel and argument capability, all other registers zero. The first task in commit order whose timestamp is below HORIZON begins
to commit. A pending deferred fault is taken at its boundary. TIME reaches the time an IDLE names. -/
def Obligations.TasksStartAndCommit : Prop :=
  ∀ (s : State) (core cx : Nat),
    (∀ h chn m r, (getCore s core).twin = none → (getCore s core).isSealed = false → absent s core = false → inService s core = true →
      freeHelper s core = some h → nextChannel (getCore s core) = some chn → chanQueue (getCore s core) chn = m :: r → m.chn = chn →
      let k := getCore s core
      let wait := fun n => (n + 31 - mapGetD k.lastGrant (chanPrio k chn) 15) % 16
      let word := mapGetD k.classes m.cls 0
      (∀ n, n < 16 → chanQueue k n ≠ [] → chanPrio k n ≤ chanPrio k chn ∧ (chanPrio k n = chanPrio k chn → mapGetD k.lastGrant (chanPrio k chn) 15 < 16 → wait chn ≤ wait n)) ∧
      (getCtx s ⟨core, h⟩).status = .free ∧ 1 ≤ h ∧ h < 11 ∧ (∀ n, 1 ≤ n → n < h → (getCtx s ⟨core, n⟩).status ≠ .free) ∧
      ∃ t, exec (.taskDispatch core) s = .next t ∧ chanQueue (getCore t core) chn = r ∧ (∀ n, n ≠ h → getCtx t ⟨core, n⟩ = getCtx s ⟨core, n⟩) ∧
        let x := getCtx t ⟨core, h⟩
        x.status = .task ∧ (∀ j : BitVec 5, 1 ≤ j.toNat → j.toNat ≤ 4 → readReg x j = dataReg (m.payload.getD (j.toNat - 1) 0)) ∧
        readReg x 5 = dataReg (BitVec.ofNat 64 m.src.core) ∧ readReg x 6 = dataReg (BitVec.ofNat 64 (m.cls + 64 * chn)) ∧
        readReg x 7 = (match k.launch with
          | some l => l.arg
          | none => regNull) ∧ (∀ j : BitVec 5, 8 ≤ j.toNat → readReg x j = regNull) ∧ x.pending = [] ∧ x.tstamp = BitVec.ofNat 48 m.ts ∧
        x.pc = (if m.kind = .callat then m.entry else BitVec.ofNat 64 (word.toNat / 2 % 2 ^ 47 * 2)) ∧ x.trapvec = (getCtx s ⟨core, 0⟩).trapvec ∧
        isSpec x = (m.kind == .msgt && word.getLsbD 62)) ∧
    (∀ p, inService s core = true → (getCore s core).isSealed = false → (getCore s core).ctxs.find? (fun p => isSpec p.2 && match p.2.task with
        | some t => isFirst (getCore s core) t.msg && decide (t.msg.ts < horizon (getCore s core))
        | none => false) = some p →
      ∃ t, exec (.taskCommitBegin core) s = .next t ∧ isSpec (getCtx t ⟨core, p.1⟩) = false ∧ (∀ n, n ≠ p.1 → getCtx t ⟨core, n⟩ = getCtx s ⟨core, n⟩) ∧
        memoryKept s t) ∧
    (∀ (k : Core) (a b : Msg), commitBefore k a b = true ↔ a.ts < b.ts ∨ (a.ts = b.ts ∧ let first := fun m : Msg => (mapGetD k.classes m.cls 0).getLsbD 61
      (first a = true ∧ first b = false) ∨ (first a = first b ∧ (a.src.core < b.src.core ∨ (a.src.core = b.src.core ∧
        1 ≤ (b.seq + 2 ^ 32 - a.seq) % 2 ^ 32 ∧ (b.seq + 2 ^ 32 - a.seq) % 2 ^ 32 ≤ 2 ^ 31 - 1))))) ∧
    (let id : CtxId := ⟨core, cx⟩
     let x := getCtx s id
     (∀ d r, x.deferred = d :: r → d.copy = none → (∀ t, x.waiting ≠ some (.broken t)) → x.handler = false → isSpec x = false → x.trapvec ≠ 0 → (getCore s core).twin = none →
       ∃ t, exec (.deferredFaultEntry core cx) s = .next t ∧ getCtx t id =
         entered { x with deferred := r, task := x.task.map fun k => { k with fault := none } } d.trap true x.pc ∧ memoryKept s t) ∧
     (∀ w, x.idling = some (some w) → w ≤ s.mg.time → (getCore s core).twin = none →
       ∃ t, exec (.timeReached core cx) s = .next t ∧ getCtx t id = { x with wake := x.wake ||| 32 } ∧ memoryKept s t))

/-! ### Buffers, copies and pieces -/

/-- R107, R127, R129, R138, R144, R147, R252: the oldest entry leaves a store buffer, in order, once nothing that its core sent before within the die is on
its way or kept by a pair. A store to own cell memory is performed there and then; a
store to another core goes on its way, and a message and a barrier arrival do behind the REDs issued before them; a store to host memory, and one that
is served at its home slice, reach memory. A store that arrives is performed, or refused with MSGERR where no core takes it. A word owned for 50
microseconds is written back and marked shared, and an owned word of the same granule with it. Which cores refuse a store is the model's reading (log
56). -/
def Obligations.StoresLeaveTheBuffer : Prop :=
  ∀ (s : State) (core : Nat),
    let put := fun (m m' : Memory) (o : Nat) (l : List Byte) => ∀ a, memRead m' a = if o ≤ a ∧ a < o + l.length then l.getD (a - o) 0 else memRead m a
    let near := fun (d : Nat) => match localCore s d with
      | some c => dieOf c == dieOf core
      | none => false
    (dieOrderWaits s core = true ↔ (∃ g ∈ s.flights, g.inDie = true ∧ g.src.core = coreNum s core) ∨
      ∃ p ∈ s.cores, dieOf p.1 = dieOf core ∧ ∃ t, p.2.twin = some t ∧ ∃ k ∈ t.kept, keptSender k = some (coreNum s core)) ∧
    (dieOrderWaits s core = true → exec (.storeBufferDrain core) s = .next s) ∧
    (∀ e r, (getCore s core).buf = e :: r → (getCore s core).tail = none → dieOrderWaits s core = false →
      let x := exec (.storeBufferDrain core) s
      let leaves := fun (t : State) => (getCore t core).buf = r ∧ (∀ c, c ≠ core → (getCore t c).buf = (getCore s c).buf)
      let noRed := ∀ r ∈ s.reds, r.src = e.src → (getCore s core).left < r.behind
      (∀ o l cap rel, e.kind = .store (.cell (coreNum s core) o) l cap rel → Memory.wf (getCore s core).cell = true →
        (∀ q ∈ (getCore s core).ops, q.checked = false → ∀ b ∈ r, ∀ blk f, b.kind ≠ .wing q.id blk f) →
        ∃ t, x = .next t ∧ leaves t ∧ put (getCore s core).cell (getCore t core).cell o l ∧ t.mem = s.mem ∧ ∀ c, c ≠ core → (getCore t c).cell = (getCore s c).cell) ∧
      (∀ d o l cap rel, e.kind = .store (.cell d o) l cap rel → d ≠ coreNum s core →
        ∃ t, x = .next t ∧ leaves t ∧ memoryKept s t ∧ t.flights = s.flights ++ [⟨e.src, d, .store o l cap, near d⟩]) ∧
      (∀ m, e.kind = .msg m → near m.dst = true → noRed →
        ∃ t, x = .next t ∧ leaves t ∧ memoryKept s t ∧ t.flights = s.flights ++ [⟨e.src, m.dst, .msg m, true⟩]) ∧
      (∀ n count home, e.kind = .arrive n count home → near home = true → noRed →
        ∃ t, x = .next t ∧ leaves t ∧ memoryKept s t ∧ t.flights = s.flights ++ [⟨e.src, home, .arrive n count, true⟩]) ∧
      (∀ pa uc key l cap, e.kind = .store (.phys pa uc key) l cap none → isHost pa = true → Memory.wf s.mem.host = true →
        ∃ t, x = .next t ∧ leaves t ∧ put s.mem.host t.mem.host (pa % 2 ^ 51) l ∧ t.mem.hbm = s.mem.hbm) ∧
      (∀ pa uc l cap, e.kind = .store (.phys pa uc 0) l cap none → isHost pa = false → pa < s.mem.hbmtop.toNat → (uc = true ∨ homeDie pa = dieOf core) →
        isLeased s pa l.length = false → s.mem.reduce = [] → s.mem.far = [] → s.mem.sectorKey = [] → Memory.wf s.mem.hbm = true →
        ∃ t, x = .next t ∧ leaves t ∧ put s.mem.hbm t.mem.hbm pa l ∧ t.mem.host = s.mem.host)) ∧
    (∀ before f after o l cap c, s.flights = before ++ f :: after → f.cargo = .store o l cap → (∀ g ∈ before, g.src.core ≠ f.src.core ∨ g.dst ≠ f.dst) →
      localCore s f.dst = some c → asleep s c = false → (getCore s c).twin = none →
      let saved := ∃ w, (getCore s c).launch = some w ∧ w.saved = true
      let no := absent s c = true ∨ (getCore s c).isSealed = true ∨ saved
      ∃ t, exec (.remoteStoreArrival before.length) s = .next t ∧ t.flights = before ++ after ∧ t.mem = s.mem ∧
        (no → t.refused = s.refused ++ [⟨f.src, ⟨14, false, BitVec.ofNat 64 f.dst⟩, none, none⟩] ∧ memoryKept s t) ∧
        (¬no → Memory.wf (getCore s c).cell = true → t.refused = s.refused ∧ put (getCore s c).cell (getCore t c).cell o l ∧
          ∀ d, d ≠ c → (getCore t d).cell = (getCore s d).cell)) ∧
    (∀ die word w, farGet s die word = some w → w.owned = true → w.since.toNat + 50000 ≤ s.mg.time.toNat → isLeased s (word * 8) 8 = false →
      let goes := fun v => v = word ∨ v = otherWord word
      (∀ v f, goes v → farGet s die v = some f → f.key = 0) → s.mem.sectorKey = [] → Memory.wf s.mem.hbm = true →
      ∃ t, exec (.ownedWordTimeout die word) s = .next t ∧
        (∀ v, farGet t die v = if goes v then (farGet s die v).map (fun f => { f with owned := false }) else farGet s die v) ∧
        ∀ a, memRead t.mem.hbm a = match farGet s die (a / 8) with
          | some f => if goes (a / 8) ∧ f.owned = true then (toBytes f.data.toNat 8).getD (a % 8) 0 else memRead s.mem.hbm a
          | none => memRead s.mem.hbm a)

/-- R110, R162 to R166, R170, R171, R192: a piece of a copy starts in the order of its runs, at most four at a time, cut at the bank boundaries of its source and,
in global memory, at its page's end, with its source bytes read then; one that fails, as one from the undo log of a
twinned core does (R110, log 21), stops its copy and its context takes the fault deferred, with the absolute address as TRAPVAL (log 86). A piece that reaches a bank boundary of its destination is cut there. One that arrives writes its bytes at its place; a target that takes none ends
the copy with MSGERR. With its last piece the copy completes, once no pair keeps bytes of its sender for a checkpoint, and its token loses the operation; pieces that carry scales arrive and complete in the
order of their emission. A tile fetch completes when every word of its lines is in the far ways of its die. That the cut at a destination bank is
made when the piece arrives is the model's reading (log 74). -/
def Obligations.PiecesOfCopies : Prop :=
  ∀ (s : State) (core id : Nat) (q : Copy), findCopy s core id = some q →
    let put := fun (m m' : Memory) (o : Nat) (l : List Byte) => ∀ a, memRead m' a = if o ≤ a ∧ a < o + l.length then l.getD (a - o) 0 else memRead m a
    let bank := fun (w : W64) => 65536 - w.toNat % 65536
    let cell := fun (z : State) (c : Nat) => (getCore z c).cell
    let place := fun (r : Run) => r.dst.toNat % 2 ^ 20 + r.slot
    let parts := fun (r : Run) => if q.kind = .send ∨ q.kind = .spread then (place r % 65536 + r.len + 65535) / 65536 else 1
    let room := fun (r : Run) => (q.flying.map fun f => parts f.run).sum + parts r ≤ 4
    let rest := fun (r : Run) (far : Bool) (n : Nat) => if r.len ≤ n then [] else
      [({ r with src := r.src + BitVec.ofNat 64 n, dst := if far then r.dst + BitVec.ofNat 64 n else r.dst, slot := if far then r.slot else r.slot + n, len := r.len - n } : Run)]
    (∀ r l, q.runs = r :: l → q.fault = none → isFetch q = false →
      let at_ := { s with cur := ⟨core, q.src.cx⟩ }
      let log := undoLog s (coreNum s core) r.src.toNat (min r.len (bank r.src)) = true
      let began := fun (t : State) (p : Piece) (far : Bool) (n : Nat) (data : List Byte) =>
        p.run = { r with len := n } ∧ p.data = data ∧ p.done = false ∧ findCopy t core id = some { q with runs := rest r far n ++ l, flying := q.flying ++ [p] }
      ((q.kind = .send ∨ q.kind = .spread ∨ ∃ j, q.kind = .sends j) → ¬log → let n := min r.len (bank r.src)
        (room { r with len := n } → ∃ t p, exec (.copyPieceStart core id) s = .next t ∧ began t p false n (memReads (cell s core) r.src.toNat n) ∧ memoryKept s t) ∧
        (¬room { r with len := n } → exec (.copyPieceStart core id) s = .next s)) ∧
      (∀ pa uc key left z, q.kind = .xput → ¬log → pieceTranslate q.queue core r.dst accCopyDst at_ = .ok (pa, uc, key, left) z → z.cores = s.cores → q.flying.length < 4 →
        let n := min (min r.len left) (bank r.src)
        ∃ t p, exec (.copyPieceStart core id) s = .next t ∧ began t p true n (memReads (cell s core) r.src.toNat n) ∧ p.place = some (.phys pa uc key)) ∧
      (∀ pa uc key left z, q.kind = .xget → pieceTranslate q.queue core r.src accCopySrc at_ = .ok (pa, uc, key, left) z → z.cores = s.cores → isHost pa = true →
        q.flying.length < 4 → 0 < r.len → 0 < left →
        let n := min (min r.len left) (65536 - r.dst.toNat % 65536)
        ∃ t p, exec (.copyPieceStart core id) s = .next t ∧ began t p true n (memReads z.mem.host (pa % 2 ^ 51) n)) ∧
      (∀ f z c, (q.kind = .xget ∧ pieceTranslate q.queue core r.src accCopySrc at_ = .error (.trap f) z) ∨
          (q.kind = .xput ∧ ¬log ∧ pieceTranslate q.queue core r.dst accCopyDst at_ = .error (.trap f) z) ∨
          (q.kind ≠ .xget ∧ log ∧ f = ⟨4, false, meshAddr (coreNum s core) r.src.toNat⟩ ∧ z = s) → z.cores = s.cores → z.device = s.device → findSender s q.src = some c →
        ∃ t, exec (.copyPieceStart core id) s = .next t ∧ findCopy t core id = some { q with fault := some f } ∧ ⟨f, some q.id⟩ ∈ (getCtx t c).deferred)) ∧
    (∀ before p after, q.flying = before ++ p :: after → p.done = false →
      let whole := fun (a : Nat) => q.ragged = [] ∧ ((a % 8 = 0 ∧ p.data.length % 8 = 0) ∨ (q.all = [p.run] ∧ p.run.len = p.data.length))
      let there := { q with flying := before ++ { p with done := true } :: after }
      (∀ c, localCore s p.run.target = some c → asleep s c = false → (getCore s c).twin = none → q.kind = .send ∨ q.kind = .spread ∨ q.kind = .xget →
        p.scales = [] → p.band = false → q.scaled = false → p.run.target ∉ q.failed →
        let o := place p.run
        let m := 65536 - o % 65536
        let saved := ∃ w, (getCore s c).launch = some w ∧ w.saved = true
        let no := absent s c = true ∨ (getCore s c).isSealed = true ∨ saved
        (no → ∃ t, exec (.copyPieceArrival core id before.length) s = .next t ∧ memoryKept s t ∧ findCopy t core id =
          some { there with runs := [], failed := p.run.target :: q.failed, err := some ⟨14, false, BitVec.ofNat 64 p.run.target⟩ }) ∧
        (¬no → (getCore s c).bfmt = [] → q.dstFmts = [] → p.data.length ≤ m → whole o → Memory.wf (cell s c) = true →
          ∃ t g, exec (.copyPieceArrival core id before.length) s = .next t ∧ t.mem = s.mem ∧ put (cell s c) (cell t c) o p.data ∧
            (∀ d, d ≠ c → cell t d = cell s d) ∧ findCopy t core id = some { there with dstFmts := g }) ∧
        (¬no → (getCore s c).bfmt = [] → q.dstFmts = [] → m < p.data.length →
          ∃ t g, exec (.copyPieceArrival core id before.length) s = .next t ∧ memoryKept s t ∧ findCopy t core id = some { q with
            dstFmts := g
            flying := before ++ [{ p with run := { p.run with len := m }, data := p.data.take m },
              { p with
                run := { p.run with src := p.run.src + BitVec.ofNat 64 m, slot := p.run.slot + m, len := p.run.len - m }
                data := p.data.drop m }] ++ after })) ∧
      (∀ pa uc key, q.kind = .xput → p.place = some (.phys pa uc key) → isHost pa = true → p.data ≠ [] → s.mem.far = [] → Memory.wf s.mem.host = true →
        whole pa →
        ∃ t, exec (.copyPieceArrival core id before.length) s = .next t ∧ put s.mem.host t.mem.host (pa % 2 ^ 51) p.data ∧ t.mem.hbm = s.mem.hbm ∧
          findCopy t core id = some there)) ∧
    (∀ before p after, q.flying = before ++ p :: after →
      let earlier := p.band = true ∧ ∃ k ∈ (getCore s core).copies, ∃ r ∈ k.flying, r.band = true ∧ r.run.target = p.run.target ∧ r.ord < p.ord
      let kept := q.kind ≠ .xput ∧ keptFrom s p.run.target q.src = true
      (p.done = true → ¬kept → p.band = false → ∀ c, (getCore s core).copies = [q] → q.runs = [] → before ++ after = [] → q.fault = none → findSender s q.src = some c → q.tok < 8 →
        let k := vecGet (getCtx s c).k q.tok tokenReset
        ∃ t, exec (.copyPieceComplete core id before.length) s = .next t ∧ (getCore t core).copies = [] ∧ memoryKept s t ∧
          vecGet (getCtx t c).k q.tok tokenReset = (match q.err with
            | none => { k with count := k.count - 1 }
            | some e => ⟨k.count - 1, true, e.code, e.val⟩) ∧ (k.count = 1 → (getCtx t c).wake.getLsbD 1 = true)) ∧
      (p.done = true → ¬kept → ¬earlier → q.runs ≠ [] ∨ before ++ after ≠ [] →
        ∃ t, exec (.copyPieceComplete core id before.length) s = .next t ∧ findCopy t core id = some { q with flying := before ++ after }) ∧
      (p.done = false ∨ kept ∨ earlier → exec (.copyPieceComplete core id before.length) s = .next s)) ∧
    (∀ r c, isFetch q = true → (getCore s core).copies = [q] → q.runs = [r] → q.flying = [] → q.fault = none → findSender s q.src = some c → q.tok < 8 →
      let pa := r.src.toNat
      let die := dieOf core
      isHost pa = false → pa < s.mem.hbmtop.toNat → pa % 128 = 0 → die < 4 → homeDie pa ≠ die → r.target ≠ 1 → (vecGet s.mem.l2ways die 0).toNat % 16 ≠ 0 →
      isLeased s pa 128 = false → s.mem.reduce = [] → s.mem.badSectors = [] → s.mem.poisoned = [] → s.mem.sectorKey = [] → s.mem.far = [] → r.slot = 0 →
      let k := vecGet (getCtx s c).k q.tok tokenReset
      ∃ t, exec (.tfetchComplete core id) s = .next t ∧ (getCore t core).copies = [] ∧ (vecGet (getCtx t c).k q.tok tokenReset).count = k.count - 1 ∧
        ∀ j, j < 16 → ∃ w, farGet t die (pa / 8 + j) = some w ∧ w.data = BitVec.ofNat 64 (ofBytes (memReads s.mem.hbm (pa + 8 * j) 8)))

/-- R158, R159, R177, R180: a lease request takes its units one after another in order of arrival, waiting at one that a lease holds; with all of
them the lease takes effect, its expiry counting from then, its buffers zero, in all-bank mode if it is an ALL lease, and the home's L2 drops every line of its rows, with what poisoned ones told of their
sectors (R115). When its time has passed,
its command in progress and its results are gone and it stays bound and expired. -/
def Obligations.BankLeasesTakeEffect : Prop :=
  ∀ (s : State),
    (∀ before l after, s.leases = before ++ l :: after → l.granted = false → l.expired = false → (∀ k ∈ before ++ after, k.id ≠ l.id) →
      let x := exec (.bankLeaseGrant before.length) s
      (∀ u k, l.units[l.took]? = some u → k ∈ before ++ after → k.granted = true → k.expired = false → u ∈ k.units → x = .next s) ∧
      (∀ c, l.took ≤ l.units.length → l.units.length ≤ 16 → (∀ u ∈ l.units, u < 2 ^ 13 ∧ ∀ k ∈ before ++ after, u ∉ k.units) → findSender s l.holder = some c →
        ∃ t, x = .next t ∧ (getCtx t c).waiting = some (.leased l.port) ∧ (∀ k, k ∈ t.leases ↔ k ∈ before ++ after ∨ k = { l with
          took := l.units.length
          granted := true
          since := s.mg.time
          allMode := l.isAll
          bank := 0
          vbufs := [] }) ∧ (s.mem.reduce = [] → t.mem = { s.mem with
          poisoned := s.mem.poisoned.filter fun p => !((l.rows.flatMap id).any fun g => decide (g / 128 ≤ p.1 / 2 ∧ p.1 / 2 < g / 128 + 8)) }))) ∧
    (∀ id l, leaseById s id = some l → l.since.toNat + 1000 * l.micros ≤ s.mg.time.toNat → inUse s l.holder = true →
      ∃ t, exec (.bankLeaseExpiry id) s = .next t ∧ memoryKept s t ∧ t.leases = s.leases.map fun k => if k.id = l.id then { l with
        expired := true
        words := []
        current := none
        results := []
        vbufs := []
        rows := []
        units := [] } else k)

/-- R178, R179, R182, R183: the commands of a bank unit. A command word yields the lowest of the codes it meets, one error word per addressed
unit; MODE changes the addressed units; VBW takes its data words into their buffers; VBL loads leased rows; DOT yields one word per unit; WRW
writes one word of a row. A result that finds no room waits. R179: the value of DOT. No product gives +0.0, one product is exact; 48 products of
which lane 0 sums 1, 2^-11 and 2^-11 in turn give the word of the rule; a product that is a NaN is canonical; the order of additions is by lanes
of 16. The lowest of several codes is the model's reading (log 35). -/
def Obligations.BankCommandsRun : Prop :=
  (∀ (s : State) (id : Nat) (l : Lease) (w : W64) (rest : List W64), leaseById s id = some l → l.current = none → l.words = w :: rest →
    let f : Nat → Nat → Nat := fun hi lo => w.toNat / 2 ^ lo % 2 ^ (hi + 1 - lo)
    let op := f 63 60
    let n := l.rows.length
    let i := f 53 48
    let reserved := (op = 0 ∧ f 59 5 ≠ 0) ∨ (op = 1 ∧ (f 59 58 ≠ 0 ∨ f 47 8 ≠ 0)) ∨ (op = 2 ∧ (f 59 54 ≠ 0 ∨ f 47 11 ≠ 0 ∨ f 7 3 ≠ 0)) ∨
      (op = 3 ∧ (f 59 54 ≠ 0 ∨ f 47 41 ≠ 0 ∨ f 31 28 ≠ 0 ∨ f 15 13 ≠ 0)) ∨ (op = 4 ∧ (f 59 54 ≠ 0 ∨ f 47 47 ≠ 0 ∨ f 39 0 ≠ 0)) ∨ (4 < op ∧ f 59 0 ≠ 0)
    let row := ((op = 3 ∨ op = 4) ∧ n ≤ i) ∨ (op = 2 ∧ n < i + f 2 0 + 1)
    let size := (op = 3 ∧ (4096 < f 12 0 ∨ 4096 < f 27 16 + f 12 0 ∨ n * 512 < i * 512 + f 40 32 + f 12 0)) ∨ (op = 1 ∧ (f 7 0 = 0 ∨ 1024 < f 57 48 + f 7 0)) ∨
      (op = 2 ∧ 8 < f 10 8 + f 2 0 + 1)
    let units := if l.isAll = false then [0] else if l.allMode = true then List.range 16 else [l.bank]
    let code := cmdError l w
    let buf := fun (l : Lease) u e => mapGetD (mapGetD l.vbufs u []) e 0
    let seg := fun r u => (l.rows.getD r []).getD u 0
    let half := fun pa => BitVec.ofNat 16 (ofBytes (memReads s.mem.hbm pa 2))
    let room := l.results.length + units.length ≤ 64
    let clean := s.mem.badSectors = [] ∧ s.mem.poisoned = [] ∧ s.mem.sectorKey = []
    (reserved → code = 1) ∧ (¬reserved → row → code = 2) ∧ (¬reserved → ¬row → size → code = 3) ∧
    (¬reserved → op = 0 → code = if l.isAll = false then 4 else 0) ∧ (¬reserved → 4 < op → code = 5) ∧ (¬reserved → ¬row → ¬size → 1 ≤ op → op ≤ 4 → code = 0) ∧
    (code ≠ 0 → (room → op ≠ 1 → op ≠ 4 → ∃ t, exec (.bankCommandError id) s = .next t ∧ memoryKept s t ∧ leaseById t id = some { l with
        words := rest
        results := l.results ++ units.map fun _ => BitVec.ofNat 64 (2 ^ 63 + code) }) ∧
      (¬room → exec (.bankCommandError id) s = .next s) ∧
      (room → ∀ data more, rest = data ++ more → (op = 1 ∧ data.length = f 7 0) ∨ (op = 4 ∧ data.length = 1) →
        ∃ t, exec (.bankCommandError id) s = .next t ∧ memoryKept s t ∧ leaseById t id = some { l with
          words := more
          results := l.results ++ units.map fun _ => BitVec.ofNat 64 (2 ^ 63 + code) })) ∧
    (code = 0 → op = 0 → l.results.length ≤ 64 → ∃ t, exec (.mode id) s = .next t ∧ memoryKept s t ∧ leaseById t id = some { l with
      words := rest
      allMode := f 4 4 == 1
      bank := f 3 0 }) ∧
    (code = 0 → op = 1 → l.results.length ≤ 64 → ∀ data more, rest = data ++ more → data.length = f 7 0 → ∃ t g, exec (.vbw id) s = .next t ∧ memoryKept s t ∧ leaseById t id = some g ∧
      g.words = more ∧ g.results = l.results ∧ ∀ u e, buf g u e = if u ∈ units ∧ 4 * f 57 48 ≤ e ∧ e < 4 * (f 57 48 + f 7 0)
        then BitVec.ofNat 16 ((data.getD (e / 4 - f 57 48) 0).toNat / 2 ^ (16 * (e % 4))) else buf l u e) ∧
    (code = 0 → op = 2 → l.results.length ≤ 64 → clean → ∃ t g, exec (.vbl id) s = .next t ∧ memoryKept s t ∧ leaseById t id = some g ∧ g.words = rest ∧ g.results = l.results ∧
      ∀ u e, let at_ := e - 512 * f 10 8
        buf g u e = if u ∈ units ∧ 512 * f 10 8 ≤ e ∧ e < 512 * (f 10 8 + f 2 0 + 1) then half (seg (i + at_ / 512) u + 2 * (at_ % 512)) else buf l u e) ∧
    (code = 0 → op = 3 → clean → (room → ∃ t, exec (.dot id) s = .next t ∧ memoryKept s t ∧ leaseById t id = some { l with
        words := rest
        results := l.results ++ units.map fun u => dotValue ((List.range (f 12 0)).map fun p => let e := f 40 32 + p
          (half (seg (i + e / 512) u + 2 * (e % 512)), buf l u (f 27 16 + p))) }) ∧ (¬room → exec (.dot id) s = .next s)) ∧
    (code = 0 → op = 4 → l.results.length ≤ 64 → s.mem.sectorKey = [] → Memory.wf s.mem.hbm = true → l.isAll = false → ∀ v more, rest = v :: more →
      ∃ t, exec (.wrw id) s = .next t ∧ leaseById t id = some { l with words := more } ∧ t.mem.host = s.mem.host ∧
        ∀ a, let o := seg i 0 + 8 * f 46 40
          memRead t.mem.hbm a = if o ≤ a ∧ a < o + 8 then (toBytes v.toNat 8).getD (a - o) 0 else memRead s.mem.hbm a)) ∧
  (let one : BitVec 16 := 0x3C00
  let tiny : BitVec 16 := 0x1000
  let row := fun (p : Nat) => if p = 0 then one else if p = 16 ∨ p = 32 then tiny else 0
  dotValue [] = 0 ∧ dotValue [(0x8000, one)] = 0x80000000 ∧ dotValue [(0x3555, 0x3555)] = 0x3DE371C8 ∧ dotValue [(0x7E01, one)] = 0x7FC00000 ∧
    dotValue ((List.range 48).map fun p => (row p, one)) = 0x3F802000 ∧
    ∀ (p : List (BitVec 16 × BitVec 16)), (∀ e ∈ p, e.2 = 0 ∧ e.1.toNat < 0x7C00) → dotValue p = 0)

/-! ### Wings -/

/-- R18, R23, R134: the dispatch slot of a wing goes to the first front after the one granted last, by position code, that has a ready operation; an
array operation granted joins the wing's order. A granted vector or matrix operation leaves its wing when it completes. R128, R133, R212, R221,
R232: an array operation that has its grant and its check and that no earlier operation of the wing holds back completes: its sub-array takes its
rows and latches, a BPST fills its entries of the store buffer, and it leaves the wing (BPLD's columns hold their elements, extended by SGN and cut to the field's width); one that meets an uncorrectable row leaves every row that
depends on it as it was, writes an error record of type 1, and its context takes UE deferred. That a vector or matrix operation of a front takes the
slot before its oldest array operation is the model's choice (log 73), and so are that the slot of a composite is its first half's (log 21), how far an operation stopped between two row steps has come and
which of the rows that do not depend on the error it wrote (logs 14, 31). -/
def Obligations.WingsGrantAndFinish : Prop :=
  (∀ (s : State) (site : Nat),
    let w := getWing s site
    let ready := (nearSites site).filter (frontReady s site)
    let wait := fun front => (frontCode site front + 17 - w.grantPtr) % 9
    let waits := fun p : OpPart => p.wing.head? = some site ∧ p.granted = false ∧ p.done = false
    let x := exec (.wingDispatchGrant site) s
    (ready = [] → x = .next s) ∧
    (∀ front ∈ ready, ∃ c, coreAtSite s front = some c ∧ (getCluster s (clusterOf front)).current ≠ 5 ∧ (getCluster s (clusterOf front)).throttled = false ∧
      ((∃ m ∈ (getCore s c).marks, m.site = site ∧ m.granted = false) ∨ ∃ o ∈ (getCore s c).ops, ∃ p ∈ o.parts, waits p)) ∧
    (site < 1088 → w.grantPtr < 9 → ∀ front ∈ ready, (∀ g ∈ ready, wait front ≤ wait g) → ∀ c, coreAtSite s front = some c →
      let k := getCore s c
      (∀ l m r, k.marks = l ++ m :: r → m.site = site → m.granted = false → (∀ o ∈ l, o.site ≠ site ∨ o.granted = true) →
        ∃ t, x = .next t ∧ getCore t c = { k with marks := l ++ { m with granted := true } :: r } ∧ getWing t site = { w with grantPtr := frontCode site front } ∧
          memoryKept s t) ∧
      (∀ l op r before p after, (∀ m ∈ k.marks, m.site ≠ site ∨ m.granted = true) → k.ops = l ++ op :: r → (∀ o ∈ l ++ r, o.id ≠ op.id) →
        op.parts = before ++ p :: after → p.wing = [site] → waits p → (∀ q ∈ before ++ after, ¬waits q) → (∀ o ∈ l, ∀ q ∈ o.parts, ¬waits q) →
        op.checked = true ∨ (∃ q ∈ before ++ after, q.granted = false) →
        ∃ t, x = .next t ∧ (getCore t c).ops = l ++ { op with parts := before ++ { p with granted := true } :: after } :: r ∧
          getWing t site = { w with
            grantPtr := frontCode site front
            order := w.order ++ [(c, op.id)] } ∧ memoryKept s t)) ∧
    (∀ c l m r, (getCore s c).marks = l ++ m :: r → l.length < 256 → m.site = site → m.granted = true →
      ∃ t, exec (.wingOperationComplete site (256 * c + l.length)) s = .next t ∧ getCore t c = { getCore s c with marks := l ++ r } ∧ memoryKept s t)) ∧
  (∀ (s : State) (site c id : Nat) (after : List (Nat × Nat)) (op : ArrayOp) (sub : Nat), (getWing s site).order = (c, id) :: after → findOp s c id = some op →
    op.parts = [{ wing := [site], granted := true }] → op.out = [] → op.checked = true → subsOf s (siteOf s c) op.d = [(site, sub)] →
    let x := exec (.arrayOpComplete site 0) s
    let wing := getWing s site
    let row := op.d.toNat % 2 ^ 9
    let width := op.d.toNat / 2 ^ 9 % 32 + 1
    let field := fun (w : Wing) k => ((List.range width).map fun j => if (rowGet w sub (row + j)).getLsbD k then 2 ^ j else 0).sum
    let val : Nat → Int := fun k => if op.d.getLsbD 14 then (BitVec.ofNat width (field wing k)).toInt else field wing k
    (∀ k, arrayKind op.instr = some k → wing.badRows = [] →
      let done := subArrayOp op k wing wing sub 0 0 width true true (rowOf (colActive wing sub op.d)) 0 0
      ∃ t, x = .next t ∧ findOp t c id = none ∧ (c, id) ∉ (getWing t site).order ∧ (writesRows k = true → memoryKept s t) ∧
        (∀ r, rowGet (getWing t site) sub r = rowGet done sub r) ∧ mapGetD (getWing t site).latch sub 0 = mapGetD done.latch sub 0) ∧
    (∀ a m es pat y, op.instr = .bpld a m es pat y → wing.badRows = [] → mapSorted wing.rows = true → row + width ≤ 512 →
      (∀ j, j < width → row + j ≠ 508 ∧ row + j ≠ 509) → ∃ t, x = .next t ∧ ∀ n, n < 512 → field (getWing t site) n = (match mapGet op.cols n with
        | none => field wing n
        | some e => ((if op.d.getLsbD 14 then (BitVec.ofNat (8 * 2 ^ es.toNat) e).toInt else (e : Int)) % (2 ^ width : Nat)).toNat)) ∧
    (∀ a m es y src blk n o, op.instr = .bpst a m es y → wing.badRows = [] → (getCore s c).twin = none → op.cols = [(n, o)] → n < 512 →
      ⟨src, .wing id blk none⟩ ∈ (getCore s c).buf → ∃ t g, x = .next t ∧ memoryKept s t ∧ ⟨src, .wing id blk (some g)⟩ ∈ (getCore t c).buf ∧
        ∀ i, mapGet g i = if blk * 64 + i < o ∨ o + 2 ^ es.toNat ≤ blk * 64 + i ∨ 64 ≤ i then none
          else some (BitVec.ofInt 8 (val n / 2 ^ (8 * (blk * 64 + i - o))))) ∧
    (∀ k n j, arrayKind op.instr = some k → badStop s [(0, site, sub)] op k = some n → findSender s op.src = some ⟨c, j⟩ → (getCore s c).twin = none →
      ∃ t r, x = .next t ∧ t.mg.rechead = s.mg.rechead + 1 ∧ t.mg.oob = s.mg.oob ++ [r] ∧ r.num = s.mg.rechead.toNat ∧ (r.dwords.headD 0).toNat % 2 ^ 16 = 15 * 2 ^ 8 + 1 ∧
        findOp t c id = none ∧ (∀ r, r < row ∨ row + n ≤ r → rowGet (getWing t site) sub r = rowGet wing sub r) ∧
        (getCtx t ⟨c, j⟩).deferred = (getCtx s ⟨c, j⟩).deferred ++ [⟨⟨15, false, BitVec.ofNat 64 s.mg.rechead.toNat⟩, none⟩]))

/-! ### Pre-emption, pairs, containment -/

/-- R249 to R251, R254, R278: a pre-emption request of an unknown launch reports 2, one whose area cannot serve reports 1 and the launch runs on,
and one whose cores stop saves every core of the launch, with its registers and its cell memory, frees it, and reports 0. The save writes each core's
cell memory and context records to its area as R251 lays them out, and with WINGSAVE one image of each wing. A saved launch whose turn it is comes
back, core by core and wing by wing: the cell memory, the registers and the program counter as its area holds them, the accumulators and rows as its
images do; so does a context that was free when it was saved and whose record has been written over. A debug step restores, runs one turn of the context that it names and of no other, and saves. What a save waits for, how a debug step
counts, PSTAT of an unknown launch, and the wake events in a record are the model's reading (logs 15, 47, 48). -/
def Obligations.LaunchesAreSavedAndRestored : Prop :=
  ∀ (s : State) (id : BitVec 32) (ws : Bool),
    let report := fun (a t : State) (code : Nat) => t.mg.pstat = BitVec.ofNat 9 (code + if a.saved = [] then 0 else 256) ∧ t.mg.preq.getLsbD 33 = false ∧
      t.mg.msix = a.mg.msix ++ [17]
    let x := exec (.preemptRequest id ws) s
    let area := fun (l : Launch) => areaGood s l ((launchCores s l.id).filter fun c => (dCores l.desc).contains c)
    let at_ := fun (l : Launch) num => (dChry l.desc).toNat + (num - dBase l.desc) * 0x400000
    let bit := fun (b : Bool) => if b then 1 else 0
    let frame := fun (x : Ctx) => x.lframe.e1 % 128 + x.lframe.e2 % 128 * 2 ^ 8 + x.lframe.e3 % 128 * 2 ^ 16
    let ksum := fun (x : Ctx) => ((List.range 8).map fun j => bit ((vecGet x.k j tokenReset).count == 0) * 2 ^ j + bit (vecGet x.k j tokenReset).err * 2 ^ (8 + j)).sum
    let code := fun (x : Ctx) => match x.status with
      | .free => 0
      | .live => 1
      | .joinable => 2
      | .task => 3
    let savedAll := fun (a z : State) (l : Launch) => mapSorted a.cores = true → a.saved = [] → z.mg.pstat.getLsbD 8 = true ∧ ∃ v, z.saved = [v] ∧ v.id = l.id ∧
      ∀ c k, mapGet a.cores c = some k → k.isSealed = false → k.buf = [] → (∃ r, k.launch = some r ∧ r.id = l.id ∧ r.saved = false) →
        (∀ n, (getCtx z ⟨c, n⟩).status = .free) ∧ (getCore z c).cell = k.cell ∧ (∃ r, (getCore z c).launch = some r ∧ r.saved = true) ∧
        ∃ e ∈ v.cores, e.number = coreNum a c ∧ e.core.cell = k.cell ∧ e.core.bfmt = k.bfmt ∧
          ∀ n y, mapGet k.ctxs n = some y → ∃ g, mapGet e.core.ctxs n = some g ∧ g.c = (landAll y).c ∧ g.pending = [] ∧ g.pc = y.pc ∧ g.v = y.v ∧ g.k = y.k
    -- PREEMPT_REQUEST
    (runningLaunch s id.toNat = none → ∃ t, x = .next t ∧ t.cores = s.cores ∧ report s t 2 ∧ memoryKept s t) ∧
    (∀ l, runningLaunch s id.toNat = some l → ((dChry l.desc).toNat % 0x400000 ≠ 0 ∨ 2 ^ 48 ≤ (dChry l.desc).toNat) →
      ∃ t, x = .next t ∧ t.cores = s.cores ∧ report s t 1 ∧ memoryKept s t) ∧
    (∀ l a, runningLaunch s id.toNat = some l → area l = some (false, a) → ∃ t, x = .next t ∧ t.cores = a.cores ∧ report a t 1) ∧
    (∀ l, runningLaunch s id.toNat = some l → (area l = none ∨ ∃ a, area l = some (true, a) ∧ saveLaunch a l ws = none) → ∃ t, x = .next t ∧ t.cores = s.cores ∧ t.mg.preq.getLsbD 33 = true) ∧
    (∀ l a z, runningLaunch s id.toNat = some l → area l = some (true, a) → saveLaunch a l ws = some z →
      (∃ t, x = .next t ∧ t.cores = z.cores ∧ t.saved = z.saved ∧ report z t 0) ∧ savedAll a z l) ∧
    -- what a save writes
    (∀ l z, saveLaunch s l ws = some z →
      let cs := launchCores s l.id
      let b := cs.foldl (fun a c => stopCore a s.pendOrder c) { s with pendOrder := s.pendOrder + 1 }
      ∃ w d ks e, (if ws then saveWings b l (wingSavers b (cs.filter fun c => (dCores l.desc).contains c)) else some ([], b)) = some (w, d) ∧
        saveCores d l s.pendOrder cs = some (ks, e) ∧ z.mem = e.mem ∧ z.saved = e.saved ++ [⟨l.id, ks, w⟩]) ∧
    (∀ l m c r, saveCores s l m (c :: r) = (saveCore s l m c).bind fun p => (saveCores p.2 l m r).map fun q => (p.1 :: q.1, q.2)) ∧
    (∀ cs c, c ∈ wingSavers s cs ↔ c ∈ cs ∧ ∀ d ∈ cs, memWing s d = memWing s c → c ≤ d) ∧
    (let byte := fun (l : List (Nat × List Byte)) o => (l.find? fun p => decide (p.1 ≤ o) && decide (o < p.1 + p.2.length)).map fun p => p.2.getD (o - p.1) 0
     let val := fun (l : List (Nat × List Byte)) o n => ofBytes ((List.range n).map fun i => (byte l (o + i)).getD 0)
     (∀ l m c k z, saveCore s l m c = some (k, z) → let num := coreNum s c
       let own := dBase l.desc ≤ num ∧ num - dBase l.desc < dCount l.desc
       (¬own → z.mem = s.mem) ∧
       (own → ∃ parts u, areaWrites l.queue c (at_ l num) parts s = .ok () u ∧ z.mem = u.mem ∧
         (∀ j, j < 0x100000 → byte parts j = some (memRead (getCore s c).cell j)) ∧
         ((∀ p ∈ (getCore s c).ctxs, p.2.ldepth = 0) → ∀ o, 0x170000 ≤ o → byte parts o = none) ∧
         ∀ n, n < 11 →
           let x := landAll (getCtx s ⟨c, n⟩)
           let f := fun off size => val parts (0x100000 + n * 0x4000 + off) size
           f 0x210 8 = code x + bit x.handler * 4 + bit (hasLease s (senderOf s ⟨c, n⟩)) * 8 + (if x.deferred = [] then 0 else 16) ∧
           (x.status = .free → ∀ o, o < 0x4000 → byte parts (0x100000 + n * 0x4000 + o) ≠ none → 0x210 ≤ o ∧ o < 0x218) ∧
           (x.status ≠ .free → f 0x208 8 = x.pc.toNat ∧
             (∀ r, r < 32 → f (16 * r) 16 = (vecGet x.c r regNull).bits.toNat ∧ f 0x200 8 / 2 ^ r % 2 = bit (vecGet x.c r regNull).tag) ∧
             f 0x218 8 = x.shape.toNat ∧ f 0x220 8 = x.lmask.toNat ∧ f 0x228 8 = x.ldepth % 2 ^ 64 ∧ f 0x230 8 = frame x ∧ f 0x238 8 = x.tstamp.toNat ∧
             f 0x240 8 = x.rngs.toNat ∧ f 0x248 8 = ksum x ∧ f 0x250 8 = bit x.chksb ∧ f 0x258 8 = x.trapcause.toNat ∧ f 0x260 8 = x.trappc.toNat ∧
             f 0x268 8 = x.trapval.toNat ∧ f 0x270 8 = x.trapvec.toNat ∧ f 0x278 8 = x.energy.toNat ∧
             ∀ r, r < 16 → f (0x800 + 64 * r) 64 = (vecGet x.m r mapRegReset).img.toNat ∧ f 0xC00 8 / 2 ^ r % 2 = bit (vecGet x.m r mapRegReset).capTag ∧
               f (0x1000 + 512 * r) 512 = ((vecGet x.v r vregReset).copies.headD 0).toNat))) ∧
     (∀ l c w z, saveWings s l [c] = some (w, z) → ∃ parts, areaWrites l.queue c (at_ l (coreNum s c)) parts s = .ok () z ∧
       let g := getWing s (memWing s c)
       w = [(coreNum s c, g)] ∧ (∀ o, o < 0x200000 → byte parts o = none) ∧
       (∀ a e, a < 8 → e < 1024 → val parts (0x200000 + a * 0x2000 + 8 * e) 8 = (mapGetD (vecGet g.acc a tileReset).els e 0).toNat) ∧
       ∀ k r, k < 16 → r < 512 → val parts (0x210000 + k * 0x8000 + 64 * r) 64 = (rowGet g k r).toNat)) ∧
    -- LAUNCH_RESTORE, and the first part of DEBUG_SINGLE_STEP
    (∀ l v z core cx, let a := markPending s
      restoreTurn a id.toNat = true → a.launches.find? (fun l => l.id = id.toNat && l.saved) = some l → a.saved.find? (fun v => v.id = id.toNat) = some v →
      (do v.cores.forM (restoreCore l); v.wings.forM (restoreWing l) : M Unit) (takeCores a (returnCores a l)) = .ok () z →
      let back := fun (t : State) => t.cores = z.cores ∧ t.wings = z.wings ∧ t.mem = z.mem ∧ (∀ v, v ∈ t.saved ↔ v ∈ z.saved ∧ v.id ≠ id.toNat) ∧
        (t.mg.pstat.getLsbD 8 = true ↔ t.saved ≠ []) ∧ ∀ q ∈ t.launches, q.id = id.toNat → q.saved = false
      (∃ t, exec (.launchRestore id) s = .next t ∧ back t ∧ t.lastFlood = a.lastFlood) ∧
      (s.debugHalt.find? (fun h => h.1 = id.toNat) = none → runningLaunch s id.toNat = none →
        ∃ t, exec (.debugSingleStep id core cx) s = .next t ∧ back t ∧ t.debugHalt = z.debugHalt ++ [(id.toNat, ⟨core, cx⟩)])) ∧
    (∀ l k, let c := k.number % 1024
      let num := fun (l : List Byte) off n => ofBytes ((l.drop off).take n)
      let own := dBase l.desc ≤ k.number ∧ k.number - dBase l.desc < dCount l.desc
      (k.core.buf = [] ∨ (getCore s c).buf = []) → (∀ q ∈ s.leases, q.holder.core % 1024 ≠ c) →
      (¬own → ∃ t, restoreCore l k s = .ok () t ∧ (getCore t c).cell = k.core.cell ∧ (getCore t c).ctxs = k.core.ctxs ∧ ∀ d, d ≠ c → getCore t d = getCore s d) ∧
      (own → ∀ b u recs w kept w', areaRead l.queue c (at_ l k.number) 0x100000 0x100001 s = .ok b u → b.length = 0x100000 →
        readRecords l.queue c (at_ l k.number) 11 u = .ok recs w → restoreRecord l k w = .ok kept w' →
        ∃ t, restoreCore l k s = .ok () t ∧ t.mem = w'.mem ∧ (∀ d, d ≠ c → getCore t d = getCore w' d) ∧
          (∀ j, j < 0x100000 → memRead (getCore t c).cell j = b.getD j 0) ∧
          ∀ n, n < 11 → let rec_ := recs.getD n []
            let y := mapGetD k.core.ctxs n (ctxReset k.number n)
            let first := mapGetD k.first n y
            num rec_ 0x210 8 % 4 ≠ 0 → ∃ g, mapGet (getCore t c).ctxs n = some g ∧ g.pc = BitVec.ofNat 64 (num rec_ 0x208 8) ∧
            (num rec_ 0x210 8 % 4 = 1 → g.status = .live) ∧ (num rec_ 0x210 8 % 4 = 2 → g.status = .joinable) ∧
            (∀ j, j < 32 → vecGet g.c j regNull = if vecGet y.c j regNull = vecGet first.c j regNull then (
                let bits := BitVec.ofNat 128 (num rec_ (16 * j) 16)
                if num rec_ 0x200 4 / 2 ^ j % 2 = 1 ∧ num rec_ (16 * j) 16 / 2 ^ 114 % 2 ^ 6 ≤ 39 then ⟨bits &&& ~~~(3#128 <<< 120), true⟩ else ⟨bits, false⟩)
              else vecGet y.c j regNull) ∧
            (∀ j, j < 16 → let img := BitVec.ofNat 512 (num rec_ (0x800 + 64 * j) 64 % 2 ^ 496)
              let q := vecGet g.m j mapRegReset
              if num rec_ 0xC00 2 / 2 ^ j % 2 = 1 ∧ num rec_ (0x800 + 64 * j) 64 / 2 ^ 114 % 2 ^ 6 ≤ 39 then q.img = img &&& ~~~(3#512 <<< 120) ∧ q.capTag = true
              else q.img = img ∧ q.capTag = false) ∧
            g.wake = (if y.wake = first.wake then BitVec.ofNat 6 (num rec_ 0x720 8) else y.wake) ∧
            g.trapvec = BitVec.ofNat 64 (num rec_ 0x270 8 / 2 * 2) ∧ g.handler = (num rec_ 0x210 8 / 4 % 2 == 1))) ∧
    (∀ l (p : Nat × Wing) acc u rows w, let c := p.1 % 1024
      readParts l.queue c (at_ l p.1 + 0x200000) 0x2000 8 s = .ok acc u → readParts l.queue c (at_ l p.1 + 0x210000) 0x8000 16 u = .ok rows w →
      ∃ t, restoreWing l p s = .ok () t ∧ t.cores = w.cores ∧ t.mem = w.mem ∧ let g := getWing t (memWing w c)
        (∀ n e, n < 8 → e < 1024 → mapGetD (vecGet g.acc n tileReset).els e 0 = BitVec.ofNat 64 (ofBytes (((acc.getD n []).drop (8 * e)).take 8))) ∧
        ∀ k r, k < 16 → r < 512 → r ≠ 508 → r ≠ 509 → rowGet g k r = BitVec.ofNat 512 (ofBytes (((rows.getD k []).drop (64 * r)).take 64))) ∧
    -- the one turn of a debug step
    (∀ core cx, cx < 11 → s.debugHalt = [(id.toNat, ⟨core, cx⟩)] → launchOn s core = id.toNat →
      (∀ z, runContext s ⟨core, cx⟩ = .next z → contextTurn s ⟨core, cx⟩ = .next { z with
        debugHalt := z.debugHalt.map fun h => if h = (id.toNat, ⟨core, cx⟩) ∧ atBoundary (getCtx z ⟨core, cx⟩) = true then (id.toNat, ⟨core, 11⟩) else h }) ∧
      (∀ o : CtxId, o ≠ ⟨core, cx⟩ → launchOn s o.core = id.toNat → (getCore s o.core).twin = none → contextTurn s o = .next { s with cur := o }) ∧
      ∀ d n, exec (.debugSingleStep id d n) s = .next s) ∧
    -- the saves of DEBUG_SINGLE_STEP
    (∀ l a z core cx, s.debugHalt = [] → runningLaunch s id.toNat = some l → area l = some (true, a) → saveLaunch a l false = some z →
      exec (.debugSingleStep id core cx) s = .next z ∧ savedAll a z l) ∧
    (∀ l z core cx k n, s.debugHalt = [(id.toNat, ⟨k, n⟩)] → 11 ≤ n → runningLaunch s id.toNat = some l → saveLaunch s l false = some z → z.debugHalt = s.debugHalt →
      exec (.debugSingleStep id core cx) s = .next { z with debugHalt := [] } ∧ savedAll s z l)

/-- R258, R259, R262, R263: an interval of a pair ends when it is due and both cores have executed the same. Agreement is a checkpoint: the held
effects are released and the state is the new restart point. Disagreement, or an uncorrectable error in either core, takes both back to the
restart point, and a second one in the interval seals both, and what the pair had kept is refused. An uncorrectable error of a core outside a pair seals it. A
checkpoint stands where no fixed-latency write is pending, or where the fronts wait at most seven cycles for the last of them: so the model reads R70 with
R258 (log 64). An interval in which nothing has been executed ends also while what the last checkpoint released has yet to leave (log 21). R256, R260, R397: UNTWIN in the
primary of a pair waits for the checkpoint before it and then completes; with its secondary's the pair is dissolved: bank 15 of both reads zero,
TWINCTL reads 0, the secondary is free, and what the pair had kept goes to the primary alone. A pair whose context has ended without an instruction
of its own, in a failing trap, is dissolved in the same way: the model's reading (log 21). -/
def Obligations.PairsCheckAndCoresAreSealed : Prop :=
  (∀ (s : State) (p q : Nat) (t u : Twin), (getCore s p).twin = some t → (getCore s q).twin = some u → p ≠ q → t.primary = true → u.primary = false → t.partner = q → u.partner = p →
    p < 1024 → q < 1024 → mapSorted (getCore s p).ctxs = true → mapSorted (getCore s q).ctxs = true →
    let x := getCtx s ⟨p, 0⟩
    let rests := (x.pending = [] ∨ x.stalled = true ∨ 7 ≤ x.lag) ∧ sameProgress x (getCtx s ⟨q, 0⟩) = true
    let overNow := (t.due = true ∨ u.due = true) ∧ t.total = u.total ∧ (t.released = [] ∨ (t.retired = 0 ∧ t.held = [])) ∧ (getCore s p).ops = [] ∧ (getCore s q).ops = [] ∧ rests
    let agree := t.crc = u.crc ∧ t.retired = u.retired
    let check := fun (z : State) (c : Nat) (w : Twin) (rel : List Effect) => (getCore z c).twinState = 1 ∧ (getCore z c).cell = (getCore s c).cell ∧
      getCtx z ⟨c, 0⟩ = landAll (dropInputs (getCtx s ⟨c, 0⟩)) ∧ (getCore z c).twin = some { w with
        retrying := false
        retired := 0
        undo := 0
        crc := 0
        point := ⟨landAll (dropInputs (getCtx s ⟨c, 0⟩)), (getCore s c).cell, (getCore s c).tags, (getCore s c).bfmt⟩
        held := []
        kept := []
        feed := []
        fed := 0
        lands := []
        landed := 0
        due := false
        released := rel }
    let undone := fun (z : State) (c : Nat) (w : Twin) => (getCore z c).twinState = 2 ∧ (getCore z c).cell = w.point.cell ∧ (getCore z c).bfmt = w.point.bfmt ∧ getCtx z ⟨c, 0⟩ = w.point.ctx ∧
      (getCore z c).twin = some { w with
        retrying := true
        retired := 0
        total := t.total
        undo := 0
        crc := 0
        held := []
        fed := 0
        landed := 0
        due := false }
    let isSealed := fun (z : State) c => (getCore z c).isSealed = true ∧ (getCore z c).twinState = 3 ∧ (getCore z c).twin = none ∧
      ∀ f off b cap, .store f off b cap ∈ t.kept → ∃ r ∈ z.refused, r.dst = f ∧ r.trap = msgErr (coreNum s p)
    let parted := fun (z w : State) => let l := ((getCore z p).twin.map fun t => t.kept).getD []
      (∀ c, c = p ∨ c = q → (getCore w c).twin = none ∧ (getCore w c).twinState = 0 ∧ (getCore w c).twinPartner = 0 ∧
        (l = [] → ∀ a, memRead (getCore w c).cell a = if a < 0xF0000 then memRead (getCore z c).cell a else 0)) ∧ (getCtx w ⟨q, 0⟩).status = .free ∧ w.mem = z.mem ∧
      ((getCore z q).barHome = [] → (∀ c, c ≠ p → c ≠ q → getCore w c = getCore z c) ∧ (l = [] → getCtx w ⟨p, 0⟩ = getCtx z ⟨p, 0⟩) ∧
        w.flights = l.flatMap (keptFlight z p) ++ z.flights)
    let at_ := fun c => { s with cur := ⟨c, 0⟩ }
    let e := exec (.twinIntervalEnd p) s
    (¬overNow → e = .next s) ∧
    (overNow → agree → t.kept = [] → ∃ z, e = .next z ∧ check z p t (t.released ++ t.held) ∧ check z q u [] ∧ memoryKept s z) ∧
    (overNow → ¬agree → t.retrying = false → ∃ z, e = .next z ∧ undone z p t ∧ undone z q u) ∧
    (overNow → ¬agree → t.retrying = true → ∃ z, e = .next z ∧ isSealed z p ∧ isSealed z q ∧ memoryKept s z) ∧
    (∀ c, c = p ∨ c = q → (getCore s c).isSealed = false → absent s c = false → let ue := exec (.internalUeDetected c) s
      (t.retrying = false → ∃ z, ue = .next z ∧ undone z p t ∧ undone z q u) ∧
      (t.retrying = true → ∃ z, ue = .next z ∧ isSealed z p ∧ isSealed z q ∧ memoryKept s z)) ∧
    (∀ y : BitVec 3, legal (.untwin y) = true →
      (issues (at_ p) [] [] false → t.retired = 0 → t.held = [] →
        exec (.untwin y) (at_ p) = .next (retiredAt (1 + y.toNat) [] (instrPc x + 4) (at_ p))) ∧
      (issues (at_ p) [] [] false → t.retired ≠ 0 ∨ t.held ≠ [] → x.waiting = none →
        ∃ z, exec (.untwin y) (at_ p) = .next z ∧ (getCore z p).twin = some { t with due := true } ∧ (getCtx z ⟨p, 0⟩).pc = x.pc ∧ memoryKept s z) ∧
      (issues (at_ q) [] [] false → u.retired = 0 → u.held = [] →
        exec (.untwin y) (at_ q) = .next (retiredAt (1 + y.toNat) [] (instrPc (getCtx s ⟨q, 0⟩) + 4) (unpair (at_ q) p q)) ∧ parted (at_ q) (unpair (at_ q) p q))) ∧
    (∀ z, t.total = u.total → t.released = [] → (getCtx z ⟨p, 0⟩).stalled = false ∨ (∀ w, (getCore z p).twin = some w → w.kept = []) → ¬((t.due = true ∨ u.due = true) ∧ rests) → runnable (at_ p) ⟨p, 0⟩ = true →
      runHalf (shareDeferred (at_ p) p q) p = .next z → (getCtx z ⟨p, 0⟩).status = .free → twinTotal (getCore z p) = t.total → (getCore z p).twin ≠ none →
      coreRuns s p = true → runContext s ⟨p, 0⟩ = .next (unpair z p q) ∧ parted z (unpair z p q))) ∧
  (∀ (s : State) (c : Nat), c < 1024 → (getCore s c).twin = none → let x := exec (.internalUeDetected c) s
    ((getCore s c).isSealed = true ∨ absent s c = true → x = .next s) ∧
    ((getCore s c).isSealed = false → absent s c = false → ∃ z, x = .next z ∧ (getCore z c).isSealed = true ∧ (getCore z c).buf = [] ∧ (getCore z c).queues = [] ∧
      z.mg.rechead = s.mg.rechead + 1 ∧ memoryKept s z))

/-- R12, R25, R264, R265, R275: the firmware gives a sealed core, or one without a valid entry, a spare site; a cluster that fails its test is
suspect, with its record, until its mark is cleared; a hot core moves to a site that takes it with the contents of its wing, or its cluster is
held at a lower state. What moves with a wing, the sites offered and the order of a record's lists are the model's reading (logs 16, 17, 50, 51). -/
def Obligations.CoresMoveAndClustersAreTested : Prop :=
  ∀ (s : State),
    (∀ core px py, core < 1024 → px < 16 → py < 17 →
      let site := dieOf core * 272 + py * 16 + px
      let k := getCore s core
      let unmapped := (tableEntry s core).toNat < 2 ^ 15
      let entry := BitVec.ofNat 16 (2 ^ 15 + py * 16 + px)
      let x := exec (.coreTableRemap core px py) s
      (siteNamed s site = true ∨ vecGet s.mg.parked (dieOf core) false = true ∨ (k.isSealed = false ∧ ¬unmapped) → x = .next s) ∧
      (siteNamed s site = false → vecGet s.mg.parked (dieOf core) false = false →
        (k.isSealed = false → unmapped → ∃ t, x = .next t ∧ t = { s with coreTable := t.coreTable } ∧ tableEntry t core = entry ∧ siteOf t core = site ∧
          ∀ c, c ≠ core → tableEntry t c = tableEntry s c) ∧
        (k.isSealed = true → ∃ t, x = .next t ∧ siteOf t core = site ∧ (getCore t core).isSealed = false ∧ (getCore t core).ctxs = [] ∧ (getCore t core).cell = [] ∧
          (∀ c, c ≠ core → getCore t c = getCore s c) ∧ t.mg.rechead = s.mg.rechead + 1 ∧
          ∀ l, k.launch = some l → l.monarch ≠ coreNum s core → ∃ f ∈ t.flights, f.dst = l.monarch ∧ ∃ m, f.cargo = .msg m ∧ m.kind = .error ∧ m.cls = 63 ∧
            m.payload = [5, BitVec.ofNat 64 (coreNum s core), BitVec.ofNat 64 s.mg.rechead.toNat, BitVec.ofNat 64 l.id]))) ∧
    (∀ n a b, n < 64 → (∃ t, exec (.clusterSuspect n a b) s = .next t ∧ (getCluster t n).suspect = true ∧ (getCluster t n).mark = some (a, b) ∧ t.cores = s.cores ∧ memoryKept s t ∧
        (∀ r ∈ s.mg.oob, r ∈ t.mg.oob) ∧ ∃ r ∈ t.mg.oob, r.num = s.mg.rechead.toNat ∧ (r.dwords.getD 0 0).toNat % 2 ^ 8 = 4 ∧ r.dwords.getD 5 0 = a ∧ r.dwords.getD 6 0 = b) ∧
      ∃ t, exec (.clusterMarkCleared n) s = .next t ∧ getCluster t n = { getCluster s n with
        suspect := false
        mark := none } ∧ t.cores = s.cores ∧ memoryKept s t) ∧
    (∀ core px py, core < 1024 → px < 16 → py < 17 → absent s core = false → (getCore s core).isSealed = false →
      let site := dieOf core * 272 + py * 16 + px
      let old := siteOf s core
      let x := exec (.thermalMigration core px py) s
      (mayMove s core = false ∨ canPlace s core = false → ∃ t, x = .next t ∧ t.cores = s.cores ∧ t.coreTable = s.coreTable ∧ memoryKept s t ∧
        (getCluster t (clusterOf old)).hold = BitVec.ofNat 3 (Config.thermalState s.mg.thermals % 5)) ∧
      let rests := ∀ d, coreAtSite s site = some d → dieOrderWaits s d = false
      (mayMove s core = true → canPlace s core = true → takesCore s core site = false ∨ atRest s core = false ∨ ¬rests → x = .next s) ∧
      let still := fun (k : Core) => k.ops = [] ∧ ∀ e ∈ k.buf, ∀ op blk l, e.kind ≠ .wing op blk l
      (mayMove s core = true → canPlace s core = true → takesCore s core site = true → atRest s core = true → rests → old / 272 = dieOf core →
        still (getCore s core) → (∀ d, coreAtSite s site = some d → still (getCore s d)) → ∃ t, x = .next t ∧ siteOf t core = site ∧ (∀ d, coreAtSite s site = some d → d ≠ core → siteOf t d = old) ∧ memoryKept s t ∧
          (let w := getWing t site
           let v := getWing s old
           w.acc = v.acc ∧ w.rows = v.rows ∧ w.latch = v.latch ∧ w.badRows = v.badRows ∧ w.pins = v.pins) ∧
          (getFront t site).bind = 0x400 ∧ (getCore t core).bfmt = (getCore s core).bfmt ∧ (getCore t core).buf = (getCore s core).buf ∧
          ∀ n, getCtx t ⟨core, n⟩ = { landAll (getCtx s ⟨core, n⟩) with task := (getCtx t ⟨core, n⟩).task }))

/-! ### Power, links, host, management -/

/-- R58, R269, R270, R278: a grant period. The caps written take effect; PWRNOW reports the averages of the last 10 periods and the last
1,000,000, and PWRLIM keeps the limits reached; each cluster gets a budget of at most what its state draws and starts the period with nothing
drawn. Fifty throttled periods in a row lower a cluster's imposed state by a step. Results and contexts are untouched. R271 to R274, R278: a
cluster switches to its target state, into P5 only with every context between instructions, out of it when another state is requested, and wakes
from P5, with its request rewritten, when something reaches one of its cores. A die parks when it is asked to and can, dropping what its far ways
hold and losing the contents of its wings and cell memories, and comes back when unparking is complete. A write of PWRLIM clears the bits that it
names. R116, R118: a write of L2WAYSd outside its ranges is ignored; another value stands once the die's far ways are written back and dropped. The
windows, the shares and a die's contents after parking are the model's choice (logs 10, 16, 18, 20). -/
def Obligations.PowerStatesAndParking : Prop :=
  (∀ (s : State),
    (∀ drawn demand, ∃ t, exec (.grantPeriod drawn demand) s = .next t ∧ t.cores = s.cores ∧ t.mem = s.mem ∧
      t.mg.capPeakNow = s.mg.capPeak.toNat ∧ t.mg.capAvgNow = s.mg.capAvg.toNat ∧
      (let own := fun n => min (drawn.getD n 0) ((getCluster s n).budget - (getCluster s n).drawn)
       let beside := (List.range 4).foldl (fun s d => drawSpare s d (drawn.getD (64 + d) 0)) s
       let die := fun d => vecGet beside.mg.spare d 0 + ((List.range 16).map fun j => (getCluster s (d * 16 + j)).drawn + own (d * 16 + j)).sum
       let l := t.mg.draws
       let lastN := fun n => ((l.take n).map fun p => p.getD 0 0 + p.getD 1 0 + p.getD 2 0 + p.getD 3 0).sum
       l = ([die 0, die 1, die 2, die 3] :: s.mg.draws).take 1000000 ∧ (∀ d, vecGet t.mg.spare d 0 = 0) ∧
       t.mg.enpkg = s.mg.enpkg + BitVec.ofNat 64 (((List.range 64).map own).sum + ((List.range 4).map fun d => vecGet beside.mg.spare d 0 - vecGet s.mg.spare d 0).sum) ∧
       t.mg.pwrnow = BitVec.ofNat 64 (lastN 10 / 10000 % 2048 * 2 ^ 16 + lastN 1000000 / 1000000000 % 2048) ∧
       t.mg.pwrlim.getLsbD 0 = (s.mg.pwrlim.getLsbD 0 || decide (10 * 1000 * s.mg.capPeakNow ≤ lastN 10)) ∧
       t.mg.pwrlim.getLsbD 1 = (s.mg.pwrlim.getLsbD 1 || decide (1000000 * 1000 * min s.mg.capAvgNow s.mg.capPeakNow ≤ lastN 1000000))) ∧
      ∀ n, n < 64 → let k := getCluster t n
        k.budget ≤ Config.stateDraw k.current.toNat ∧ k.drawn = 0 ∧ k.throttled = decide (k.budget = 0) ∧ k.current = (getCluster s n).current ∧
          k.request = (getCluster s n).request ∧ (k.imposed = (getCluster s n).imposed ∨ k.imposed = (getCluster s n).imposed - 1)) ∧
    (∀ n, n < 64 → let k := getCluster s n
      (k.periods < 50 → exec (.throttleStateLower n) s = .next s) ∧
      (50 ≤ k.periods → k.imposed.toNat ≤ 4 → k.hold.toNat ≤ 4 → k.request.toNat ≤ 5 → ∃ t, exec (.throttleStateLower n) s = .next t ∧ t.cores = s.cores ∧ t.mem = s.mem ∧
        (getCluster t n).imposed.toNat = min (k.imposed.toNat + 1) 4 ∧ (getCluster t n).current = k.current ∧ (getCluster t n).periods = 0 ∧
        (((getCluster t n).target.getD k.current).toNat = max k.request.toNat (max (min (k.imposed.toNat + 1) 4) k.hold.toNat))))) ∧
  (∀ (s : State),
    (∀ n, n < 64 → let k := getCluster s n
      let x := exec (.pstateHandover n) s
      (k.target = none → x = .next s) ∧
      (∀ g, k.target = some g → g ≠ 5 → ∃ t, x = .next t ∧ t.cores = s.cores ∧ t.mem = s.mem ∧ (getCluster t n).current = g ∧ (getCluster t n).request = k.request) ∧
      (k.target = some 5 → (∀ c ∈ clusterCores s n, ∀ p ∈ (getCore s c).ctxs, atBoundary p.2 = true) →
        ∃ t, x = .next t ∧ t.cores = s.cores ∧ t.mem = s.mem ∧ (getCluster t n).current = 5 ∧ (getCluster t n).before = k.current) ∧
      (k.target = some 5 → ∀ c ∈ clusterCores s n, ∀ p ∈ (getCore s c).ctxs, atBoundary p.2 = false → x = .next s) ∧
      (k.current ≠ 5 → exec (.p5Wake n) s = .next s) ∧
      (k.current = 5 → ∀ f ∈ s.flights, ∀ c ∈ clusterCores s n, localCore s f.dst = some c →
        ∃ t, exec (.p5Wake n) s = .next t ∧ t.cores = s.cores ∧ t.mem = s.mem ∧ (getCluster t n).current = k.before ∧ (getCluster t n).request = k.before ∧
          (getCluster t n).requestHost = if k.requestHost = 5 then k.before else k.requestHost)) ∧
    (∀ (die : BitVec 2) (v : W64), s.mg.recovery = false →
      let d := die.toNat
      let on := v.getLsbD 0
      let was := vecGet s.mg.parked d false
      let asks := vecGet s.mg.diectl d false = true ∧ vecGet s.mg.diePending d false = true ∧ was = false
      let x := exec (.diePark die) s
      (∃ t, exec (.diectlWrite die v) s = .next t ∧ vecGet t.mg.diectl d false = on ∧ vecGet t.mg.diePending d false = (on && !was) ∧
        vecGet t.mg.unparking d false = (!on && was) ∧ vecGet t.mg.parked d false = was ∧ t.cores = s.cores ∧ t.mem = s.mem) ∧
      (¬asks ∨ (∃ n, n < 256 ∧ coreFree s (d * 256 + n) = false) ∨ (∃ p ∈ s.saved, ∃ k ∈ p.cores, k.number % 1024 / 256 = d) → x = .next s) ∧
      (asks → canPark s d = true → s.mem.reduce = [] → (mapGetD s.mem.far d []).all (fun p => !p.2.owned) = true →
        ∃ t, x = .next t ∧ vecGet t.mg.parked d false = true ∧ vecGet t.mg.diePending d false = false ∧ t.mem.hbm = s.mem.hbm ∧
          (∀ c, dieOf c = d → (getCore t c).cell = []) ∧ (∀ c, dieOf c ≠ d → getCore t c = getCore s c) ∧ t.coreTable = s.coreTable ∧
          (mapSorted s.mem.far = true → mapGetD t.mem.far d [] = []) ∧
          (∀ p, p / 272 = d → (getWing t p).rows = [] ∧ (getWing t p).health = (getWing s p).health) ∧ (∀ p, p / 272 ≠ d → getWing t p = getWing s p)) ∧
      (asks → canPark s d = true → s.mem.reduce = [] → ∀ w f, mapGetD s.mem.far d [] = [(w, f)] → f.owned = true → f.key = 0 → s.mem.sectorKey = [] →
        Memory.wf s.mem.hbm = true → ∃ t, x = .next t ∧ memReads t.mem.hbm (w * 8) 8 = toBytes f.data.toNat 8) ∧
      (was = false ∨ vecGet s.mg.unparking d false = false → exec (.dieUnparkComplete die) s = .next s) ∧
      (was = true → vecGet s.mg.unparking d false = true → ∃ t, exec (.dieUnparkComplete die) s = .next t ∧ vecGet t.mg.parked d false = false ∧
        vecGet t.mg.unparking d false = false ∧ t.cores = s.cores ∧ t.mem = s.mem)) ∧
    (∀ (v : W64), s.mg.recovery = false → exec (.pwrlimClear v) s = .next { s with mg := { s.mg with pwrlim := s.mg.pwrlim &&& ~~~v.setWidth 2 } }) ∧
    (∀ (die : BitVec 2) (v : W64), s.mg.recovery = false →
      let far := v.toNat % 16
      let shadow := v.toNat / 2 ^ 8 % 16
      let new := BitVec.ofNat 12 (shadow * 2 ^ 8 + far)
      (8 < far ∨ 12 < shadow ∨ 20 < far + shadow ∨ new = vecGet s.mem.l2ways die.toNat 0 → exec (.l2waysWrite die v) s = .next s) ∧
      (far ≤ 8 → shadow ≤ 12 → far + shadow ≤ 20 → new ≠ vecGet s.mem.l2ways die.toNat 0 → s.mem.reduce = [] → (mapGetD s.mem.far die.toNat []).all (fun p => !p.2.owned) = true →
        ∃ t, exec (.l2waysWrite die v) s = .next t ∧ vecGet t.mem.l2ways die.toNat 0 = new ∧ t.mem.hbm = s.mem.hbm ∧ t.cores = s.cores)))

/-- R114, R115, R153, R171, R277 to R281: a patrol scrub records a failing sector and poisons it, with no fault; the host reads, writes and updates
atomically at the home slice, and reads and writes in its own memory; a key is loaded. A lane that fails leaves 8, a port that goes down none; a
trained port reports its lanes; a lost flit is a record of type 6. TIME is aligned once, never backwards, and slews from then on by at most 100 parts
per million. What the events leave in the link registers and in TIME is the model's reading (logs 19, 57, 58). -/
def Obligations.HostLinksAndTime : Prop :=
  ∀ (s : State) (pa n : Nat) (v : W64) (key : BitVec 8) (value : PageKey) (port : BitVec 4) (core id : Nat),
    let link := fun (z : State) => vecGet z.mg.links port.toNat ⟨false, 0, false, true⟩
    let sec := pa / 64 * 64
    let clean := isHost pa = false ∧ pa < s.mem.hbmtop.toNat ∧ isLeased s (pa / 64 * 64) 64 = false
    let put := fun (m m' : Memory) (o : Nat) (l : List Byte) => ∀ a, memRead m' a = if o ≤ a ∧ a < o + l.length then l.getD (a - o) 0 else memRead m a
    (isHost pa = true ∨ s.mem.hbmtop.toNat ≤ pa ∨ isLeased s sec 64 = true → exec (.patrolScrub pa) s = .next s) ∧
    (clean → pa / 64 ∉ s.mem.badSectors → s.mem.poisoned = [] → s.mem.sectorKey = [] → exec (.patrolScrub pa) s = .next s) ∧
    (clean → pa / 64 ∈ s.mem.badSectors → s.mem.poisoned = [] → s.mem.sectorKey = [] → ∃ t, exec (.patrolScrub pa) s = .next t ∧ t.cores = s.cores ∧
      memoryKept s t ∧ t.mg.rechead = s.mg.rechead + 1 ∧ mapGet t.mem.poisoned (pa / 64) = some ⟨s.mg.rechead.toNat, false, some 0⟩ ∧
      ∃ r ∈ t.mg.oob, r.num = s.mg.rechead.toNat ∧ (r.dwords.getD 0 0).toNat % 2 ^ 16 = 15 * 2 ^ 8 + 1 ∧ r.dwords.getD 2 0 = BitVec.ofNat 64 sec) ∧
    (pa % 8 + n ≤ 8 → let w := exec (.hostMemoryAccess .write pa n v) s
      let r := exec (.hostMemoryAccess .read pa n v) s
      let l := toBytes v.toNat n
      (isHost pa = true → Memory.wf s.mem.host = true → (∃ t, w = .next t ∧ put s.mem.host t.mem.host (pa % 2 ^ 51) l ∧ t.mem.hbm = s.mem.hbm) ∧
        ∃ t, r = .next t ∧ t.mem = s.mem ∧ t.mg.hostData = BitVec.ofNat 64 (ofBytes (memReads s.mem.host (pa % 2 ^ 51) n))) ∧
      (isHost pa = false → pa < s.mem.hbmtop.toNat → isLeased s pa n = false → s.mem.reduce = [] → s.mem.far = [] → s.mem.sectorKey = [] → s.mem.badSectors = [] → s.mem.poisoned = [] →
        Memory.wf s.mem.hbm = true → (∃ t, w = .next t ∧ put s.mem.hbm t.mem.hbm pa l ∧ t.mem.host = s.mem.host) ∧
        (∃ t, r = .next t ∧ t.mem = s.mem ∧ t.mg.hostData = BitVec.ofNat 64 (ofBytes (memReads s.mem.hbm pa n))) ∧
        let old := ofBytes (memReads s.mem.hbm pa n)
        let atomic := fun (op : HostOp) (new : Nat) => ∃ t, exec (.hostMemoryAccess op pa n v) s = .next t ∧ put s.mem.hbm t.mem.hbm pa (toBytes new n) ∧
          t.mem.host = s.mem.host ∧ t.mg.hostData = BitVec.ofNat 64 old
        atomic .fetchAdd (old + v.toNat) ∧ atomic .swap v.toNat ∧
          ∀ want, atomic (.cas want) (if old = want.toNat % 2 ^ (8 * n) then v.toNat else old))) ∧
    (exec (.keyLoad key value) s = if key = 0 then .next s else .next { s with mem := { s.mem with keys := mapSet s.mem.keys key.toNat value } }) ∧
    (∃ t, exec (.linkLaneFailure port) s = .next t ∧ t.cores = s.cores ∧ t.mem = s.mem ∧ link t = if (link s).down then link s else { link s with
      lanes := 8
      degraded := true }) ∧
    (∃ t, exec (.linkDown port) s = .next t ∧ t.cores = s.cores ∧ t.mem = s.mem ∧ (linkWord (link t)).toNat = 2 ^ 9) ∧
    (∀ lanes, lanes = 16 ∨ lanes = 8 → ∃ t, exec (.portTrained port lanes) s = .next t ∧ t.cores = s.cores ∧ t.mem = s.mem ∧
      (linkWord (link t)).toNat = lanes + if lanes = 8 then 2 ^ 8 else 0) ∧
    (let x := exec (.linkFlitLost port core id) s
     let recorded := fun (t : State) => t.mg.rechead = s.mg.rechead + 1 ∧ memoryKept s t ∧
       ∃ r ∈ t.mg.oob, r.num = s.mg.rechead.toNat ∧ (r.dwords.getD 0 0).toNat % 2 ^ 16 = 6 ∧ r.dwords.getD 2 0 = BitVec.ofNat 64 port.toNat
     ((∀ q ∈ (getCore s core).copies, q.id ≠ id ∨ q.scaled = false) → ∃ t, x = .next t ∧ t.cores = s.cores ∧ recorded t) ∧
     (∀ q j c, scaleAbroad s core id = some (q, j) → findSender s q.src = some c → (getCore s c.core).twin = none → ∃ t, x = .next t ∧ recorded t ∧
       (getCtx t c).deferred = (getCtx s c).deferred ++ [⟨⟨10, false, BitVec.ofNat 64 (j % 4096 * 2 ^ 16 + (j + 1) % 4096)⟩, none⟩])) ∧
    (∀ epoch faster ppm, ∃ t, exec (.timeCorrection epoch faster ppm) s = .next t ∧ t.cores = s.cores ∧ t.mem = s.mem ∧ s.mg.time.toNat ≤ t.mg.time.toNat ∧ t.mg.aligned = true ∧
      (s.mg.aligned = true → t.mg.time = s.mg.time ∧ t.mg.timeSlew = min ppm 100 ∧ t.mg.slewFaster = faster) ∧
      (s.mg.aligned = false → s.mg.time.toNat ≤ epoch.toNat → t.mg.time = epoch))

/-- R282: an image that fails its check leaves the device in recovery. The seven SPDM requests are answered, with version 1.2, P-256 and SHA-256
only, and six measurements: of boot ROM, both firmwares and repair data, MGCFG, and L2WAYSd. The request order, the request codes and the refusal
of an early request are the model's own (log 9). -/
def Obligations.DeviceAttests : Prop :=
  ∀ (s : State),
    let p := s.mg.spdm
    let answers := fun (i : Instr) (r : SpdmReply) (q : Spdm) => exec i s = .next { s with mg := { s.mg with spdm := { q with replies := p.replies ++ [r] } } }
    let when := fun (b : Bool) (i : Instr) (r : SpdmReply) (q : Spdm) => (b = true → answers i r q) ∧ (b = false → answers i (.error 4) p)
    (∀ image, exec (.firmwareImageCheck image) s = if Config.firmwareGood image then .next s else .next { s with mg := { s.mg with recovery := true } }) ∧
    (∀ (off : BitVec 32) v, s.mg.recovery = true → exec (.registerWrite (.engine off) v) s = .next s) ∧
    answers .getVersion (.version 1 2) ⟨true, false, false, p.replies⟩ ∧
    (∃ l, when p.versionDone .getCapabilities (.capabilities l) { p with capsDone := true } ∧ l.length = 7) ∧
    (∀ a h, when p.capsDone (.negotiateAlgorithms a h) (.algorithms (if a.testBit 4 then 16 else 0) (h % 2)) { p with algsDone := a.testBit 4 && h.testBit 0 }) ∧
    when p.algsDone .getDigests (.digests Config.certDigest) p ∧
    (∀ off len, when p.algsDone (.getCertificate off len) (.certificate ((List.range (min len (Config.certLength - off))).map fun j => Config.certificate (off + j))) p) ∧
    (∀ nonce, when p.algsDone (.challenge nonce) (.challenge nonce Config.certDigest (Config.signature nonce)) p) ∧
    (let m := fun n => if n < 5 then Config.measurement n else if n = 5 then (if s.mg.mgcfg then 1 else 0) else
       let w := fun d => (vecGet s.mem.l2ways d 0).toNat
       w 0 + w 1 * 2 ^ 12 + w 2 * 2 ^ 24 + w 3 * 2 ^ 36
     ∀ index, when p.algsDone (.getMeasurements index) (if index = 0 then .measurements [6] else if index = 255 then .measurements [m 1, m 2, m 3, m 4, m 5, m 6]
       else if index ≤ 6 then .measurements [m index] else .error 1) p)

/-! ### The whole machine -/

/-- R65, R74, R242: an instruction with an operand value that its entry does not list raises ILLOP, with itself as TRAPVAL, and does nothing else,
whatever its GUARD said and whatever its operands hold. -/
def Obligations.IllegalOperandsRaiseIllop : Prop :=
  ∀ (i : Instr) (s : State), i.len ≠ 0 → legal i = false → canTrap s →
    ∃ z, exec i s = .next z ∧ trapTaken s z ⟨1, false, BitVec.ofNat 64 i.word⟩ false (curCtx s).pc

/-- R41, R69: with CHKSB set, an instruction that names a register whose write is still on its way raises STALLCNT, with the lowest such register
as TRAPVAL, before any effect; with CHKSB clear it never does. Shown for register forms, a branch, a load, a store and a jump. The place of
STALLCNT before an ILLOP of an operand is the model's reading (log 23). -/
def Obligations.ScoreboardReports : Prop :=
  ∀ (i : Instr) (l : List (BitVec 5)) (s : State) (d a b : BitVec 5) (y : BitVec 3), legal i = true → guardOpen (curCtx s).guard = true →
    (i = .add d a b y ∧ l = [a, b, d]) ∨ (i = .mul d a b y ∧ l = [a, b, d]) ∨ (i = .div d a b y ∧ l = [a, b, d]) ∨ (i = .cbnd d a b y ∧ l = [a, b, d]) ∨
      (∃ c off, i = .brc a b c off y ∧ l = [a, b]) ∨ (∃ sz off, i = .ld d a sz off y ∧ l = [a, d]) ∨ (∃ sz off, i = .st d a sz off y ∧ l = [d, a]) ∨ (i = .jr d a y ∧ l = [a, d]) →
    let x := curCtx s
    let late := fun r : BitVec 5 => r ≠ 0 ∧ ((∃ p ∈ x.pending, p.reg = r) ∨ ∃ p ∈ x.awaiting, p.reg = r)
    (x.chksb = true → ∀ r ∈ l, late r → (∀ q ∈ l, late q → r.toNat ≤ q.toNat) → canTrap s →
      ∃ z, exec i s = .next z ∧ trapTaken s z ⟨8, false, BitVec.ofNat 64 r.toNat⟩ false x.pc) ∧
    (x.chksb = false ∨ (∀ r ∈ l, ¬late r) → issues s l [] false)

/-- R60, R67, R257: what it means that an instruction retires. Its issue cycles pass, one more for its GUARD: a write that is due lands and the
others come nearer, in order; execution goes on at the given address, no GUARD stands; everything else of the context, every other context and
core, and memory is kept, but for a pair's counts. The resume instance of a fault is gone unless a handler runs or the instruction is the ERET that
returned to it (R205). -/
def Obligations.RetiringKeepsTheRest : Prop :=
  ∀ (s : State) (n : Nat) (writes : List (BitVec 5)) (pc : W64),
    let t := retiredAt n writes pc s
    let x := curCtx s
    let k := cyclesOf x n
    let z := curCtx t
    z.pc = pc ∧ z.guard = .none ∧ z.waiting = none ∧ ctxKept x z ∧ outsideKept s t ∧ memoryKept s t ∧
      (x.handler = false → x.resuming ≠ 2 → z.resume = 0 ∧ z.kept = none) ∧
      z.pending = (x.pending.filter fun p => k < p.left).map (fun p => { p with left := p.left - k }) ∧
      (∀ r, readReg z r = readReg (advance x k) r) ∧ (x.pending.Pairwise (fun p q => p.reg = q.reg → p.left ≤ q.left) → ∀ r, settled z r = settled x r) ∧
      (∀ r, (∀ p ∈ x.pending, p.reg = r → k < p.left) → readReg z r = readReg x r)

/-- A step runs the decoded instruction. A context whose turn it is and that can execute fetches at its program counter and executes what the
bytes decode to, and behind a GUARD at once the guarded instruction; bytes that are no instruction raise ILLOP, and a fetch that faults its fault;
a pending deferred fault comes first, and then the fault at which a task stalled while it was speculative (R248). An instruction under way goes on as it was
decoded, its GUARD passed. An event of the agenda occurs. The turns and their order are the model's choice (logs 1 and 54). -/
def Obligations.StepRunsTheDecodedInstruction : Prop :=
  ∀ (s : State) (rest : List Turn),
    (∀ core cx, s.agenda = .context core cx :: rest → s.debugHalt = [] → (getCore s core).twin = none →
      let u := { s with
        agenda := rest
        cur := ⟨core, cx⟩ }
      let x := curCtx u
      runnable u ⟨core, cx⟩ = true → draining x = false → commitDone x = false →
      (x.deferred = [] ∨ x.handler = true → keptFault x = none → x.leaseAgain = false → ∀ i g, x.issued = some (i, g) →
        step s = exec i (onCur u fun x => { x with guard := if g then .pass else .none })) ∧
      (x.deferred = [] ∨ x.handler = true → ∀ f pc, keptFault x = some (f, pc) → step s = .next (takeKept u f pc)) ∧
      (x.deferred = [] ∨ x.handler = true → keptFault x = none → x.leaseAgain = false → x.issued = none →
        (∀ b z i n, fetchBytes (instrPc x) u = .ok b z → decode b = .ok (i, n) →
          (∀ t, exec i z = .next t → step s = if (curCtx t).guard = .none then .next t else fetchAndRun true t) ∧
          ((∀ t, exec i z ≠ .next t) → step s = exec i z)) ∧
        (∀ b z e, fetchBytes (instrPc x) u = .ok b z → decode b = .error e → (curCtx (raiseSync z ⟨1, false, BitVec.ofNat 64 (ofBytes b)⟩ x.pc)).guard = .none →
          step s = .next (raiseSync z ⟨1, false, BitVec.ofNat 64 (ofBytes b)⟩ x.pc)) ∧
        (∀ f z, fetchBytes (instrPc x) u = .error (.trap f) z → (curCtx (raiseSync z f x.pc)).guard = .none → step s = .next (raiseSync z f x.pc))) ∧
      (x.deferred ≠ [] → x.handler = false → isSpec x = false → midInstr u = false → step s = exec (.deferredFaultEntry core cx) u)) ∧
    (∀ t b z i n, fetchBytes (instrPc (curCtx t)) t = .ok b z → decode b = .ok (i, n) → (∀ a k, i ≠ .guardT a k ∧ i ≠ .guardF a k) → fetchAndRun true t = exec i z) ∧
    (∀ i, s.agenda = .event i :: rest → i.len = 0 → (∀ c x, i ≠ .deferredFaultEntry c x) → step s = exec i { s with agenda := rest }) ∧
    (s.agenda = [] → step s = step { s with
      agenda := [Config.schedule s.tick]
      tick := s.tick + 1 })

/-- R2, R63, R64, R71 to R73: words of the spec's own examples decode to the instructions they stand for, one of each family. -/
def Obligations.ExampleWordsDecode : Prop :=
  decodeTableWord 32 0x01CC5003 = some (.add 5 6 7 0) ∧ decodeTableWord 16 0xFD70 = some (.addi16 11 63) ∧ decodeTableWord 32 0x00525023 = some (.addi 5 9 1 0) ∧
    decodeTableWord 32 0x0600B243 = some (.brc 11 0 0 6 0) ∧ decodeTableWord 32 0x02B38403 = some (.ld 24 25 2 1 0) ∧ decodeTableWord 32 0x8A9094C3 = some (.amo 9 8 10 1 1 0) ∧
    decodeTableWord 32 0x0A928583 = some (.send 8 9 10 1 0) ∧ decodeTableWord 32 0x60823823 = some (.vadd 3 0 1 0 2 0 12 0) ∧ decodeTableWord 32 0x00420C43 = some (.mma 0 1 2 0) ∧
    decodeTableWord 32 0x05AB4D63 = some (.bpadd 20 21 22 0 0) ∧ decodeTableWord 32 0x02C09EE3 = some (.csrr 9 11 0) ∧ decodeTableWord 16 0xFDA4 = some (.guardT 13 63)

/-- R2, R63, R64: decoding the encoding of a well-formed instruction gives it back, with its length, whatever bytes follow. -/
def Obligations.DecodingInvertsEncoding : Prop :=
  ∀ (i : Instr) (rest : List Byte), i.WellFormed → i.len ≠ 0 → decode (wordBytes i.word i.len ++ rest) = .ok (i, i.len)

/-- R65, R71 to R73: each word that is an instruction has one meaning: bytes that decode are the encoding of what they decode to, so that no bit
of a word is ignored. -/
def Obligations.WordsHaveOneMeaning : Prop :=
  ∀ (b : List Byte) (i : Instr) (n : Nat), decode b = .ok (i, n) → i.len = n ∧ (n = 2 ∨ n = 4) ∧ b.take n = wordBytes i.word n

/-- The model's own (log 3): every step keeps every memory in canonical form. -/
def Obligations.MemoriesStayCanonical : Prop :=
  ∀ (s t : State), s.memWf → step s = .next t → t.memWf

/-- R12, R16, R23, R24, R27, R58, R278, R281: the package right after power-on. The invariant of the memories holds; the registers have the reset
values of the rules; each wing stands as if position code 8 had been granted last; no launch is resident, and every core of the device is present
at its own site and free. The memories that read 0 and the kept form of their lists are the model's choice (log 3), and so are the values that no
rule gives: TIME 0, and BIND 0x400 of every front, which R16 takes from repair data (log 4). -/
def Obligations.PowerOnState : Prop :=
  let s := State.reset
  let rd := engineRead s
  s.memWf ∧ s.mg.time = 0 ∧ s.mg.capPeak = 850 ∧ s.mg.capAvg = 850 ∧
    (∀ q, q < 16 → ∀ r, r < 7 → rd (q * 64 + r * 8) = 0) ∧ rd 0x3000 = 0 ∧ rd 0x3008 = 0 ∧ rd 0x3010 = 0 ∧ rd 0x3018 = 0 ∧ rd 0x3020 = 0 ∧
    (∀ d, d < 4 → rd (0x3028 + d * 8) = 0 ∧ rd (0x3048 + d * 8) = 0) ∧ rd 0x3068 = 0 ∧ rd 0x3070 = 0 ∧ rd 0x3078 = 0 ∧ (∀ p, p < 16 → rd (0x3100 + p * 8) = 2 ^ 9) ∧
    (∀ p, (getFront s p).bind = 0x400 ∧ (getWing s p).grantPtr = 8 ∧ (getWing s p).leasePtr = 8 ∧ (getWing s p).lease = none) ∧
    (∀ c, c < 1024 → tableEntry s c = BitVec.ofNat 16 (2 ^ 15 + c % 256) ∧ siteOf s c = c / 256 * 272 + c % 256 ∧ absent s c = false ∧ coreFree s c = true ∧
      (getCore s c).launch = none ∧ ∀ x, x < 11 → let k := getCtx s ⟨c, x⟩
        k.shape = 0x0F7 ∧ k.lmask = BitVec.allOnes 64 ∧ k.ldepth = 0 ∧ k.tstamp = 0 ∧ k.chksb = false ∧ k.trapvec = 0 ∧ k.trapcause = 0 ∧ k.energy = 0 ∧
          k.rngs = 0x2545F491#32 ^^^ BitVec.ofNat 32 (c * 16) ^^^ BitVec.ofNat 32 x)

end
end

