-- ==== Sys2Proof/Laws/Map.lean ====
section
/-! SUPPORT. Sparse maps, sets and memories: what a write changes, and that it keeps the canonical form. -/

namespace Sys2Proof.Machine

@[simp] theorem mapGet_set_same {α : Type} (m : SMap α) (k : Nat) (v : α) : mapGet (mapSet m k v) k = some v := by
  induction m with
  | nil => simp [mapSet, mapGet]
  | cons p r ih =>
    obtain ⟨j, w⟩ := p
    simp only [mapSet]
    split
    · simp [mapGet]
    · split
      · simp [mapGet]
      · rename_i h1 h2
        simp [mapGet, Ne.symm h2, ih]

@[simp] theorem mapGet_set_other {α : Type} (m : SMap α) (k j : Nat) (v : α) (h : j ≠ k) :
    mapGet (mapSet m k v) j = mapGet m j := by
  induction m with
  | nil => simp [mapSet, mapGet, Ne.symm h]
  | cons p r ih =>
    obtain ⟨i, w⟩ := p
    simp only [mapSet]
    split
    · simp [mapGet, Ne.symm h]
    · split
      · rename_i h1 h2
        subst h2
        simp [mapGet, Ne.symm h]
      · simp only [mapGet, ih]

@[simp] theorem mapGetD_set_same {α : Type} (m : SMap α) (k : Nat) (v d : α) : mapGetD (mapSet m k v) k d = v := by
  simp [mapGetD]

@[simp] theorem mapGetD_set_other {α : Type} (m : SMap α) (k j : Nat) (v d : α) (h : j ≠ k) :
    mapGetD (mapSet m k v) j d = mapGetD m j d := by
  simp [mapGetD, h]

/-- Every key of a sorted map with a given head lies above that head. -/
theorem mapSorted_head {α : Type} {k : Nat} {v : α} {m : SMap α} (h : mapSorted ((k, v) :: m) = true) :
    ∀ p ∈ m, k < p.1 := by
  induction m generalizing k v with
  | nil => simp
  | cons p r ih =>
    obtain ⟨j, w⟩ := p
    simp only [mapSorted, Bool.and_eq_true, decide_eq_true_eq] at h
    intro q hq
    rcases List.mem_cons.1 hq with rfl | hq
    · exact h.1
    · exact Nat.lt_trans h.1 (ih h.2 q hq)

theorem mapSorted_tail {α : Type} {p : Nat × α} {m : SMap α} (h : mapSorted (p :: m) = true) : mapSorted m = true := by
  obtain ⟨k, v⟩ := p
  cases m with
  | nil => rfl
  | cons q r =>
    obtain ⟨j, w⟩ := q
    simp only [mapSorted, Bool.and_eq_true] at h
    exact h.2

theorem mapSorted_cons {α : Type} {k : Nat} {v : α} {m : SMap α} (h : mapSorted m = true) (hk : ∀ p ∈ m, k < p.1) :
    mapSorted ((k, v) :: m) = true := by
  cases m with
  | nil => rfl
  | cons q r =>
    obtain ⟨j, w⟩ := q
    simp only [mapSorted, Bool.and_eq_true, decide_eq_true_eq]
    exact ⟨hk (j, w) (List.mem_cons_self ..), h⟩

theorem mem_mapSet {α : Type} {m : SMap α} {k : Nat} {v : α} {p : Nat × α} (h : p ∈ mapSet m k v) : p = (k, v) ∨ p ∈ m := by
  induction m with
  | nil => simp [mapSet] at h; exact .inl h
  | cons q r ih =>
    obtain ⟨j, w⟩ := q
    simp only [mapSet] at h
    split at h
    · rcases List.mem_cons.1 h with h | h
      · exact .inl h
      · exact .inr h
    · split at h
      · rcases List.mem_cons.1 h with h | h
        · exact .inl h
        · exact .inr (List.mem_cons_of_mem _ h)
      · rcases List.mem_cons.1 h with h | h
        · exact .inr (h ▸ List.mem_cons_self ..)
        · rcases ih h with h | h
          · exact .inl h
          · exact .inr (List.mem_cons_of_mem _ h)

theorem mem_mapErase {α : Type} {m : SMap α} {k : Nat} {p : Nat × α} (h : p ∈ mapErase m k) : p ∈ m := by
  induction m with
  | nil => simp [mapErase] at h
  | cons q r ih =>
    obtain ⟨j, w⟩ := q
    simp only [mapErase] at h
    split at h
    · exact List.mem_cons_of_mem _ h
    · rcases List.mem_cons.1 h with h | h
      · exact h ▸ List.mem_cons_self ..
      · exact List.mem_cons_of_mem _ (ih h)

/-- A write keeps the keys rising. -/
theorem mapSorted_set {α : Type} {m : SMap α} (k : Nat) (v : α) (h : mapSorted m = true) : mapSorted (mapSet m k v) = true := by
  induction m with
  | nil => rfl
  | cons q r ih =>
    obtain ⟨j, w⟩ := q
    simp only [mapSet]
    split
    · rename_i hk
      exact mapSorted_cons h fun p hp => by
        rcases List.mem_cons.1 hp with rfl | hp
        · exact hk
        · exact Nat.lt_trans hk (mapSorted_head h p hp)
    · split
      · rename_i hk
        subst hk
        exact mapSorted_cons (mapSorted_tail h) (mapSorted_head h)
      · refine mapSorted_cons (ih (mapSorted_tail h)) fun p hp => ?_
        rcases mem_mapSet hp with rfl | hp
        · simp only; omega
        · exact mapSorted_head h p hp

/-- Removing a key keeps the keys rising. -/
theorem mapSorted_erase {α : Type} {m : SMap α} (k : Nat) (h : mapSorted m = true) : mapSorted (mapErase m k) = true := by
  induction m with
  | nil => rfl
  | cons q r ih =>
    obtain ⟨j, w⟩ := q
    simp only [mapErase]
    split
    · exact mapSorted_tail h
    · exact mapSorted_cons (ih (mapSorted_tail h)) fun p hp => mapSorted_head h p (mem_mapErase hp)

/-- A key that every entry lies above is not listed. -/
theorem mapGet_none_of_lt {α : Type} {m : SMap α} {k : Nat} (h : ∀ p ∈ m, k < p.1) : mapGet m k = none := by
  induction m with
  | nil => rfl
  | cons q r ih =>
    obtain ⟨j, w⟩ := q
    have : k < j := h (j, w) (List.mem_cons_self ..)
    simp only [mapGet, if_neg (by omega : ¬ j = k)]
    exact ih fun p hp => h p (List.mem_cons_of_mem _ hp)

theorem mapGet_erase_same {α : Type} {m : SMap α} (k : Nat) (h : mapSorted m = true) : mapGet (mapErase m k) k = none := by
  induction m with
  | nil => rfl
  | cons q r ih =>
    obtain ⟨j, w⟩ := q
    simp only [mapErase]
    split
    · rename_i hk
      subst hk
      exact mapGet_none_of_lt (mapSorted_head h)
    · rename_i hk
      simp only [mapGet, if_neg hk]
      exact ih (mapSorted_tail h)

theorem mapGet_erase_other {α : Type} (m : SMap α) (k j : Nat) (h : j ≠ k) : mapGet (mapErase m k) j = mapGet m j := by
  induction m with
  | nil => rfl
  | cons q r ih =>
    obtain ⟨i, w⟩ := q
    simp only [mapErase]
    split
    · rename_i hk
      subst hk
      simp only [mapGet, if_neg (Ne.symm h)]
    · simp only [mapGet, ih]

/-! ### Memories -/

theorem Memory.wf_iff (m : Memory) : Memory.wf m = true ↔ mapSorted m = true ∧ ∀ p ∈ m, p.2 ≠ 0#8 := by
  simp [Memory.wf]

theorem memWrite_wf {m : Memory} (a : Nat) (b : Byte) (h : Memory.wf m = true) : Memory.wf (memWrite m a b) = true := by
  rw [Memory.wf_iff] at h ⊢
  unfold memWrite
  split
  · exact ⟨mapSorted_erase a h.1, fun p hp => h.2 p (mem_mapErase hp)⟩
  · rename_i hb
    refine ⟨mapSorted_set a b h.1, fun p hp => ?_⟩
    rcases mem_mapSet hp with rfl | hp
    · exact hb
    · exact h.2 p hp

theorem memWrites_wf {m : Memory} (a : Nat) (l : List Byte) (h : Memory.wf m = true) : Memory.wf (memWrites m a l) = true := by
  induction l generalizing m a with
  | nil => exact h
  | cons b r ih => exact ih (a + 1) (memWrite_wf a b h)

theorem memRead_write_same {m : Memory} (a : Nat) (b : Byte) (h : Memory.wf m = true) : memRead (memWrite m a b) a = b := by
  rw [Memory.wf_iff] at h
  unfold memRead memWrite
  split
  · rename_i hb
    subst hb
    simp [mapGetD, mapGet_erase_same a h.1]
  · simp

theorem memRead_write_other (m : Memory) (a j : Nat) (b : Byte) (h : j ≠ a) : memRead (memWrite m a b) j = memRead m j := by
  unfold memRead memWrite
  split
  · simp [mapGetD, mapGet_erase_other m a j h]
  · simp [h]

/-- A write of several bytes leaves every address outside them alone. -/
theorem memRead_writes_other (m : Memory) (a j : Nat) (l : List Byte) (h : j < a ∨ a + l.length ≤ j) :
    memRead (memWrites m a l) j = memRead m j := by
  induction l generalizing m a with
  | nil => rfl
  | cons b r ih =>
    simp only [List.length_cons] at h
    rw [memWrites, ih (memWrite m a b) (a + 1) (by omega), memRead_write_other m a j b (by omega)]

/-- A read after a write of several bytes gives the byte written. -/
theorem memRead_writes_same {m : Memory} (a : Nat) (l : List Byte) (h : Memory.wf m = true) (j : Nat) (hj : j < l.length) :
    memRead (memWrites m a l) (a + j) = l.getD j 0 := by
  induction l generalizing m a j with
  | nil => simp at hj
  | cons b r ih =>
    rw [memWrites]
    cases j with
    | zero => rw [memRead_writes_other _ _ _ _ (by omega), Nat.add_zero, memRead_write_same a b h]; rfl
    | succ n =>
      have := ih (m := memWrite m a b) (a + 1) (memWrite_wf a b h) n (by simpa using hj)
      rw [show a + (n + 1) = a + 1 + n by omega, this]; simp

@[simp] theorem length_memReads (m : Memory) (a n : Nat) : (memReads m a n).length = n := by
  induction n generalizing a with
  | zero => rfl
  | succ k ih => simp [memReads, ih]

@[simp] theorem length_toBytes (v n : Nat) : (toBytes v n).length = n := by
  induction n generalizing v with
  | zero => rfl
  | succ k ih => simp [toBytes, ih]

/-- Little-endian bytes give back their number. -/
theorem ofBytes_toBytes (v n : Nat) : ofBytes (toBytes v n) = v % 2 ^ (8 * n) := by
  induction n generalizing v with
  | zero => simp [toBytes, ofBytes, Nat.mod_one]
  | succ k ih =>
    simp only [toBytes, ofBytes, ih, BitVec.toNat_ofNat]
    rw [show 8 * (k + 1) = 8 + 8 * k by omega, Nat.pow_add, show (2 : Nat) ^ 8 = 256 by rfl, Nat.mod_mul]

end Sys2Proof.Machine
end

