-- ==== Sys2Proof/Laws/State.lean ====
section
/-! SUPPORT. One lemma per field per update of the state: what an update leaves alone. -/

namespace Sys2Proof.Machine

/-! ### `putCore` -/
@[simp] theorem putCore_cur (s : State) (c : Nat) (k : Core) : (putCore s c k).cur = s.cur := rfl
@[simp] theorem putCore_agenda (s : State) (c : Nat) (k : Core) : (putCore s c k).agenda = s.agenda := rfl
@[simp] theorem putCore_tick (s : State) (c : Nat) (k : Core) : (putCore s c k).tick = s.tick := rfl
@[simp] theorem putCore_device (s : State) (c : Nat) (k : Core) : (putCore s c k).device = s.device := rfl
@[simp] theorem putCore_coreTable (s : State) (c : Nat) (k : Core) : (putCore s c k).coreTable = s.coreTable := rfl
@[simp] theorem putCore_fronts (s : State) (c : Nat) (k : Core) : (putCore s c k).fronts = s.fronts := rfl
@[simp] theorem putCore_wings (s : State) (c : Nat) (k : Core) : (putCore s c k).wings = s.wings := rfl
@[simp] theorem putCore_clusters (s : State) (c : Nat) (k : Core) : (putCore s c k).clusters = s.clusters := rfl
@[simp] theorem putCore_queues (s : State) (c : Nat) (k : Core) : (putCore s c k).queues = s.queues := rfl
@[simp] theorem putCore_lastFlood (s : State) (c : Nat) (k : Core) : (putCore s c k).lastFlood = s.lastFlood := rfl
@[simp] theorem putCore_nextLaunch (s : State) (c : Nat) (k : Core) : (putCore s c k).nextLaunch = s.nextLaunch := rfl
@[simp] theorem putCore_pendOrder (s : State) (c : Nat) (k : Core) : (putCore s c k).pendOrder = s.pendOrder := rfl
@[simp] theorem putCore_launches (s : State) (c : Nat) (k : Core) : (putCore s c k).launches = s.launches := rfl
@[simp] theorem putCore_saved (s : State) (c : Nat) (k : Core) : (putCore s c k).saved = s.saved := rfl
@[simp] theorem putCore_flights (s : State) (c : Nat) (k : Core) : (putCore s c k).flights = s.flights := rfl
@[simp] theorem putCore_refused (s : State) (c : Nat) (k : Core) : (putCore s c k).refused = s.refused := rfl
@[simp] theorem putCore_deposits (s : State) (c : Nat) (k : Core) : (putCore s c k).deposits = s.deposits := rfl
@[simp] theorem putCore_completions (s : State) (c : Nat) (k : Core) : (putCore s c k).completions = s.completions := rfl
@[simp] theorem putCore_reds (s : State) (c : Nat) (k : Core) : (putCore s c k).reds = s.reds := rfl
@[simp] theorem putCore_nextRed (s : State) (c : Nat) (k : Core) : (putCore s c k).nextRed = s.nextRed := rfl
@[simp] theorem putCore_leases (s : State) (c : Nat) (k : Core) : (putCore s c k).leases = s.leases := rfl
@[simp] theorem putCore_nextLease (s : State) (c : Nat) (k : Core) : (putCore s c k).nextLease = s.nextLease := rfl
@[simp] theorem putCore_launchPushes (s : State) (c : Nat) (k : Core) : (putCore s c k).launchPushes = s.launchPushes := rfl
@[simp] theorem putCore_launchResults (s : State) (c : Nat) (k : Core) : (putCore s c k).launchResults = s.launchResults := rfl
@[simp] theorem putCore_debugHalt (s : State) (c : Nat) (k : Core) : (putCore s c k).debugHalt = s.debugHalt := rfl
@[simp] theorem putCore_mem (s : State) (c : Nat) (k : Core) : (putCore s c k).mem = s.mem := rfl
@[simp] theorem putCore_mg (s : State) (c : Nat) (k : Core) : (putCore s c k).mg = s.mg := rfl

/-! ### `onCore` -/
@[simp] theorem onCore_cur (s : State) (c : Nat) (f : Core → Core) : (onCore s c f).cur = s.cur := rfl
@[simp] theorem onCore_agenda (s : State) (c : Nat) (f : Core → Core) : (onCore s c f).agenda = s.agenda := rfl
@[simp] theorem onCore_tick (s : State) (c : Nat) (f : Core → Core) : (onCore s c f).tick = s.tick := rfl
@[simp] theorem onCore_device (s : State) (c : Nat) (f : Core → Core) : (onCore s c f).device = s.device := rfl
@[simp] theorem onCore_coreTable (s : State) (c : Nat) (f : Core → Core) : (onCore s c f).coreTable = s.coreTable := rfl
@[simp] theorem onCore_fronts (s : State) (c : Nat) (f : Core → Core) : (onCore s c f).fronts = s.fronts := rfl
@[simp] theorem onCore_wings (s : State) (c : Nat) (f : Core → Core) : (onCore s c f).wings = s.wings := rfl
@[simp] theorem onCore_clusters (s : State) (c : Nat) (f : Core → Core) : (onCore s c f).clusters = s.clusters := rfl
@[simp] theorem onCore_queues (s : State) (c : Nat) (f : Core → Core) : (onCore s c f).queues = s.queues := rfl
@[simp] theorem onCore_lastFlood (s : State) (c : Nat) (f : Core → Core) : (onCore s c f).lastFlood = s.lastFlood := rfl
@[simp] theorem onCore_nextLaunch (s : State) (c : Nat) (f : Core → Core) : (onCore s c f).nextLaunch = s.nextLaunch := rfl
@[simp] theorem onCore_pendOrder (s : State) (c : Nat) (f : Core → Core) : (onCore s c f).pendOrder = s.pendOrder := rfl
@[simp] theorem onCore_launches (s : State) (c : Nat) (f : Core → Core) : (onCore s c f).launches = s.launches := rfl
@[simp] theorem onCore_saved (s : State) (c : Nat) (f : Core → Core) : (onCore s c f).saved = s.saved := rfl
@[simp] theorem onCore_flights (s : State) (c : Nat) (f : Core → Core) : (onCore s c f).flights = s.flights := rfl
@[simp] theorem onCore_refused (s : State) (c : Nat) (f : Core → Core) : (onCore s c f).refused = s.refused := rfl
@[simp] theorem onCore_deposits (s : State) (c : Nat) (f : Core → Core) : (onCore s c f).deposits = s.deposits := rfl
@[simp] theorem onCore_completions (s : State) (c : Nat) (f : Core → Core) : (onCore s c f).completions = s.completions := rfl
@[simp] theorem onCore_reds (s : State) (c : Nat) (f : Core → Core) : (onCore s c f).reds = s.reds := rfl
@[simp] theorem onCore_nextRed (s : State) (c : Nat) (f : Core → Core) : (onCore s c f).nextRed = s.nextRed := rfl
@[simp] theorem onCore_leases (s : State) (c : Nat) (f : Core → Core) : (onCore s c f).leases = s.leases := rfl
@[simp] theorem onCore_nextLease (s : State) (c : Nat) (f : Core → Core) : (onCore s c f).nextLease = s.nextLease := rfl
@[simp] theorem onCore_launchPushes (s : State) (c : Nat) (f : Core → Core) : (onCore s c f).launchPushes = s.launchPushes := rfl
@[simp] theorem onCore_launchResults (s : State) (c : Nat) (f : Core → Core) : (onCore s c f).launchResults = s.launchResults := rfl
@[simp] theorem onCore_debugHalt (s : State) (c : Nat) (f : Core → Core) : (onCore s c f).debugHalt = s.debugHalt := rfl
@[simp] theorem onCore_mem (s : State) (c : Nat) (f : Core → Core) : (onCore s c f).mem = s.mem := rfl
@[simp] theorem onCore_mg (s : State) (c : Nat) (f : Core → Core) : (onCore s c f).mg = s.mg := rfl

/-! ### `putCtx` -/
@[simp] theorem putCtx_cur (s : State) (id : CtxId) (x : Ctx) : (putCtx s id x).cur = s.cur := rfl
@[simp] theorem putCtx_agenda (s : State) (id : CtxId) (x : Ctx) : (putCtx s id x).agenda = s.agenda := rfl
@[simp] theorem putCtx_tick (s : State) (id : CtxId) (x : Ctx) : (putCtx s id x).tick = s.tick := rfl
@[simp] theorem putCtx_device (s : State) (id : CtxId) (x : Ctx) : (putCtx s id x).device = s.device := rfl
@[simp] theorem putCtx_coreTable (s : State) (id : CtxId) (x : Ctx) : (putCtx s id x).coreTable = s.coreTable := rfl
@[simp] theorem putCtx_fronts (s : State) (id : CtxId) (x : Ctx) : (putCtx s id x).fronts = s.fronts := rfl
@[simp] theorem putCtx_wings (s : State) (id : CtxId) (x : Ctx) : (putCtx s id x).wings = s.wings := rfl
@[simp] theorem putCtx_clusters (s : State) (id : CtxId) (x : Ctx) : (putCtx s id x).clusters = s.clusters := rfl
@[simp] theorem putCtx_queues (s : State) (id : CtxId) (x : Ctx) : (putCtx s id x).queues = s.queues := rfl
@[simp] theorem putCtx_lastFlood (s : State) (id : CtxId) (x : Ctx) : (putCtx s id x).lastFlood = s.lastFlood := rfl
@[simp] theorem putCtx_nextLaunch (s : State) (id : CtxId) (x : Ctx) : (putCtx s id x).nextLaunch = s.nextLaunch := rfl
@[simp] theorem putCtx_pendOrder (s : State) (id : CtxId) (x : Ctx) : (putCtx s id x).pendOrder = s.pendOrder := rfl
@[simp] theorem putCtx_launches (s : State) (id : CtxId) (x : Ctx) : (putCtx s id x).launches = s.launches := rfl
@[simp] theorem putCtx_saved (s : State) (id : CtxId) (x : Ctx) : (putCtx s id x).saved = s.saved := rfl
@[simp] theorem putCtx_flights (s : State) (id : CtxId) (x : Ctx) : (putCtx s id x).flights = s.flights := rfl
@[simp] theorem putCtx_refused (s : State) (id : CtxId) (x : Ctx) : (putCtx s id x).refused = s.refused := rfl
@[simp] theorem putCtx_deposits (s : State) (id : CtxId) (x : Ctx) : (putCtx s id x).deposits = s.deposits := rfl
@[simp] theorem putCtx_completions (s : State) (id : CtxId) (x : Ctx) : (putCtx s id x).completions = s.completions := rfl
@[simp] theorem putCtx_reds (s : State) (id : CtxId) (x : Ctx) : (putCtx s id x).reds = s.reds := rfl
@[simp] theorem putCtx_nextRed (s : State) (id : CtxId) (x : Ctx) : (putCtx s id x).nextRed = s.nextRed := rfl
@[simp] theorem putCtx_leases (s : State) (id : CtxId) (x : Ctx) : (putCtx s id x).leases = s.leases := rfl
@[simp] theorem putCtx_nextLease (s : State) (id : CtxId) (x : Ctx) : (putCtx s id x).nextLease = s.nextLease := rfl
@[simp] theorem putCtx_launchPushes (s : State) (id : CtxId) (x : Ctx) : (putCtx s id x).launchPushes = s.launchPushes := rfl
@[simp] theorem putCtx_launchResults (s : State) (id : CtxId) (x : Ctx) : (putCtx s id x).launchResults = s.launchResults := rfl
@[simp] theorem putCtx_debugHalt (s : State) (id : CtxId) (x : Ctx) : (putCtx s id x).debugHalt = s.debugHalt := rfl
@[simp] theorem putCtx_mem (s : State) (id : CtxId) (x : Ctx) : (putCtx s id x).mem = s.mem := rfl
@[simp] theorem putCtx_mg (s : State) (id : CtxId) (x : Ctx) : (putCtx s id x).mg = s.mg := rfl

/-! ### `onCtx` -/
@[simp] theorem onCtx_cur (s : State) (id : CtxId) (f : Ctx → Ctx) : (onCtx s id f).cur = s.cur := rfl
@[simp] theorem onCtx_agenda (s : State) (id : CtxId) (f : Ctx → Ctx) : (onCtx s id f).agenda = s.agenda := rfl
@[simp] theorem onCtx_tick (s : State) (id : CtxId) (f : Ctx → Ctx) : (onCtx s id f).tick = s.tick := rfl
@[simp] theorem onCtx_device (s : State) (id : CtxId) (f : Ctx → Ctx) : (onCtx s id f).device = s.device := rfl
@[simp] theorem onCtx_coreTable (s : State) (id : CtxId) (f : Ctx → Ctx) : (onCtx s id f).coreTable = s.coreTable := rfl
@[simp] theorem onCtx_fronts (s : State) (id : CtxId) (f : Ctx → Ctx) : (onCtx s id f).fronts = s.fronts := rfl
@[simp] theorem onCtx_wings (s : State) (id : CtxId) (f : Ctx → Ctx) : (onCtx s id f).wings = s.wings := rfl
@[simp] theorem onCtx_clusters (s : State) (id : CtxId) (f : Ctx → Ctx) : (onCtx s id f).clusters = s.clusters := rfl
@[simp] theorem onCtx_queues (s : State) (id : CtxId) (f : Ctx → Ctx) : (onCtx s id f).queues = s.queues := rfl
@[simp] theorem onCtx_lastFlood (s : State) (id : CtxId) (f : Ctx → Ctx) : (onCtx s id f).lastFlood = s.lastFlood := rfl
@[simp] theorem onCtx_nextLaunch (s : State) (id : CtxId) (f : Ctx → Ctx) : (onCtx s id f).nextLaunch = s.nextLaunch := rfl
@[simp] theorem onCtx_pendOrder (s : State) (id : CtxId) (f : Ctx → Ctx) : (onCtx s id f).pendOrder = s.pendOrder := rfl
@[simp] theorem onCtx_launches (s : State) (id : CtxId) (f : Ctx → Ctx) : (onCtx s id f).launches = s.launches := rfl
@[simp] theorem onCtx_saved (s : State) (id : CtxId) (f : Ctx → Ctx) : (onCtx s id f).saved = s.saved := rfl
@[simp] theorem onCtx_flights (s : State) (id : CtxId) (f : Ctx → Ctx) : (onCtx s id f).flights = s.flights := rfl
@[simp] theorem onCtx_refused (s : State) (id : CtxId) (f : Ctx → Ctx) : (onCtx s id f).refused = s.refused := rfl
@[simp] theorem onCtx_deposits (s : State) (id : CtxId) (f : Ctx → Ctx) : (onCtx s id f).deposits = s.deposits := rfl
@[simp] theorem onCtx_completions (s : State) (id : CtxId) (f : Ctx → Ctx) : (onCtx s id f).completions = s.completions := rfl
@[simp] theorem onCtx_reds (s : State) (id : CtxId) (f : Ctx → Ctx) : (onCtx s id f).reds = s.reds := rfl
@[simp] theorem onCtx_nextRed (s : State) (id : CtxId) (f : Ctx → Ctx) : (onCtx s id f).nextRed = s.nextRed := rfl
@[simp] theorem onCtx_leases (s : State) (id : CtxId) (f : Ctx → Ctx) : (onCtx s id f).leases = s.leases := rfl
@[simp] theorem onCtx_nextLease (s : State) (id : CtxId) (f : Ctx → Ctx) : (onCtx s id f).nextLease = s.nextLease := rfl
@[simp] theorem onCtx_launchPushes (s : State) (id : CtxId) (f : Ctx → Ctx) : (onCtx s id f).launchPushes = s.launchPushes := rfl
@[simp] theorem onCtx_launchResults (s : State) (id : CtxId) (f : Ctx → Ctx) : (onCtx s id f).launchResults = s.launchResults := rfl
@[simp] theorem onCtx_debugHalt (s : State) (id : CtxId) (f : Ctx → Ctx) : (onCtx s id f).debugHalt = s.debugHalt := rfl
@[simp] theorem onCtx_mem (s : State) (id : CtxId) (f : Ctx → Ctx) : (onCtx s id f).mem = s.mem := rfl
@[simp] theorem onCtx_mg (s : State) (id : CtxId) (f : Ctx → Ctx) : (onCtx s id f).mg = s.mg := rfl

/-! ### `onCur` -/
@[simp] theorem onCur_cur (s : State) (f : Ctx → Ctx) : (onCur s f).cur = s.cur := rfl
@[simp] theorem onCur_agenda (s : State) (f : Ctx → Ctx) : (onCur s f).agenda = s.agenda := rfl
@[simp] theorem onCur_tick (s : State) (f : Ctx → Ctx) : (onCur s f).tick = s.tick := rfl
@[simp] theorem onCur_device (s : State) (f : Ctx → Ctx) : (onCur s f).device = s.device := rfl
@[simp] theorem onCur_coreTable (s : State) (f : Ctx → Ctx) : (onCur s f).coreTable = s.coreTable := rfl
@[simp] theorem onCur_fronts (s : State) (f : Ctx → Ctx) : (onCur s f).fronts = s.fronts := rfl
@[simp] theorem onCur_wings (s : State) (f : Ctx → Ctx) : (onCur s f).wings = s.wings := rfl
@[simp] theorem onCur_clusters (s : State) (f : Ctx → Ctx) : (onCur s f).clusters = s.clusters := rfl
@[simp] theorem onCur_queues (s : State) (f : Ctx → Ctx) : (onCur s f).queues = s.queues := rfl
@[simp] theorem onCur_lastFlood (s : State) (f : Ctx → Ctx) : (onCur s f).lastFlood = s.lastFlood := rfl
@[simp] theorem onCur_nextLaunch (s : State) (f : Ctx → Ctx) : (onCur s f).nextLaunch = s.nextLaunch := rfl
@[simp] theorem onCur_pendOrder (s : State) (f : Ctx → Ctx) : (onCur s f).pendOrder = s.pendOrder := rfl
@[simp] theorem onCur_launches (s : State) (f : Ctx → Ctx) : (onCur s f).launches = s.launches := rfl
@[simp] theorem onCur_saved (s : State) (f : Ctx → Ctx) : (onCur s f).saved = s.saved := rfl
@[simp] theorem onCur_flights (s : State) (f : Ctx → Ctx) : (onCur s f).flights = s.flights := rfl
@[simp] theorem onCur_refused (s : State) (f : Ctx → Ctx) : (onCur s f).refused = s.refused := rfl
@[simp] theorem onCur_deposits (s : State) (f : Ctx → Ctx) : (onCur s f).deposits = s.deposits := rfl
@[simp] theorem onCur_completions (s : State) (f : Ctx → Ctx) : (onCur s f).completions = s.completions := rfl
@[simp] theorem onCur_reds (s : State) (f : Ctx → Ctx) : (onCur s f).reds = s.reds := rfl
@[simp] theorem onCur_nextRed (s : State) (f : Ctx → Ctx) : (onCur s f).nextRed = s.nextRed := rfl
@[simp] theorem onCur_leases (s : State) (f : Ctx → Ctx) : (onCur s f).leases = s.leases := rfl
@[simp] theorem onCur_nextLease (s : State) (f : Ctx → Ctx) : (onCur s f).nextLease = s.nextLease := rfl
@[simp] theorem onCur_launchPushes (s : State) (f : Ctx → Ctx) : (onCur s f).launchPushes = s.launchPushes := rfl
@[simp] theorem onCur_launchResults (s : State) (f : Ctx → Ctx) : (onCur s f).launchResults = s.launchResults := rfl
@[simp] theorem onCur_debugHalt (s : State) (f : Ctx → Ctx) : (onCur s f).debugHalt = s.debugHalt := rfl
@[simp] theorem onCur_mem (s : State) (f : Ctx → Ctx) : (onCur s f).mem = s.mem := rfl
@[simp] theorem onCur_mg (s : State) (f : Ctx → Ctx) : (onCur s f).mg = s.mg := rfl

/-! ### `putFront` -/
@[simp] theorem putFront_cur (s : State) (n : Nat) (f : Front) : (putFront s n f).cur = s.cur := rfl
@[simp] theorem putFront_agenda (s : State) (n : Nat) (f : Front) : (putFront s n f).agenda = s.agenda := rfl
@[simp] theorem putFront_tick (s : State) (n : Nat) (f : Front) : (putFront s n f).tick = s.tick := rfl
@[simp] theorem putFront_device (s : State) (n : Nat) (f : Front) : (putFront s n f).device = s.device := rfl
@[simp] theorem putFront_coreTable (s : State) (n : Nat) (f : Front) : (putFront s n f).coreTable = s.coreTable := rfl
@[simp] theorem putFront_wings (s : State) (n : Nat) (f : Front) : (putFront s n f).wings = s.wings := rfl
@[simp] theorem putFront_cores (s : State) (n : Nat) (f : Front) : (putFront s n f).cores = s.cores := rfl
@[simp] theorem putFront_clusters (s : State) (n : Nat) (f : Front) : (putFront s n f).clusters = s.clusters := rfl
@[simp] theorem putFront_queues (s : State) (n : Nat) (f : Front) : (putFront s n f).queues = s.queues := rfl
@[simp] theorem putFront_lastFlood (s : State) (n : Nat) (f : Front) : (putFront s n f).lastFlood = s.lastFlood := rfl
@[simp] theorem putFront_nextLaunch (s : State) (n : Nat) (f : Front) : (putFront s n f).nextLaunch = s.nextLaunch := rfl
@[simp] theorem putFront_pendOrder (s : State) (n : Nat) (f : Front) : (putFront s n f).pendOrder = s.pendOrder := rfl
@[simp] theorem putFront_launches (s : State) (n : Nat) (f : Front) : (putFront s n f).launches = s.launches := rfl
@[simp] theorem putFront_saved (s : State) (n : Nat) (f : Front) : (putFront s n f).saved = s.saved := rfl
@[simp] theorem putFront_flights (s : State) (n : Nat) (f : Front) : (putFront s n f).flights = s.flights := rfl
@[simp] theorem putFront_refused (s : State) (n : Nat) (f : Front) : (putFront s n f).refused = s.refused := rfl
@[simp] theorem putFront_deposits (s : State) (n : Nat) (f : Front) : (putFront s n f).deposits = s.deposits := rfl
@[simp] theorem putFront_completions (s : State) (n : Nat) (f : Front) : (putFront s n f).completions = s.completions := rfl
@[simp] theorem putFront_reds (s : State) (n : Nat) (f : Front) : (putFront s n f).reds = s.reds := rfl
@[simp] theorem putFront_nextRed (s : State) (n : Nat) (f : Front) : (putFront s n f).nextRed = s.nextRed := rfl
@[simp] theorem putFront_leases (s : State) (n : Nat) (f : Front) : (putFront s n f).leases = s.leases := rfl
@[simp] theorem putFront_nextLease (s : State) (n : Nat) (f : Front) : (putFront s n f).nextLease = s.nextLease := rfl
@[simp] theorem putFront_launchPushes (s : State) (n : Nat) (f : Front) : (putFront s n f).launchPushes = s.launchPushes := rfl
@[simp] theorem putFront_launchResults (s : State) (n : Nat) (f : Front) : (putFront s n f).launchResults = s.launchResults := rfl
@[simp] theorem putFront_debugHalt (s : State) (n : Nat) (f : Front) : (putFront s n f).debugHalt = s.debugHalt := rfl
@[simp] theorem putFront_mem (s : State) (n : Nat) (f : Front) : (putFront s n f).mem = s.mem := rfl
@[simp] theorem putFront_mg (s : State) (n : Nat) (f : Front) : (putFront s n f).mg = s.mg := rfl

/-! ### `putWing` -/
@[simp] theorem putWing_cur (s : State) (n : Nat) (w : Wing) : (putWing s n w).cur = s.cur := rfl
@[simp] theorem putWing_agenda (s : State) (n : Nat) (w : Wing) : (putWing s n w).agenda = s.agenda := rfl
@[simp] theorem putWing_tick (s : State) (n : Nat) (w : Wing) : (putWing s n w).tick = s.tick := rfl
@[simp] theorem putWing_device (s : State) (n : Nat) (w : Wing) : (putWing s n w).device = s.device := rfl
@[simp] theorem putWing_coreTable (s : State) (n : Nat) (w : Wing) : (putWing s n w).coreTable = s.coreTable := rfl
@[simp] theorem putWing_fronts (s : State) (n : Nat) (w : Wing) : (putWing s n w).fronts = s.fronts := rfl
@[simp] theorem putWing_cores (s : State) (n : Nat) (w : Wing) : (putWing s n w).cores = s.cores := rfl
@[simp] theorem putWing_clusters (s : State) (n : Nat) (w : Wing) : (putWing s n w).clusters = s.clusters := rfl
@[simp] theorem putWing_queues (s : State) (n : Nat) (w : Wing) : (putWing s n w).queues = s.queues := rfl
@[simp] theorem putWing_lastFlood (s : State) (n : Nat) (w : Wing) : (putWing s n w).lastFlood = s.lastFlood := rfl
@[simp] theorem putWing_nextLaunch (s : State) (n : Nat) (w : Wing) : (putWing s n w).nextLaunch = s.nextLaunch := rfl
@[simp] theorem putWing_pendOrder (s : State) (n : Nat) (w : Wing) : (putWing s n w).pendOrder = s.pendOrder := rfl
@[simp] theorem putWing_launches (s : State) (n : Nat) (w : Wing) : (putWing s n w).launches = s.launches := rfl
@[simp] theorem putWing_saved (s : State) (n : Nat) (w : Wing) : (putWing s n w).saved = s.saved := rfl
@[simp] theorem putWing_flights (s : State) (n : Nat) (w : Wing) : (putWing s n w).flights = s.flights := rfl
@[simp] theorem putWing_refused (s : State) (n : Nat) (w : Wing) : (putWing s n w).refused = s.refused := rfl
@[simp] theorem putWing_deposits (s : State) (n : Nat) (w : Wing) : (putWing s n w).deposits = s.deposits := rfl
@[simp] theorem putWing_completions (s : State) (n : Nat) (w : Wing) : (putWing s n w).completions = s.completions := rfl
@[simp] theorem putWing_reds (s : State) (n : Nat) (w : Wing) : (putWing s n w).reds = s.reds := rfl
@[simp] theorem putWing_nextRed (s : State) (n : Nat) (w : Wing) : (putWing s n w).nextRed = s.nextRed := rfl
@[simp] theorem putWing_leases (s : State) (n : Nat) (w : Wing) : (putWing s n w).leases = s.leases := rfl
@[simp] theorem putWing_nextLease (s : State) (n : Nat) (w : Wing) : (putWing s n w).nextLease = s.nextLease := rfl
@[simp] theorem putWing_launchPushes (s : State) (n : Nat) (w : Wing) : (putWing s n w).launchPushes = s.launchPushes := rfl
@[simp] theorem putWing_launchResults (s : State) (n : Nat) (w : Wing) : (putWing s n w).launchResults = s.launchResults := rfl
@[simp] theorem putWing_debugHalt (s : State) (n : Nat) (w : Wing) : (putWing s n w).debugHalt = s.debugHalt := rfl
@[simp] theorem putWing_mem (s : State) (n : Nat) (w : Wing) : (putWing s n w).mem = s.mem := rfl
@[simp] theorem putWing_mg (s : State) (n : Nat) (w : Wing) : (putWing s n w).mg = s.mg := rfl

/-! ### `onWing` -/
@[simp] theorem onWing_cur (s : State) (n : Nat) (f : Wing → Wing) : (onWing s n f).cur = s.cur := rfl
@[simp] theorem onWing_agenda (s : State) (n : Nat) (f : Wing → Wing) : (onWing s n f).agenda = s.agenda := rfl
@[simp] theorem onWing_tick (s : State) (n : Nat) (f : Wing → Wing) : (onWing s n f).tick = s.tick := rfl
@[simp] theorem onWing_device (s : State) (n : Nat) (f : Wing → Wing) : (onWing s n f).device = s.device := rfl
@[simp] theorem onWing_coreTable (s : State) (n : Nat) (f : Wing → Wing) : (onWing s n f).coreTable = s.coreTable := rfl
@[simp] theorem onWing_fronts (s : State) (n : Nat) (f : Wing → Wing) : (onWing s n f).fronts = s.fronts := rfl
@[simp] theorem onWing_cores (s : State) (n : Nat) (f : Wing → Wing) : (onWing s n f).cores = s.cores := rfl
@[simp] theorem onWing_clusters (s : State) (n : Nat) (f : Wing → Wing) : (onWing s n f).clusters = s.clusters := rfl
@[simp] theorem onWing_queues (s : State) (n : Nat) (f : Wing → Wing) : (onWing s n f).queues = s.queues := rfl
@[simp] theorem onWing_lastFlood (s : State) (n : Nat) (f : Wing → Wing) : (onWing s n f).lastFlood = s.lastFlood := rfl
@[simp] theorem onWing_nextLaunch (s : State) (n : Nat) (f : Wing → Wing) : (onWing s n f).nextLaunch = s.nextLaunch := rfl
@[simp] theorem onWing_pendOrder (s : State) (n : Nat) (f : Wing → Wing) : (onWing s n f).pendOrder = s.pendOrder := rfl
@[simp] theorem onWing_launches (s : State) (n : Nat) (f : Wing → Wing) : (onWing s n f).launches = s.launches := rfl
@[simp] theorem onWing_saved (s : State) (n : Nat) (f : Wing → Wing) : (onWing s n f).saved = s.saved := rfl
@[simp] theorem onWing_flights (s : State) (n : Nat) (f : Wing → Wing) : (onWing s n f).flights = s.flights := rfl
@[simp] theorem onWing_refused (s : State) (n : Nat) (f : Wing → Wing) : (onWing s n f).refused = s.refused := rfl
@[simp] theorem onWing_deposits (s : State) (n : Nat) (f : Wing → Wing) : (onWing s n f).deposits = s.deposits := rfl
@[simp] theorem onWing_completions (s : State) (n : Nat) (f : Wing → Wing) : (onWing s n f).completions = s.completions := rfl
@[simp] theorem onWing_reds (s : State) (n : Nat) (f : Wing → Wing) : (onWing s n f).reds = s.reds := rfl
@[simp] theorem onWing_nextRed (s : State) (n : Nat) (f : Wing → Wing) : (onWing s n f).nextRed = s.nextRed := rfl
@[simp] theorem onWing_leases (s : State) (n : Nat) (f : Wing → Wing) : (onWing s n f).leases = s.leases := rfl
@[simp] theorem onWing_nextLease (s : State) (n : Nat) (f : Wing → Wing) : (onWing s n f).nextLease = s.nextLease := rfl
@[simp] theorem onWing_launchPushes (s : State) (n : Nat) (f : Wing → Wing) : (onWing s n f).launchPushes = s.launchPushes := rfl
@[simp] theorem onWing_launchResults (s : State) (n : Nat) (f : Wing → Wing) : (onWing s n f).launchResults = s.launchResults := rfl
@[simp] theorem onWing_debugHalt (s : State) (n : Nat) (f : Wing → Wing) : (onWing s n f).debugHalt = s.debugHalt := rfl
@[simp] theorem onWing_mem (s : State) (n : Nat) (f : Wing → Wing) : (onWing s n f).mem = s.mem := rfl
@[simp] theorem onWing_mg (s : State) (n : Nat) (f : Wing → Wing) : (onWing s n f).mg = s.mg := rfl

/-! ### `putCluster` -/
@[simp] theorem putCluster_cur (s : State) (n : Nat) (k : Cluster) : (putCluster s n k).cur = s.cur := rfl
@[simp] theorem putCluster_agenda (s : State) (n : Nat) (k : Cluster) : (putCluster s n k).agenda = s.agenda := rfl
@[simp] theorem putCluster_tick (s : State) (n : Nat) (k : Cluster) : (putCluster s n k).tick = s.tick := rfl
@[simp] theorem putCluster_device (s : State) (n : Nat) (k : Cluster) : (putCluster s n k).device = s.device := rfl
@[simp] theorem putCluster_coreTable (s : State) (n : Nat) (k : Cluster) : (putCluster s n k).coreTable = s.coreTable := rfl
@[simp] theorem putCluster_fronts (s : State) (n : Nat) (k : Cluster) : (putCluster s n k).fronts = s.fronts := rfl
@[simp] theorem putCluster_wings (s : State) (n : Nat) (k : Cluster) : (putCluster s n k).wings = s.wings := rfl
@[simp] theorem putCluster_cores (s : State) (n : Nat) (k : Cluster) : (putCluster s n k).cores = s.cores := rfl
@[simp] theorem putCluster_queues (s : State) (n : Nat) (k : Cluster) : (putCluster s n k).queues = s.queues := rfl
@[simp] theorem putCluster_lastFlood (s : State) (n : Nat) (k : Cluster) : (putCluster s n k).lastFlood = s.lastFlood := rfl
@[simp] theorem putCluster_nextLaunch (s : State) (n : Nat) (k : Cluster) : (putCluster s n k).nextLaunch = s.nextLaunch := rfl
@[simp] theorem putCluster_pendOrder (s : State) (n : Nat) (k : Cluster) : (putCluster s n k).pendOrder = s.pendOrder := rfl
@[simp] theorem putCluster_launches (s : State) (n : Nat) (k : Cluster) : (putCluster s n k).launches = s.launches := rfl
@[simp] theorem putCluster_saved (s : State) (n : Nat) (k : Cluster) : (putCluster s n k).saved = s.saved := rfl
@[simp] theorem putCluster_flights (s : State) (n : Nat) (k : Cluster) : (putCluster s n k).flights = s.flights := rfl
@[simp] theorem putCluster_refused (s : State) (n : Nat) (k : Cluster) : (putCluster s n k).refused = s.refused := rfl
@[simp] theorem putCluster_deposits (s : State) (n : Nat) (k : Cluster) : (putCluster s n k).deposits = s.deposits := rfl
@[simp] theorem putCluster_completions (s : State) (n : Nat) (k : Cluster) : (putCluster s n k).completions = s.completions := rfl
@[simp] theorem putCluster_reds (s : State) (n : Nat) (k : Cluster) : (putCluster s n k).reds = s.reds := rfl
@[simp] theorem putCluster_nextRed (s : State) (n : Nat) (k : Cluster) : (putCluster s n k).nextRed = s.nextRed := rfl
@[simp] theorem putCluster_leases (s : State) (n : Nat) (k : Cluster) : (putCluster s n k).leases = s.leases := rfl
@[simp] theorem putCluster_nextLease (s : State) (n : Nat) (k : Cluster) : (putCluster s n k).nextLease = s.nextLease := rfl
@[simp] theorem putCluster_launchPushes (s : State) (n : Nat) (k : Cluster) : (putCluster s n k).launchPushes = s.launchPushes := rfl
@[simp] theorem putCluster_launchResults (s : State) (n : Nat) (k : Cluster) : (putCluster s n k).launchResults = s.launchResults := rfl
@[simp] theorem putCluster_debugHalt (s : State) (n : Nat) (k : Cluster) : (putCluster s n k).debugHalt = s.debugHalt := rfl
@[simp] theorem putCluster_mem (s : State) (n : Nat) (k : Cluster) : (putCluster s n k).mem = s.mem := rfl
@[simp] theorem putCluster_mg (s : State) (n : Nat) (k : Cluster) : (putCluster s n k).mg = s.mg := rfl

/-! ### `putQueue` -/
@[simp] theorem putQueue_cur (s : State) (q : Nat) (k : Queue) : (putQueue s q k).cur = s.cur := rfl
@[simp] theorem putQueue_agenda (s : State) (q : Nat) (k : Queue) : (putQueue s q k).agenda = s.agenda := rfl
@[simp] theorem putQueue_tick (s : State) (q : Nat) (k : Queue) : (putQueue s q k).tick = s.tick := rfl
@[simp] theorem putQueue_device (s : State) (q : Nat) (k : Queue) : (putQueue s q k).device = s.device := rfl
@[simp] theorem putQueue_coreTable (s : State) (q : Nat) (k : Queue) : (putQueue s q k).coreTable = s.coreTable := rfl
@[simp] theorem putQueue_fronts (s : State) (q : Nat) (k : Queue) : (putQueue s q k).fronts = s.fronts := rfl
@[simp] theorem putQueue_wings (s : State) (q : Nat) (k : Queue) : (putQueue s q k).wings = s.wings := rfl
@[simp] theorem putQueue_cores (s : State) (q : Nat) (k : Queue) : (putQueue s q k).cores = s.cores := rfl
@[simp] theorem putQueue_clusters (s : State) (q : Nat) (k : Queue) : (putQueue s q k).clusters = s.clusters := rfl
@[simp] theorem putQueue_lastFlood (s : State) (q : Nat) (k : Queue) : (putQueue s q k).lastFlood = s.lastFlood := rfl
@[simp] theorem putQueue_nextLaunch (s : State) (q : Nat) (k : Queue) : (putQueue s q k).nextLaunch = s.nextLaunch := rfl
@[simp] theorem putQueue_pendOrder (s : State) (q : Nat) (k : Queue) : (putQueue s q k).pendOrder = s.pendOrder := rfl
@[simp] theorem putQueue_launches (s : State) (q : Nat) (k : Queue) : (putQueue s q k).launches = s.launches := rfl
@[simp] theorem putQueue_saved (s : State) (q : Nat) (k : Queue) : (putQueue s q k).saved = s.saved := rfl
@[simp] theorem putQueue_flights (s : State) (q : Nat) (k : Queue) : (putQueue s q k).flights = s.flights := rfl
@[simp] theorem putQueue_refused (s : State) (q : Nat) (k : Queue) : (putQueue s q k).refused = s.refused := rfl
@[simp] theorem putQueue_deposits (s : State) (q : Nat) (k : Queue) : (putQueue s q k).deposits = s.deposits := rfl
@[simp] theorem putQueue_completions (s : State) (q : Nat) (k : Queue) : (putQueue s q k).completions = s.completions := rfl
@[simp] theorem putQueue_reds (s : State) (q : Nat) (k : Queue) : (putQueue s q k).reds = s.reds := rfl
@[simp] theorem putQueue_nextRed (s : State) (q : Nat) (k : Queue) : (putQueue s q k).nextRed = s.nextRed := rfl
@[simp] theorem putQueue_leases (s : State) (q : Nat) (k : Queue) : (putQueue s q k).leases = s.leases := rfl
@[simp] theorem putQueue_nextLease (s : State) (q : Nat) (k : Queue) : (putQueue s q k).nextLease = s.nextLease := rfl
@[simp] theorem putQueue_launchPushes (s : State) (q : Nat) (k : Queue) : (putQueue s q k).launchPushes = s.launchPushes := rfl
@[simp] theorem putQueue_launchResults (s : State) (q : Nat) (k : Queue) : (putQueue s q k).launchResults = s.launchResults := rfl
@[simp] theorem putQueue_debugHalt (s : State) (q : Nat) (k : Queue) : (putQueue s q k).debugHalt = s.debugHalt := rfl
@[simp] theorem putQueue_mem (s : State) (q : Nat) (k : Queue) : (putQueue s q k).mem = s.mem := rfl
@[simp] theorem putQueue_mg (s : State) (q : Nat) (k : Queue) : (putQueue s q k).mg = s.mg := rfl

/-! ### `onMem` -/
@[simp] theorem onMem_cur (s : State) (f : GlobalMem → GlobalMem) : (onMem s f).cur = s.cur := rfl
@[simp] theorem onMem_agenda (s : State) (f : GlobalMem → GlobalMem) : (onMem s f).agenda = s.agenda := rfl
@[simp] theorem onMem_tick (s : State) (f : GlobalMem → GlobalMem) : (onMem s f).tick = s.tick := rfl
@[simp] theorem onMem_device (s : State) (f : GlobalMem → GlobalMem) : (onMem s f).device = s.device := rfl
@[simp] theorem onMem_coreTable (s : State) (f : GlobalMem → GlobalMem) : (onMem s f).coreTable = s.coreTable := rfl
@[simp] theorem onMem_fronts (s : State) (f : GlobalMem → GlobalMem) : (onMem s f).fronts = s.fronts := rfl
@[simp] theorem onMem_wings (s : State) (f : GlobalMem → GlobalMem) : (onMem s f).wings = s.wings := rfl
@[simp] theorem onMem_cores (s : State) (f : GlobalMem → GlobalMem) : (onMem s f).cores = s.cores := rfl
@[simp] theorem onMem_clusters (s : State) (f : GlobalMem → GlobalMem) : (onMem s f).clusters = s.clusters := rfl
@[simp] theorem onMem_queues (s : State) (f : GlobalMem → GlobalMem) : (onMem s f).queues = s.queues := rfl
@[simp] theorem onMem_lastFlood (s : State) (f : GlobalMem → GlobalMem) : (onMem s f).lastFlood = s.lastFlood := rfl
@[simp] theorem onMem_nextLaunch (s : State) (f : GlobalMem → GlobalMem) : (onMem s f).nextLaunch = s.nextLaunch := rfl
@[simp] theorem onMem_pendOrder (s : State) (f : GlobalMem → GlobalMem) : (onMem s f).pendOrder = s.pendOrder := rfl
@[simp] theorem onMem_launches (s : State) (f : GlobalMem → GlobalMem) : (onMem s f).launches = s.launches := rfl
@[simp] theorem onMem_saved (s : State) (f : GlobalMem → GlobalMem) : (onMem s f).saved = s.saved := rfl
@[simp] theorem onMem_flights (s : State) (f : GlobalMem → GlobalMem) : (onMem s f).flights = s.flights := rfl
@[simp] theorem onMem_refused (s : State) (f : GlobalMem → GlobalMem) : (onMem s f).refused = s.refused := rfl
@[simp] theorem onMem_deposits (s : State) (f : GlobalMem → GlobalMem) : (onMem s f).deposits = s.deposits := rfl
@[simp] theorem onMem_completions (s : State) (f : GlobalMem → GlobalMem) : (onMem s f).completions = s.completions := rfl
@[simp] theorem onMem_reds (s : State) (f : GlobalMem → GlobalMem) : (onMem s f).reds = s.reds := rfl
@[simp] theorem onMem_nextRed (s : State) (f : GlobalMem → GlobalMem) : (onMem s f).nextRed = s.nextRed := rfl
@[simp] theorem onMem_leases (s : State) (f : GlobalMem → GlobalMem) : (onMem s f).leases = s.leases := rfl
@[simp] theorem onMem_nextLease (s : State) (f : GlobalMem → GlobalMem) : (onMem s f).nextLease = s.nextLease := rfl
@[simp] theorem onMem_launchPushes (s : State) (f : GlobalMem → GlobalMem) : (onMem s f).launchPushes = s.launchPushes := rfl
@[simp] theorem onMem_launchResults (s : State) (f : GlobalMem → GlobalMem) : (onMem s f).launchResults = s.launchResults := rfl
@[simp] theorem onMem_debugHalt (s : State) (f : GlobalMem → GlobalMem) : (onMem s f).debugHalt = s.debugHalt := rfl
@[simp] theorem onMem_mg (s : State) (f : GlobalMem → GlobalMem) : (onMem s f).mg = s.mg := rfl

/-! ### `setReg` -/
@[simp] theorem setReg_status (x : Ctx) (r : BitVec 5) (v : Reg) : (setReg x r v).status = x.status := rfl
@[simp] theorem setReg_epoch (x : Ctx) (r : BitVec 5) (v : Reg) : (setReg x r v).epoch = x.epoch := rfl
@[simp] theorem setReg_starter (x : Ctx) (r : BitVec 5) (v : Reg) : (setReg x r v).starter = x.starter := rfl
@[simp] theorem setReg_pc (x : Ctx) (r : BitVec 5) (v : Reg) : (setReg x r v).pc = x.pc := rfl
@[simp] theorem setReg_pcc (x : Ctx) (r : BitVec 5) (v : Reg) : (setReg x r v).pcc = x.pcc := rfl
@[simp] theorem setReg_guard (x : Ctx) (r : BitVec 5) (v : Reg) : (setReg x r v).guard = x.guard := rfl
@[simp] theorem setReg_v (x : Ctx) (r : BitVec 5) (v : Reg) : (setReg x r v).v = x.v := rfl
@[simp] theorem setReg_m (x : Ctx) (r : BitVec 5) (v : Reg) : (setReg x r v).m = x.m := rfl
@[simp] theorem setReg_k (x : Ctx) (r : BitVec 5) (v : Reg) : (setReg x r v).k = x.k := rfl
@[simp] theorem setReg_s (x : Ctx) (r : BitVec 5) (v : Reg) : (setReg x r v).s = x.s := rfl
@[simp] theorem setReg_bar (x : Ctx) (r : BitVec 5) (v : Reg) : (setReg x r v).bar = x.bar := rfl
@[simp] theorem setReg_awaiting (x : Ctx) (r : BitVec 5) (v : Reg) : (setReg x r v).awaiting = x.awaiting := rfl
@[simp] theorem setReg_shape (x : Ctx) (r : BitVec 5) (v : Reg) : (setReg x r v).shape = x.shape := rfl
@[simp] theorem setReg_lmask (x : Ctx) (r : BitVec 5) (v : Reg) : (setReg x r v).lmask = x.lmask := rfl
@[simp] theorem setReg_ldepth (x : Ctx) (r : BitVec 5) (v : Reg) : (setReg x r v).ldepth = x.ldepth := rfl
@[simp] theorem setReg_lframe (x : Ctx) (r : BitVec 5) (v : Reg) : (setReg x r v).lframe = x.lframe := rfl
@[simp] theorem setReg_masks (x : Ctx) (r : BitVec 5) (v : Reg) : (setReg x r v).masks = x.masks := rfl
@[simp] theorem setReg_tstamp (x : Ctx) (r : BitVec 5) (v : Reg) : (setReg x r v).tstamp = x.tstamp := rfl
@[simp] theorem setReg_rngs (x : Ctx) (r : BitVec 5) (v : Reg) : (setReg x r v).rngs = x.rngs := rfl
@[simp] theorem setReg_chksb (x : Ctx) (r : BitVec 5) (v : Reg) : (setReg x r v).chksb = x.chksb := rfl
@[simp] theorem setReg_trapcause (x : Ctx) (r : BitVec 5) (v : Reg) : (setReg x r v).trapcause = x.trapcause := rfl
@[simp] theorem setReg_trappc (x : Ctx) (r : BitVec 5) (v : Reg) : (setReg x r v).trappc = x.trappc := rfl
@[simp] theorem setReg_trapval (x : Ctx) (r : BitVec 5) (v : Reg) : (setReg x r v).trapval = x.trapval := rfl
@[simp] theorem setReg_trapvec (x : Ctx) (r : BitVec 5) (v : Reg) : (setReg x r v).trapvec = x.trapvec := rfl
@[simp] theorem setReg_energy (x : Ctx) (r : BitVec 5) (v : Reg) : (setReg x r v).energy = x.energy := rfl
@[simp] theorem setReg_handler (x : Ctx) (r : BitVec 5) (v : Reg) : (setReg x r v).handler = x.handler := rfl
@[simp] theorem setReg_deferred (x : Ctx) (r : BitVec 5) (v : Reg) : (setReg x r v).deferred = x.deferred := rfl
@[simp] theorem setReg_resume (x : Ctx) (r : BitVec 5) (v : Reg) : (setReg x r v).resume = x.resume := rfl
@[simp] theorem setReg_resuming (x : Ctx) (r : BitVec 5) (v : Reg) : (setReg x r v).resuming = x.resuming := rfl
@[simp] theorem setReg_faulting (x : Ctx) (r : BitVec 5) (v : Reg) : (setReg x r v).faulting = x.faulting := rfl
@[simp] theorem setReg_wake (x : Ctx) (r : BitVec 5) (v : Reg) : (setReg x r v).wake = x.wake := rfl
@[simp] theorem setReg_idling (x : Ctx) (r : BitVec 5) (v : Reg) : (setReg x r v).idling = x.idling := rfl
@[simp] theorem setReg_leaseAgain (x : Ctx) (r : BitVec 5) (v : Reg) : (setReg x r v).leaseAgain = x.leaseAgain := rfl
@[simp] theorem setReg_waiting (x : Ctx) (r : BitVec 5) (v : Reg) : (setReg x r v).waiting = x.waiting := rfl
@[simp] theorem setReg_kept (x : Ctx) (r : BitVec 5) (v : Reg) : (setReg x r v).kept = x.kept := rfl
@[simp] theorem setReg_doing (x : Ctx) (r : BitVec 5) (v : Reg) : (setReg x r v).doing = x.doing := rfl
@[simp] theorem setReg_task (x : Ctx) (r : BitVec 5) (v : Reg) : (setReg x r v).task = x.task := rfl
@[simp] theorem setReg_nextCall (x : Ctx) (r : BitVec 5) (v : Reg) : (setReg x r v).nextCall = x.nextCall := rfl
@[simp] theorem setReg_stalled (x : Ctx) (r : BitVec 5) (v : Reg) : (setReg x r v).stalled = x.stalled := rfl
@[simp] theorem setReg_fetched (x : Ctx) (r : BitVec 5) (v : Reg) : (setReg x r v).fetched = x.fetched := rfl
@[simp] theorem setReg_pause (x : Ctx) (r : BitVec 5) (v : Reg) : (setReg x r v).pause = x.pause := rfl
@[simp] theorem setReg_delayed (x : Ctx) (r : BitVec 5) (v : Reg) : (setReg x r v).delayed = x.delayed := rfl
@[simp] theorem setReg_lag (x : Ctx) (r : BitVec 5) (v : Reg) : (setReg x r v).lag = x.lag := rfl
@[simp] theorem setReg_issued (x : Ctx) (r : BitVec 5) (v : Reg) : (setReg x r v).issued = x.issued := rfl
@[simp] theorem setReg_gathering (x : Ctx) (r : BitVec 5) (v : Reg) : (setReg x r v).gathering = x.gathering := rfl

end Sys2Proof.Machine
end

