-- ==== Sys2Proof/Laws/Parts.lean ====
section
/-! SUPPORT. Reading a part of the state after a write of it or of another part. -/

namespace Sys2Proof.Machine

@[simp] theorem getCore_putCore_same (s : State) (c : Nat) (k : Core) : getCore (putCore s c k) c = k := by
  simp [getCore, putCore]

@[simp] theorem getCore_putCore_other (s : State) (c d : Nat) (k : Core) (h : d ≠ c) : getCore (putCore s c k) d = getCore s d := by
  simp [getCore, putCore, h]

@[simp] theorem getCore_onCore_same (s : State) (c : Nat) (f : Core → Core) : getCore (onCore s c f) c = f (getCore s c) := by
  simp [onCore]

@[simp] theorem getCore_onCore_other (s : State) (c d : Nat) (f : Core → Core) (h : d ≠ c) : getCore (onCore s c f) d = getCore s d := by
  simp [onCore, h]

@[simp] theorem coreNum_onCore (s : State) (c d : Nat) (f : Core → Core) : coreNum (onCore s c f) d = coreNum s d := rfl

@[simp] theorem coreNum_onCtx (s : State) (id : CtxId) (d : Nat) (f : Ctx → Ctx) : coreNum (onCtx s id f) d = coreNum s d := rfl

@[simp] theorem getCtx_putCtx_same (s : State) (id : CtxId) (x : Ctx) : getCtx (putCtx s id x) id = x := by
  simp [getCtx, putCtx]

theorem getCtx_putCtx_other (s : State) (id j : CtxId) (x : Ctx) (h : j ≠ id) : getCtx (putCtx s id x) j = getCtx s j := by
  unfold getCtx putCtx
  by_cases hc : j.core = id.core
  · have hx : j.cx ≠ id.cx := fun hx => h (by cases j; cases id; simp_all)
    simp [hc, hx]
  · simp [hc]

@[simp] theorem getCtx_onCtx_same (s : State) (id : CtxId) (f : Ctx → Ctx) : getCtx (onCtx s id f) id = f (getCtx s id) := by
  simp [onCtx]

theorem getCtx_onCtx_other (s : State) (id j : CtxId) (f : Ctx → Ctx) (h : j ≠ id) : getCtx (onCtx s id f) j = getCtx s j := by
  simp [onCtx, getCtx_putCtx_other, h]

@[simp] theorem curCtx_onCur (s : State) (f : Ctx → Ctx) : curCtx (onCur s f) = f (curCtx s) := by
  simp [curCtx, onCur]

theorem getCtx_onCur_other (s : State) (j : CtxId) (f : Ctx → Ctx) (h : j ≠ s.cur) : getCtx (onCur s f) j = getCtx s j :=
  getCtx_onCtx_other s s.cur j f h

/-- A change of a context leaves the rest of its core alone. -/
@[simp] theorem getCore_onCtx_same (s : State) (id : CtxId) (f : Ctx → Ctx) :
    getCore (onCtx s id f) id.core =
      { getCore s id.core with ctxs := mapSet (getCore s id.core).ctxs id.cx (f (getCtx s id)) } := by
  simp [onCtx, putCtx]

theorem getCore_onCtx_other (s : State) (id : CtxId) (f : Ctx → Ctx) (c : Nat) (h : c ≠ id.core) :
    getCore (onCtx s id f) c = getCore s c := by
  simp [onCtx, putCtx, h]

/-- A change of a core that keeps its contexts keeps every context. -/
theorem getCtx_onCore_kept (s : State) (c : Nat) (f : Core → Core) (h : (f (getCore s c)).ctxs = (getCore s c).ctxs) (id : CtxId) :
    getCtx (onCore s c f) id = getCtx s id := by
  unfold getCtx
  by_cases hc : id.core = c
  · subst hc; simp [h]
  · simp [hc]

@[simp] theorem curCore_onCur (s : State) (f : Ctx → Ctx) :
    curCore (onCur s f) = { curCore s with ctxs := mapSet (curCore s).ctxs s.cur.cx (f (curCtx s)) } :=
  getCore_onCtx_same s s.cur f

@[simp] theorem getWing_putWing_same (s : State) (n : Nat) (w : Wing) : getWing (putWing s n w) n = w := by
  simp [getWing, putWing]

@[simp] theorem getWing_putWing_other (s : State) (n m : Nat) (w : Wing) (h : m ≠ n) : getWing (putWing s n w) m = getWing s m := by
  simp [getWing, putWing, h]

@[simp] theorem getFront_putFront_same (s : State) (n : Nat) (f : Front) : getFront (putFront s n f) n = f := by
  simp [getFront, putFront]

@[simp] theorem getCluster_putCluster_same (s : State) (n : Nat) (k : Cluster) : getCluster (putCluster s n k) n = k := by
  simp [getCluster, putCluster]

@[simp] theorem getQueue_putQueue_same (s : State) (q : Nat) (k : Queue) : getQueue (putQueue s q k) q = k := by
  simp [getQueue, putQueue]

/-! ### Register files -/

theorem vecGet_set_same {α : Type} {n : Nat} (v : Vector α n) (i : Nat) (a d : α) (h : i < n) : vecGet (vecSet v i a) i d = a := by
  simp [vecGet, vecSet, h]

theorem vecGet_set_other {α : Type} {n : Nat} (v : Vector α n) (i j : Nat) (a d : α) (h : j ≠ i) :
    vecGet (vecSet v i a) j d = vecGet v j d := by
  simp [vecGet, vecSet, Ne.symm h]

theorem vecGet_modify_same {α : Type} {n : Nat} (v : Vector α n) (i : Nat) (f : α → α) (d : α) (h : i < n) :
    vecGet (vecModify v i f) i d = f (vecGet v i d) := by
  simp [vecGet, vecModify, h]

theorem vecGet_modify_other {α : Type} {n : Nat} (v : Vector α n) (i j : Nat) (f : α → α) (d : α) (h : j ≠ i) :
    vecGet (vecModify v i f) j d = vecGet v j d := by
  unfold vecModify
  split
  · simp [vecGet, Ne.symm h]
  · rfl

end Sys2Proof.Machine
end

