-- ==== Sys2Proof/Laws/Issue.lean ====
section
/-! SUPPORT. Issuing an instruction: registers and the writes on their way, what retiring does, the cases of `issueTo`
(R50, R53, R60, R65, R67 to R69). -/

namespace Sys2Proof.Machine

/-! ### Registers -/

theorem readReg_zero (x : Ctx) : readReg x 0 = regNull := rfl

theorem readReg_congr {x z : Ctx} (h : x.c = z.c) (r : BitVec 5) : readReg x r = readReg z r := by
  unfold readReg; rw [h]

/-- A landed write is read back; c0 stays the null capability (R50). -/
theorem readReg_setReg_same (x : Ctx) (r : BitVec 5) (v : Reg) : readReg (setReg x r v) r = if r = 0 then regNull else v := by
  unfold readReg setReg
  by_cases h : r = 0
  · simp [h]
  · simp only [h, if_false]
    exact vecGet_set_same _ _ _ _ r.isLt

theorem readReg_setReg_other (x : Ctx) (r q : BitVec 5) (v : Reg) (h : q ≠ r) : readReg (setReg x r v) q = readReg x q := by
  unfold readReg setReg
  by_cases hr : r = 0
  · simp [hr]
  · simp only [hr, if_false]
    by_cases hq : q = 0
    · simp [hq]
    · simp only [hq, if_false]
      exact vecGet_set_other _ _ _ _ _ fun e => h (BitVec.eq_of_toNat_eq e)

/-- Landing one write changes its register only. -/
theorem readReg_landOne (x : Ctx) (p : Pending) (r : BitVec 5) :
    readReg (landOne x p) r = if r = 0 then regNull else if p.reg = r then dataReg p.val else readReg x r := by
  unfold landOne
  by_cases h0 : r = 0
  · simp [h0, readReg]
  · by_cases hp : p.reg = 0
    · have : p.reg ≠ r := fun e => h0 (e ▸ hp)
      rw [if_pos hp, if_neg h0, if_neg this]
    · simp only [hp, if_false, h0]
      by_cases hr : p.reg = r
      · subst hr
        simp only [readReg, h0, if_false, if_true]
        exact vecGet_set_same _ _ _ _ p.reg.isLt
      · simp only [readReg, h0, if_false, hr]
        exact vecGet_set_other _ _ _ _ _ fun e => hr (BitVec.eq_of_toNat_eq e.symm)

/-- Writes land in order: the last one to a register decides what it holds. -/
theorem readReg_foldl_land (l : List Pending) (x : Ctx) (r : BitVec 5) :
    readReg (l.foldl landOne x) r =
      if r = 0 then regNull
      else match (l.filter fun p => p.reg = r).getLast? with
        | some p => dataReg p.val
        | none => readReg x r := by
  induction l generalizing x with
  | nil =>
    by_cases h0 : r = 0
    · simp [h0, readReg]
    · rw [if_neg h0]; rfl
  | cons p t ih =>
    rw [List.foldl_cons, ih]
    by_cases h0 : r = 0
    · simp [h0]
    · simp only [h0, if_false, readReg_landOne, List.filter_cons]
      by_cases hp : p.reg = r
      · subst hp
        simp only [decide_true, if_true, List.getLast?_cons]
        cases (t.filter fun q => q.reg = p.reg).getLast? <;> simp
      · simp [hp]

/-- What a register settles to, by its last write on the way. -/
theorem settled_eq (x : Ctx) (r : BitVec 5) :
    settled x r =
      if r = 0 then regNull
      else match (x.pending.filter fun p => p.reg = r).getLast? with
        | some p => dataReg p.val
        | none => readReg x r := by
  unfold settled
  rw [← readReg_foldl_land]
  exact readReg_congr rfl r

theorem settled_zero (x : Ctx) : settled x 0 = regNull := rfl

theorem settled_latest (x : Ctx) (r : BitVec 5) (h : r ≠ 0) : settled x r = latestReg x r := by
  exact (settled_eq x r).trans (if_neg h)

theorem settled_congr {x z : Ctx} (hc : x.c = z.c) (hp : x.pending = z.pending) (r : BitVec 5) : settled x r = settled z r := by
  rw [settled_eq, settled_eq, hp, readReg_congr hc]

theorem settled_setReg_same (x : Ctx) (r : BitVec 5) (v : Reg) : settled (setReg x r v) r = if r = 0 then regNull else v := by
  rw [settled_eq]
  by_cases h : r = 0
  · simp [h]
  · have hn : ((setReg x r v).pending.filter fun p => p.reg = r) = [] := by
      simp [setReg, List.filter_eq_nil_iff]
    simp only [h, if_false, hn, List.getLast?_nil, readReg_setReg_same]

theorem settled_setReg_other (x : Ctx) (r q : BitVec 5) (v : Reg) (h : q ≠ r) : settled (setReg x r v) q = settled x q := by
  rw [settled_eq, settled_eq, readReg_setReg_other x r q v h]
  have : ((setReg x r v).pending.filter fun p => p.reg = q) = x.pending.filter fun p => p.reg = q := by
    simp only [setReg, List.filter_filter]
    congr 1
    funext p
    by_cases hp : p.reg = q
    · simp [hp, h]
    · simp [hp]
  rw [this]

theorem settled_setLate_same (x : Ctx) (r : BitVec 5) (l : Nat) (v : W64) :
    settled (setLate x r l v) r = if r = 0 then regNull else dataReg v := by
  rw [settled_eq]
  by_cases h : r = 0
  · simp [h]
  · rw [if_neg h, if_neg h, setLate, if_neg h]
    simp

theorem settled_setLate_other (x : Ctx) (r q : BitVec 5) (l : Nat) (v : W64) (h : q ≠ r) :
    settled (setLate x r l v) q = settled x q := by
  unfold setLate
  by_cases hr : r = 0
  · rw [if_pos hr]
  · rw [if_neg hr, settled_eq, settled_eq]
    have hf : ∀ (n : Nat), (((x.pending.filter fun p => p.reg != r || decide (p.left < n)) ++ [Pending.mk r v n]).filter
        fun p => decide (p.reg = q)) = x.pending.filter fun p => decide (p.reg = q) := by
      intro n
      rw [List.filter_append, List.filter_filter, List.filter_cons_of_neg (by simpa using Ne.symm h), List.filter_nil, List.append_nil]
      congr 1
      funext p
      by_cases hp : p.reg = q
      · simp [hp, h]
      · simp [hp]
    simp only [hf]
    rfl

/-- Landing some of the writes first changes nothing of what a register settles to, when those that stay behind are later. -/
theorem settled_landRegs (x : Ctx) (l : List (BitVec 5)) (r : BitVec 5) : settled (landRegs x l) r = settled x r := by
  rw [settled_eq, settled_eq]
  by_cases h0 : r = 0
  · simp [h0]
  · simp only [h0, if_false]
    have hc : readReg (landRegs x l) r = readReg ((x.pending.filter fun p => l.contains p.reg).foldl landOne x) r := rfl
    rw [hc, readReg_foldl_land, if_neg h0]
    simp only [landRegs, List.filter_filter]
    by_cases hr : r ∈ l
    · have h1 : (x.pending.filter fun p => decide (p.reg = r) && !l.contains p.reg) = [] := by
        simp only [List.filter_eq_nil_iff]
        intro p _
        by_cases hp : p.reg = r
        · simp [hp, hr]
        · simp [hp]
      have h2 : (x.pending.filter fun p => decide (p.reg = r) && l.contains p.reg) = x.pending.filter fun p => p.reg = r := by
        congr 1
        funext p
        by_cases hp : p.reg = r
        · simp [hp, hr]
        · simp [hp]
      rw [h1, h2]
      rfl
    · have h1 : (x.pending.filter fun p => decide (p.reg = r) && l.contains p.reg) = [] := by
        simp only [List.filter_eq_nil_iff]
        intro p _
        by_cases hp : p.reg = r
        · simp [hp, hr]
        · simp [hp]
      have h2 : (x.pending.filter fun p => decide (p.reg = r) && !l.contains p.reg) = x.pending.filter fun p => p.reg = r := by
        congr 1
        funext p
        by_cases hp : p.reg = r
        · simp [hp, hr]
        · simp [hp]
      rw [h1, h2]
      rfl

/-! ### Issue cycles -/

theorem advance_c (x : Ctx) (n : Nat) : (advance x n).c = ((x.pending.filter fun p => p.left ≤ n).foldl landOne x).c := rfl

theorem landOne_kept (x : Ctx) (p : Pending) : landOne x p = { x with c := (landOne x p).c } := by
  unfold landOne; split <;> rfl

theorem foldl_land_kept (l : List Pending) (x : Ctx) : l.foldl landOne x = { x with c := (l.foldl landOne x).c } := by
  induction l generalizing x with
  | nil => rfl
  | cons p t ih =>
    rw [List.foldl_cons]
    exact (ih (landOne x p)).trans (congrArg (fun z : Ctx => { z with c := (t.foldl landOne (landOne x p)).c }) (landOne_kept x p))

/-- A change of a context that touches its general registers and the writes on their way only. -/
def regsOnly (x z : Ctx) : Prop := z = { x with c := z.c, pending := z.pending }

theorem regsOnly_refl (x : Ctx) : regsOnly x x := rfl

theorem regsOnly_trans {x z u : Ctx} (h1 : regsOnly x z) (h2 : regsOnly z u) : regsOnly x u :=
  Eq.trans h2 (congrArg (fun w : Ctx => { w with c := u.c, pending := u.pending }) h1)

/-- Issue cycles change the registers and the writes on their way only. -/
theorem regsOnly_advance (x : Ctx) (n : Nat) : regsOnly x (advance x n) := by
  unfold regsOnly
  exact congrArg (fun z : Ctx => { z with pending := (advance x n).pending }) (foldl_land_kept (x.pending.filter fun p => p.left ≤ n) x)

/-- Landing every write changes the registers and the writes on their way only, and starts the count behind them anew. -/
theorem landAll_kept (x : Ctx) : landAll x = { x with c := (landAll x).c, pending := [], lag := 0 } :=
  congrArg (fun z : Ctx => { z with pending := [], lag := 0 }) (foldl_land_kept x.pending x)

theorem regsOnly_landRegs (x : Ctx) (l : List (BitVec 5)) : regsOnly x (landRegs x l) := by
  unfold regsOnly
  exact congrArg (fun z : Ctx => { z with pending := (landRegs x l).pending }) (foldl_land_kept (x.pending.filter fun p => l.contains p.reg) x)

theorem regsOnly_setLate (x : Ctx) (r : BitVec 5) (l : Nat) (v : W64) : regsOnly x (setLate x r l v) := by
  unfold regsOnly setLate
  by_cases hr : r = 0 <;> simp only [hr, if_true, if_false]

theorem regsOnly_setReg (x : Ctx) (r : BitVec 5) (v : Reg) : regsOnly x (setReg x r v) := rfl

/-! ### Retiring -/

@[simp] theorem retire_cur (s : State) (n : Nat) (pc : W64) : (retire s n pc).cur = s.cur := rfl

@[simp] theorem curCtx_retire (s : State) (n : Nat) (pc : W64) :
    curCtx (retire s n pc) =
      { advance (curCtx s) (if (curCtx s).guard = .none then n else n + 1) with
        pc := pc
        lag := if (advance (curCtx s) (if (curCtx s).guard = .none then n else n + 1)).pending.isEmpty then 0
          else (curCtx s).lag + if (curCtx s).guard = .none then n else n + 1
        delayed := false
        guard := .none
        resume := if (curCtx s).handler || (curCtx s).resuming = 2 then (curCtx s).resume else 0
        kept := if (curCtx s).handler || (curCtx s).resuming = 2 then (curCtx s).kept else none
        doing := none
        issued := none
        gathering := false
        resuming := (curCtx s).resuming - 1
        waiting := none
        idling := none
        stalled := false } := by
  simp [retire]

@[simp] theorem curCtx_retire_pc (s : State) (n : Nat) (pc : W64) : (curCtx (retire s n pc)).pc = pc := by simp

@[simp] theorem twinRetire_cur (s : State) (l : List (BitVec 5)) : (twinRetire s l).cur = s.cur := by
  unfold twinRetire; split <;> rfl

@[simp] theorem getCtx_twinRetire (s : State) (l : List (BitVec 5)) (id : CtxId) : getCtx (twinRetire s l) id = getCtx s id := by
  unfold twinRetire
  split
  · rfl
  · exact getCtx_onCore_kept _ _ _ rfl id

@[simp] theorem curCtx_twinRetire (s : State) (l : List (BitVec 5)) : curCtx (twinRetire s l) = curCtx s := by
  simp [curCtx]

/-- A core without a pair keeps no count. -/
theorem twinRetire_none (s : State) (l : List (BitVec 5)) (h : (curCore s).twin = none) : twinRetire s l = s := by
  unfold twinRetire; rw [h]

/-! ### The cases of issuing -/

section
variable {i : Instr} {n : Nat} {reads writes late : List (BitVec 5)} {waits : Bool} {s s' : State}

section
variable {body : M (Option W64)}

/-- An operand value that the entry does not list raises ILLOP before anything else (R65). -/
theorem issueLate_illegal (hl : legal i = false) :
    issueLate i n reads writes late body s = .next (raiseSync s ⟨cILLOP, false, natW i.word⟩ (curCtx s).pc) := by
  unfold issueLate; simp [hl]

/-- A suppressed instruction only passes (R60). -/
theorem issueLate_suppressed (hl : legal i = true) (hg : (curCtx s).guard = .suppress) :
    issueLate i n reads writes late body s = .next (retire (twinRetire s []) n (nextPc (curCtx s) i.len)) := by
  unfold issueLate; simp [hl, hg]

/-- The register of a GUARD was not ready (R61, R75). -/
theorem issueLate_unread {r : Nat} (hl : legal i = true) (hg : (curCtx s).guard = .unread r) :
    issueLate i n reads writes late body s = .next (raiseSync s ⟨cSTALLCNT, false, natW r⟩ (curCtx s).pc) := by
  unfold issueLate; simp [hl, hg]

/-- Behind an open guard the scoreboard decides, and then the body. -/
theorem issueLate_open (hl : legal i = true) (hg : guardOpen (curCtx s).guard = true) :
    issueLate i n reads writes late body s =
      match scoreboardHit (curCtx s) (reads ++ writes) late with
      | some r => .next (raiseSync s (stallTrap body (reads ++ writes) r s) (curCtx s).pc)
      | none =>
        match body (lateState late s) with
        | .ok none s' => .next (retire (twinRetire s' writes) n (nextPc (curCtx s) i.len))
        | .ok (some pc) s' => .next (retire (twinRetire s' writes) n pc)
        | .error (.trap t) s' => .next (raiseSync s' t (curCtx s).pc)
        | .error (.trapNext t) s' => .next (raiseSync s' t (nextPc (curCtx s) i.len))
        | .error .stall s' => .next (onCur (unfeed s s') (stallAt i)) := by
  unfold issueLate lateState
  rw [if_neg (by simp [hl])]
  cases h : (curCtx s).guard <;> simp only [h, guardOpen, Bool.false_eq_true] at hg <;> (simp only [h]; try rfl)

/-- The checking scoreboard reports the lowest register (R69). -/
theorem issueLate_stallcnt {r : Nat} (hl : legal i = true) (hg : guardOpen (curCtx s).guard = true)
    (hs : scoreboardHit (curCtx s) (reads ++ writes) late = some r) :
    issueLate i n reads writes late body s = .next (raiseSync s (stallTrap body (reads ++ writes) r s) (curCtx s).pc) := by
  rw [issueLate_open hl hg, hs]

/-- The body ran to its end: the instruction retires. -/
theorem issueLate_ok {o : Option W64} (hl : legal i = true) (hi : issuesLate s reads writes late) (hb : body (lateState late s) = .ok o s') :
    issueLate i n reads writes late body s = .next (retire (twinRetire s' writes) n (o.getD (nextPc (curCtx s) i.len))) := by
  rw [issueLate_open hl hi.1, hi.2, hb]
  cases o <;> rfl

/-- The body raised a synchronous fault. -/
theorem issueLate_trap {t : Trap} (hl : legal i = true) (hi : issuesLate s reads writes late)
    (hb : body (lateState late s) = .error (.trap t) s') :
    issueLate i n reads writes late body s = .next (raiseSync s' t (curCtx s).pc) := by
  rw [issueLate_open hl hi.1, hi.2, hb]

/-- The body raised a trap that resumes behind the instruction (R244). -/
theorem issueLate_trapNext {t : Trap} (hl : legal i = true) (hi : issuesLate s reads writes late)
    (hb : body (lateState late s) = .error (.trapNext t) s') :
    issueLate i n reads writes late body s = .next (raiseSync s' t (nextPc (curCtx s) i.len)) := by
  rw [issueLate_open hl hi.1, hi.2, hb]

/-- The body stalled: the instruction is tried again. -/
theorem issueLate_stall (hl : legal i = true) (hi : issuesLate s reads writes late) (hb : body (lateState late s) = .error .stall s') :
    issueLate i n reads writes late body s = .next (onCur (unfeed s s') (stallAt i)) := by
  rw [issueLate_open hl hi.1, hi.2, hb]

/-- Issuing always answers a next state: no instruction of a program stops the machine. -/
theorem issueLate_next (i : Instr) (n : Nat) (reads writes late : List (BitVec 5)) (body : M (Option W64)) (s : State) :
    ∃ t, issueLate i n reads writes late body s = .next t := by
  by_cases hl : legal i = true
  · cases hg : (curCtx s).guard with
    | suppress => exact ⟨_, issueLate_suppressed hl hg⟩
    | unread r => exact ⟨_, issueLate_unread hl hg⟩
    | _ =>
      rw [issueLate_open hl (by rw [hg]; rfl)]
      split
      · exact ⟨_, rfl⟩
      · split <;> exact ⟨_, rfl⟩
  · exact ⟨_, issueLate_illegal (by simpa using hl)⟩

theorem issueTo_eq : issueTo i n reads writes waits body s = issueLate i n reads writes (lateRegs reads waits) body s := rfl

theorem issueTo_illegal (hl : legal i = false) :
    issueTo i n reads writes waits body s = .next (raiseSync s ⟨cILLOP, false, natW i.word⟩ (curCtx s).pc) :=
  issueLate_illegal hl

theorem issueTo_suppressed (hl : legal i = true) (hg : (curCtx s).guard = .suppress) :
    issueTo i n reads writes waits body s = .next (retire (twinRetire s []) n (nextPc (curCtx s) i.len)) :=
  issueLate_suppressed hl hg

theorem issueTo_ok {o : Option W64} (hl : legal i = true) (hi : issues s reads writes waits) (hb : body (bodyState reads waits s) = .ok o s') :
    issueTo i n reads writes waits body s = .next (retire (twinRetire s' writes) n (o.getD (nextPc (curCtx s) i.len))) :=
  issueLate_ok hl hi hb

theorem issueTo_trap {t : Trap} (hl : legal i = true) (hi : issues s reads writes waits)
    (hb : body (bodyState reads waits s) = .error (.trap t) s') :
    issueTo i n reads writes waits body s = .next (raiseSync s' t (curCtx s).pc) :=
  issueLate_trap hl hi hb

theorem issueTo_trapNext {t : Trap} (hl : legal i = true) (hi : issues s reads writes waits)
    (hb : body (bodyState reads waits s) = .error (.trapNext t) s') :
    issueTo i n reads writes waits body s = .next (raiseSync s' t (nextPc (curCtx s) i.len)) :=
  issueLate_trapNext hl hi hb

theorem issueTo_stall (hl : legal i = true) (hi : issues s reads writes waits) (hb : body (bodyState reads waits s) = .error .stall s') :
    issueTo i n reads writes waits body s = .next (onCur (unfeed s s') (stallAt i)) :=
  issueLate_stall hl hi hb

theorem issueTo_next (i : Instr) (n : Nat) (reads writes : List (BitVec 5)) (waits : Bool) (body : M (Option W64)) (s : State) :
    ∃ t, issueTo i n reads writes waits body s = .next t :=
  issueLate_next _ _ _ _ _ _ _

end

theorem issue_eq (i : Instr) (n : Nat) (reads writes : List (BitVec 5)) (waits : Bool) (body : M Unit) (s : State) :
    issue i n reads writes waits body s = issueTo i n reads writes waits (body *> pure none) s := rfl

theorem issue_ok {body : M Unit} (hl : legal i = true) (hi : issues s reads writes waits)
    (hb : body (bodyState reads waits s) = .ok () s') :
    issue i n reads writes waits body s = .next (retire (twinRetire s' writes) n (nextPc (curCtx s) i.len)) := by
  rw [issue_eq, issueTo_ok (o := none) (s' := s') hl hi]
  · rfl
  · simp [SeqRight.seqRight, EStateM.seqRight, hb, pure, EStateM.pure]

theorem issue_trap {body : M Unit} {t : Trap} (hl : legal i = true) (hi : issues s reads writes waits)
    (hb : body (bodyState reads waits s) = .error (.trap t) s') :
    issue i n reads writes waits body s = .next (raiseSync s' t (curCtx s).pc) := by
  rw [issue_eq, issueTo_trap (t := t) (s' := s') hl hi]
  simp [SeqRight.seqRight, EStateM.seqRight, hb]

theorem issue_trapNext {body : M Unit} {t : Trap} (hl : legal i = true) (hi : issues s reads writes waits)
    (hb : body (bodyState reads waits s) = .error (.trapNext t) s') :
    issue i n reads writes waits body s = .next (raiseSync s' t (nextPc (curCtx s) i.len)) := by
  rw [issue_eq, issueTo_trapNext (t := t) (s' := s') hl hi]
  simp [SeqRight.seqRight, EStateM.seqRight, hb]

theorem issue_stall {body : M Unit} (hl : legal i = true) (hi : issues s reads writes waits)
    (hb : body (bodyState reads waits s) = .error .stall s') :
    issue i n reads writes waits body s = .next (onCur (unfeed s s') (stallAt i)) := by
  rw [issue_eq, issueTo_stall (s' := s') hl hi]
  simp [SeqRight.seqRight, EStateM.seqRight, hb]

end

end Sys2Proof.Machine
end

