-- ==== Sys2Proof/Laws/Body.lean ====
section
/-! SUPPORT. What the steps of a body do when it runs: one equation for each, so that a body is computed by rewriting. -/

namespace Sys2Proof.Machine

section
variable {α β : Type} (s : State)

@[simp] theorem run_pure (a : α) : (pure a : M α) s = .ok a s := rfl

@[simp] theorem run_bind (x : M α) (f : α → M β) :
    (x >>= f) s = match x s with
      | .ok a z => f a z
      | .error e z => .error e z := by
  simp only [bind, EStateM.bind]
  cases x s <;> rfl

@[simp] theorem run_throw (e : Stop) : (throw e : M α) s = .error e s := rfl

@[simp] theorem run_get : (get : M State) s = .ok s s := rfl

@[simp] theorem run_modify (f : State → State) : (modify f : M PUnit) s = .ok ⟨⟩ (f s) := rfl

theorem run_ite (c : Prop) [Decidable c] (x z : M α) : (if c then x else z) s = if c then x s else z s := by
  split <;> rfl

@[simp] theorem run_ite_pos (c : Prop) [Decidable c] (x z : M α) (h : c) : (if c then x else z) s = x s := by
  rw [if_pos h]

@[simp] theorem run_ite_neg (c : Prop) [Decidable c] (x z : M α) (h : ¬c) : (if c then x else z) s = z s := by
  rw [if_neg h]

@[simp] theorem run_map (f : α → β) (x : M α) :
    (f <$> x) s = match x s with
      | .ok a z => .ok (f a) z
      | .error e z => .error e z := by
  simp only [Functor.map, EStateM.map]
  cases x s <;> rfl

@[simp] theorem run_seqRight (x : M α) (z : M β) :
    (x *> z) s = match x s with
      | .ok _ t => z t
      | .error e t => .error e t := by
  simp only [SeqRight.seqRight, EStateM.seqRight]
  cases x s <;> rfl

@[simp] theorem run_me : me s = .ok (curCtx s) s := rfl

@[simp] theorem run_myCore : myCore s = .ok (curCore s) s := rfl

@[simp] theorem run_meSender : meSender s = .ok (senderOf s s.cur) s := rfl

@[simp] theorem run_setMe (f : Ctx → Ctx) : setMe f s = .ok ⟨⟩ (onCur s f) := rfl

@[simp] theorem run_setCore (f : Core → Core) : setCore f s = .ok ⟨⟩ (onCore s s.cur.core f) := rfl

@[simp] theorem run_rdReg (r : BitVec 5) : rdReg r s = .ok (readReg (curCtx s) r) s := rfl

@[simp] theorem run_rd (r : BitVec 5) : rd r s = .ok (regData (readReg (curCtx s) r)) s := rfl

@[simp] theorem run_wrReg (r : BitVec 5) (v : Reg) : wrReg r v s = .ok ⟨⟩ (onCur s fun x => setReg x r v) := rfl

@[simp] theorem run_wr (r : BitVec 5) (v : W64) : wr r v s = .ok ⟨⟩ (onCur s fun x => setReg x r (dataReg v)) := rfl

@[simp] theorem run_wrLate (r : BitVec 5) (l : Nat) (v : W64) : wrLate r l v s = .ok ⟨⟩ (onCur s fun x => setLate x r l v) := rfl

@[simp] theorem run_stall : (stall : M α) s = .error .stall s := rfl

@[simp] theorem run_fault (code : Nat) (val : W64) : (fault code val : M α) s = .error (.trap ⟨code, false, val⟩) s := rfl

@[simp] theorem run_faultCap (val : W64) : (faultCap val : M α) s = .error (.trap ⟨cPERM, true, val⟩) s := rfl

@[simp] theorem run_illop (i : Instr) : (illop i : M α) s = .error (.trap ⟨cILLOP, false, natW i.word⟩) s := rfl

@[simp] theorem run_await (b : Bool) : await_ b s = if b then .ok ⟨⟩ s else .error .stall s := by
  cases b <;> rfl

@[simp] theorem run_faultIf (b : Bool) (code : Nat) (val : W64) :
    faultIf b code val s = if b then .error (.trap ⟨code, false, val⟩) s else .ok ⟨⟩ s := by
  cases b <;> rfl

@[simp] theorem run_illopIf (b : Bool) (i : Instr) :
    illopIf b i s = if b then .error (.trap ⟨cILLOP, false, natW i.word⟩) s else .ok ⟨⟩ s := by
  cases b <;> rfl

/-- An instruction that waits for an outside result stalls while its task is speculative (R44). -/
@[simp] theorem run_notSpec : notSpec s = if isSpec (curCtx s) then .error .stall s else .ok ⟨⟩ s := by
  simp only [notSpec, run_bind, run_me, run_await]
  cases isSpec (curCtx s) <;> rfl

@[simp] theorem run_orFault_ok (a : α) : orFault (.ok a : Except Trap α) s = .ok a s := rfl

@[simp] theorem run_orFault_error (t : Trap) : orFault (.error t : Except Trap α) s = .error (.trap t) s := rfl

/-- Outside a pair an input is the value itself (R256). -/
theorem run_input (v : W128) (h : (curCore s).twin = none) : input v s = .ok v s := by
  simp [input, h]

theorem run_inputW (v : W64) (h : (curCore s).twin = none) : inputW v s = .ok v s := by
  simp [inputW, run_input s _ h]

/-- Outside a pair a shared operation is the operation itself (R256). -/
theorem run_shared (act : M W64) (h : (curCore s).twin = none) : shared act s = act s := by
  simp [shared, h]

theorem run_sharedWide (act : M W128) (h : (curCore s).twin = none) : sharedWide act s = act s := by
  simp [sharedWide, h]

theorem run_wingWrite (h : (curCore s).twin = none) : wingWrite s = .ok ⟨⟩ s := by
  simp [wingWrite, h]

theorem run_isSecondary (h : (curCore s).twin = none) : isSecondary s = .ok false s := by
  simp [isSecondary, h]

end

end Sys2Proof.Machine
end

