-- ==== Sys2Proof/Laws/Retire.lean ====
section
/-! SUPPORT. What a retired instruction leaves: its destination settles to its result, everything else is kept (R67). -/

namespace Sys2Proof.Machine

theorem outsideKept_refl (s : State) : outsideKept s s := ⟨rfl, fun _ _ => rfl, rfl, fun _ _ => rfl⟩

theorem outsideKept_trans {s t u : State} (h1 : outsideKept s t) (h2 : outsideKept t u) : outsideKept s u := by
  obtain ⟨a1, b1, c1, d1⟩ := h1
  obtain ⟨a2, b2, c2, d2⟩ := h2
  have hc : t.cur = s.cur := by rw [a1]
  rw [hc] at b2 c2 d2
  refine ⟨a2.trans (congrArg (fun z : State => { z with cores := u.cores }) a1), fun c h => (b2 c h).trans (b1 c h), ?_,
    fun id h => (d2 id h).trans (d1 id h)⟩
  have hk : curCore t = getCore t s.cur.core := by rw [curCore, hc]
  rw [hk] at c2
  exact c2.trans (congrArg (fun z : Core => { z with ctxs := (getCore u s.cur.core).ctxs, twin := (getCore u s.cur.core).twin }) c1)

theorem outsideKept_onCur (s : State) (f : Ctx → Ctx) : outsideKept s (onCur s f) := by
  refine ⟨rfl, fun c hc => getCore_onCtx_other _ _ _ _ hc, ?_, fun id h => getCtx_onCur_other _ _ _ h⟩
  have := curCore_onCur s f
  rw [curCore, onCur_cur] at this
  rw [this]

theorem outsideKept_twinRetire (s : State) (l : List (BitVec 5)) : outsideKept s (twinRetire s l) := by
  unfold twinRetire
  split
  · exact outsideKept_refl s
  · refine ⟨rfl, fun c hc => getCore_onCore_other _ _ _ _ hc, ?_, fun id _ => getCtx_onCore_kept _ _ _ rfl id⟩
    rw [getCore_onCore_same]; rfl

theorem memoryKept_of {s t : State} (h : outsideKept s t) : memoryKept s t := by
  obtain ⟨a, b, c, -⟩ := h
  have hm : t.mem = s.mem := by rw [a]
  refine ⟨fun _ => by rw [hm], fun _ => by rw [hm], fun k x => ?_⟩
  by_cases hk : k = s.cur.core
  · subst hk
    have hc : (getCore t s.cur.core).cell = (getCore s s.cur.core).cell := by rw [c]; rfl
    rw [hc]
  · rw [b k hk]

/-- What retiring leaves of a context that a body changed in its general registers only. -/
theorem ctxKept_retire {x z u : Ctx} (h : regsOnly x z) (hu : regsOnly z u) (pc : W64) (a b n : Nat) (e : Option MatWork) :
    ctxKept x { u with
      pc := pc, lag := n, delayed := false, guard := .none, resume := a, kept := e, doing := none, issued := none, gathering := false, resuming := b, waiting := none,
      idling := none, stalled := false } := by
  unfold ctxKept
  exact congrArg (fun w : Ctx => { w with
    pc := pc, lag := n, delayed := false, guard := .none, resume := a, kept := e, doing := none, issued := none, gathering := false, resuming := b, waiting := none,
      idling := none, stalled := false })
    (regsOnly_trans h hu)

/-- A register settles to the same before and after issue cycles when no write on its way overtakes an older one. -/
theorem settled_advance_last (x : Ctx) (n : Nat) (r : BitVec 5) (v : W64) (m : Nat) (l : List Pending) (h : x.pending = l ++ [⟨r, v, m⟩])
    (hl : ∀ p ∈ l, p.reg = r → p.left < m) (hr : r ≠ 0) : settled (advance x n) r = dataReg v := by
  rw [settled_eq, if_neg hr]
  have hp : (advance x n).pending.filter (fun p => p.reg = r) = ((x.pending.filter fun p => n < p.left).map fun p => { p with left := p.left - n }).filter fun p => p.reg = r := rfl
  have hc : readReg (advance x n) r = readReg ((x.pending.filter fun p => p.left ≤ n).foldl landOne x) r := rfl
  rw [hp, hc, readReg_foldl_land, if_neg hr, h]
  by_cases hm : n < m
  · simp [hm]
  · have e1 : ((List.map (fun p : Pending => { p with left := p.left - n }) (List.filter (fun p => n < p.left) (l ++ [⟨r, v, m⟩]))).filter fun p => p.reg = r) = [] := by
      rw [List.filter_eq_nil_iff]
      intro p hp
      obtain ⟨q, hq, rfl⟩ := List.mem_map.1 hp
      have hq := List.mem_filter.1 hq
      have h2 := hq.2
      simp only [decide_eq_true_eq] at h2 ⊢
      intro hqr
      rcases List.mem_append.1 hq.1 with hq | hq
      · have := hl q hq hqr
        omega
      · simp only [List.mem_singleton] at hq
        subst hq
        exact hm h2
    rw [e1]
    have : m ≤ n := by omega
    simp [this]

theorem settled_advance_none (x : Ctx) (n : Nat) (r : BitVec 5) (h : x.pending.filter (fun p => p.reg = r) = []) :
    settled (advance x n) r = readReg x r := by
  have hq : ∀ p ∈ x.pending, p.reg ≠ r := by simpa [List.filter_eq_nil_iff] using h
  rw [settled_eq]
  by_cases h0 : r = 0
  · simp [h0, readReg]
  · have hp : (advance x n).pending.filter (fun p => p.reg = r) = ((x.pending.filter fun p => n < p.left).map fun p => { p with left := p.left - n }).filter fun p => p.reg = r := rfl
    have hc : readReg (advance x n) r = readReg ((x.pending.filter fun p => p.left ≤ n).foldl landOne x) r := rfl
    rw [if_neg h0, hp, hc, readReg_foldl_land, if_neg h0]
    have e1 : ((List.map (fun p : Pending => { p with left := p.left - n }) (List.filter (fun p => n < p.left) x.pending)).filter fun p => p.reg = r) = [] := by
      simp only [List.filter_eq_nil_iff]
      intro p hp
      obtain ⟨q, hq', rfl⟩ := List.mem_map.1 hp
      simpa using hq q (List.mem_filter.1 hq').1
    have e2 : ((x.pending.filter fun p => p.left ≤ n).filter fun p => p.reg = r) = [] := by
      simp only [List.filter_eq_nil_iff]
      intro p hp
      simpa using hq p (List.mem_filter.1 hp).1
    rw [e1, e2]
    rfl

/-- A late write settles to its value whenever its instruction retires (R67). -/
theorem settled_advance_setLate (x : Ctx) (r : BitVec 5) (l n : Nat) (v : W64) :
    settled (advance (setLate x r l v) n) r = if r = 0 then regNull else dataReg v := by
  by_cases hr : r = 0
  · subst hr; rfl
  · rw [if_neg hr]
    unfold setLate
    rw [if_neg hr]
    refine settled_advance_last _ n r v _ _ rfl (fun p hp he => ?_) hr
    have := (List.mem_filter.1 hp).2
    simpa [he] using this

theorem settled_advance_setReg (x : Ctx) (r : BitVec 5) (n : Nat) (v : Reg) :
    settled (advance (setReg x r v) n) r = if r = 0 then regNull else v := by
  rw [settled_advance_none, readReg_setReg_same]
  simp [setReg, List.filter_eq_nil_iff]

theorem filter_setLate_other (x : Ctx) (r q : BitVec 5) (l : Nat) (v : W64) (h : q ≠ r) :
    ((setLate x r l v).pending.filter fun p => decide (p.reg = q)) = x.pending.filter fun p => decide (p.reg = q) := by
  unfold setLate
  by_cases hr : r = 0
  · rw [if_pos hr]
  · rw [if_neg hr]
    show (((x.pending.filter _) ++ [_]).filter _) = _
    rw [List.filter_append, List.filter_filter, List.filter_cons_of_neg (by simpa using Ne.symm h), List.filter_nil, List.append_nil]
    congr 1
    funext p
    by_cases hp : p.reg = q
    · simp [hp, h]
    · simp [hp]

theorem readReg_setLate (x : Ctx) (r q : BitVec 5) (l : Nat) (v : W64) : readReg (setLate x r l v) q = readReg x q := by
  unfold setLate
  by_cases hr : r = 0
  · rw [if_pos hr]
  · rw [if_neg hr]; rfl

/-- What issue cycles do to a register depends on its own writes only. -/
theorem advance_congr {x z : Ctx} {r : BitVec 5} (n : Nat) (hc : readReg x r = readReg z r)
    (hp : (x.pending.filter fun p => decide (p.reg = r)) = z.pending.filter fun p => decide (p.reg = r)) :
    readReg (advance x n) r = readReg (advance z n) r ∧
      ((advance x n).pending.filter fun p => decide (p.reg = r)) = (advance z n).pending.filter fun p => decide (p.reg = r) := by
  have swap : ∀ (f : Pending → Bool) (l : List Pending), (l.filter f).filter (fun p => decide (p.reg = r)) = (l.filter fun p => decide (p.reg = r)).filter f := by
    intro f l
    rw [List.filter_filter, List.filter_filter]
    congr 1
    funext p
    exact Bool.and_comm _ _
  constructor
  · have e : ∀ w : Ctx, readReg (advance w n) r = readReg ((w.pending.filter fun p => p.left ≤ n).foldl landOne w) r := fun _ => rfl
    rw [e, e, readReg_foldl_land, readReg_foldl_land, swap, swap, hp, hc]
  · have e : ∀ w : Ctx, (advance w n).pending.filter (fun p => decide (p.reg = r)) = ((w.pending.filter fun p => decide (p.reg = r)).filter fun p => n < p.left).map fun p => { p with left := p.left - n } := by
      intro w
      rw [← swap]
      show ((List.map _ _).filter _) = _
      rw [List.filter_map]
      rfl
    rw [e, e, hp]

theorem othersKept_setLate (x : Ctx) (d : BitVec 5) (l n : Nat) (v : W64) : othersKept x (advance (setLate x d l v) n) n [d] := by
  intro r hr
  have hr : r ≠ d := by simpa using hr
  exact advance_congr n (readReg_setLate x d r l v) (filter_setLate_other x d r l v hr)

theorem othersKept_setReg (x : Ctx) (d : BitVec 5) (n : Nat) (v : Reg) : othersKept x (advance (setReg x d v) n) n [d] := by
  intro r hr
  have hr : r ≠ d := by simpa using hr
  refine advance_congr n (readReg_setReg_other x d r v hr) ?_
  simp only [setReg, List.filter_filter]
  congr 1
  funext p
  by_cases hp : p.reg = r
  · simp [hp, hr]
  · simp [hp]

theorem othersKept_congr {x z u : Ctx} {n : Nat} {l : List (BitVec 5)} (h : othersKept x z n l) (hc : u.c = z.c) (hp : u.pending = z.pending) : othersKept x u n l := by
  intro r hr
  rw [readReg_congr hc, hp]
  exact h r hr

/-! ### A body that changes the executing context's registers only -/

theorem landRegs_nil (x : Ctx) : landRegs x [] = x := by
  have h : (x.pending.filter fun p => ([] : List (BitVec 5)).contains p.reg) = [] := List.filter_eq_nil_iff.2 (by simp)
  have g : (x.pending.filter fun p => !([] : List (BitVec 5)).contains p.reg) = x.pending := List.filter_eq_self.2 (by simp)
  unfold landRegs
  rw [h, g]
  rfl

@[simp] theorem curCtx_lateState (late : List (BitVec 5)) (s : State) : curCtx (lateState late s) = landRegs (curCtx s) late := by
  unfold lateState
  cases late
  · simp [landRegs_nil]
  · simp

@[simp] theorem curCtx_bodyState (reads : List (BitVec 5)) (waits : Bool) (s : State) :
    curCtx (bodyState reads waits s) = readCtx s reads waits := curCtx_lateState _ _

theorem outsideKept_lateState (late : List (BitVec 5)) (s : State) : outsideKept s (lateState late s) := by
  unfold lateState
  split
  · exact outsideKept_refl s
  · exact outsideKept_onCur s _

theorem outsideKept_bodyState (reads : List (BitVec 5)) (waits : Bool) (s : State) : outsideKept s (bodyState reads waits s) :=
  outsideKept_lateState _ _

theorem regsOnly_readCtx (s : State) (reads : List (BitVec 5)) (waits : Bool) : regsOnly (curCtx s) (readCtx s reads waits) :=
  regsOnly_landRegs _ _

theorem regsOnly_guard {x z : Ctx} (h : regsOnly x z) : z.guard = x.guard := by
  rw [h]

theorem outsideKept_retire (s : State) (n : Nat) (pc : W64) : outsideKept s (retire s n pc) := outsideKept_onCur s _

/-- The state after a body that left everything outside the context alone, once the instruction has retired. -/
theorem retired_outside {s u : State} (h : outsideKept s u) (w : List (BitVec 5)) (n : Nat) (pc : W64) :
    outsideKept s (retire (twinRetire u w) n pc) :=
  outsideKept_trans h (outsideKept_trans (outsideKept_twinRetire u w) (outsideKept_retire _ n pc))

theorem retired_ctx {s u : State} (hx : regsOnly (curCtx s) (curCtx u)) (w : List (BitVec 5)) (n : Nat) (pc : W64) :
    ctxKept (curCtx s) (curCtx (retire (twinRetire u w) n pc)) ∧
      (curCtx (retire (twinRetire u w) n pc)).c = (advance (curCtx u) (cyclesOf (curCtx s) n)).c ∧
      (curCtx (retire (twinRetire u w) n pc)).pending = (advance (curCtx u) (cyclesOf (curCtx s) n)).pending := by
  have hg := regsOnly_guard hx
  rw [curCtx_retire, curCtx_twinRetire, hg]
  exact ⟨ctxKept_retire hx (regsOnly_advance _ _) _ _ _ _ _, rfl, rfl⟩

/-- An older write to the register of a late write lands as it would have, until that one lands (R67). -/
theorem readReg_advance_setLate (x : Ctx) (r : BitVec 5) (l n : Nat) (v : W64) :
    readReg (advance (setLate x r l v) (cyclesOf x n)) r =
      if r = 0 then regNull else if l ≤ n then dataReg v else readReg (advance x (cyclesOf x n)) r := by
  by_cases hr : r = 0
  · subst hr; rfl
  · have e : ∀ w : Ctx, readReg (advance w (cyclesOf x n)) r =
        readReg ((w.pending.filter fun p => p.left ≤ cyclesOf x n).foldl landOne w) r := fun _ => rfl
    rw [if_neg hr, e, readReg_foldl_land, if_neg hr, readReg_setLate]
    have hp : (setLate x r l v).pending =
        (x.pending.filter fun p => p.reg != r || decide (p.left < cyclesOf x l)) ++ [⟨r, v, cyclesOf x l⟩] := by
      unfold setLate cyclesOf
      rw [if_neg hr]
    by_cases hl : l ≤ n
    · have hc : cyclesOf x l ≤ cyclesOf x n := by unfold cyclesOf; split <;> omega
      rw [if_pos hl, hp]
      simp [hc]
    · have hc : cyclesOf x n < cyclesOf x l := by unfold cyclesOf; split <;> omega
      rw [if_neg hl, e, readReg_foldl_land, if_neg hr, hp]
      have : (((x.pending.filter fun p => p.reg != r || decide (p.left < cyclesOf x l)) ++ [Pending.mk r v (cyclesOf x l)]).filter
          fun p => decide (p.left ≤ cyclesOf x n)) = x.pending.filter fun p => decide (p.left ≤ cyclesOf x n) := by
        rw [List.filter_append, List.filter_filter, List.filter_cons_of_neg (by simpa using hc), List.filter_nil, List.append_nil]
        congr 1
        funext p
        by_cases hq : p.left ≤ cyclesOf x n
        · simp [hq, show p.left < cyclesOf x l by omega]
        · simp [hq]
      rw [this]

theorem readReg_advance_setReg (x : Ctx) (r : BitVec 5) (n : Nat) (v : Reg) :
    readReg (advance (setReg x r v) n) r = if r = 0 then regNull else v := by
  have e : readReg (advance (setReg x r v) n) r =
      readReg (((setReg x r v).pending.filter fun p => p.left ≤ n).foldl landOne (setReg x r v)) r := rfl
  rw [e, readReg_foldl_land, readReg_setReg_same]
  by_cases hr : r = 0
  · simp [hr]
  · have : (((setReg x r v).pending.filter fun p => p.left ≤ n).filter fun p => p.reg = r) = [] := by
      simp only [List.filter_eq_nil_iff, setReg]
      intro p hp
      have := (List.mem_filter.1 (List.mem_filter.1 hp).1).2
      simpa using this
    rw [if_neg hr, if_neg hr, this]
    rfl

/-- An instruction whose body writes one register completes as `writesLate` says. -/
theorem writesLate_of_body {i : Instr} {n l : Nat} {reads late : List (BitVec 5)} {d : BitVec 5} {v : Ctx → Reg} {body : M (Option W64)} {P : Ctx → Prop}
    (w : Ctx → Ctx) (he : ∀ s, exec i s = issueLate i n reads [d] late body s) (hb : ∀ s, P (curCtx s) → body s = .ok none (onCur s w))
    (hr : ∀ x, regsOnly x (w x)) (hd : ∀ x k, P x → settled (advance (w x) k) d = if d = 0 then regNull else v x)
    (hn : ∀ x, P x → readReg (advance (w x) (cyclesOf x n)) d =
      if d = 0 then regNull else if l ≤ n then v x else readReg (advance x (cyclesOf x n)) d)
    (ho : ∀ x k, othersKept x (advance (w x) k) k [d]) : writesLate i n l reads late d P v := by
  intro hl s hi hP
  have hbody := hb (lateState late s) (by rwa [curCtx_lateState])
  refine ⟨retire (twinRetire (onCur (lateState late s) w) [d]) n (nextPc (curCtx s) i.len), (he s).trans (issueLate_ok hl hi hbody), ?_⟩
  have hout : outsideKept s (onCur (lateState late s) w) := outsideKept_trans (outsideKept_lateState late s) (outsideKept_onCur _ _)
  have hctx : curCtx (onCur (lateState late s) w) = w (landRegs (curCtx s) late) := by simp
  have hregs : regsOnly (curCtx s) (curCtx (onCur (lateState late s) w)) := by
    rw [hctx]; exact regsOnly_trans (regsOnly_landRegs _ _) (hr _)
  have hk := retired_ctx hregs [d] n (nextPc (curCtx s) i.len)
  have ho' := retired_outside hout [d] n (nextPc (curCtx s) i.len)
  have hg : cyclesOf (landRegs (curCtx s) late) n = cyclesOf (curCtx s) n := by
    unfold cyclesOf; rw [regsOnly_guard (regsOnly_landRegs _ _)]
  have hn' := hn (landRegs (curCtx s) late) hP
  rw [hg] at hn'
  rw [hctx] at hk
  refine ⟨by simp, ?_, ?_, othersKept_congr (ho _ _) hk.2.1 hk.2.2, hk.1, ho', memoryKept_of ho'⟩
  · rw [settled_congr hk.2.1 hk.2.2]
    exact hd _ _ hP
  · rw [readReg_congr hk.2.1]
    exact hn'

/-- The case of an instruction that waits for the writes of what it reads, or for none. -/
theorem writesWhen_of_body {i : Instr} {n l : Nat} {reads : List (BitVec 5)} {waits : Bool} {d : BitVec 5} {v : Ctx → Reg} {body : M Unit} {P : Ctx → Prop}
    (w : Ctx → Ctx) (he : ∀ s, exec i s = issue i n reads [d] waits body s) (hb : ∀ s, P (curCtx s) → body s = .ok () (onCur s w))
    (hr : ∀ x, regsOnly x (w x)) (hd : ∀ x k, P x → settled (advance (w x) k) d = if d = 0 then regNull else v x)
    (hn : ∀ x, P x → readReg (advance (w x) (cyclesOf x n)) d =
      if d = 0 then regNull else if l ≤ n then v x else readReg (advance x (cyclesOf x n)) d)
    (ho : ∀ x k, othersKept x (advance (w x) k) k [d]) : writesWhen i n l reads waits d P v :=
  writesLate_of_body w he (fun s h => by simp [hb s h]) hr hd hn ho

/-- The case of a fixed-latency data result under a condition. -/
theorem writesWhen_late {i : Instr} {n : Nat} {reads : List (BitVec 5)} {waits : Bool} {d : BitVec 5} {v : Ctx → W64} {body : M Unit}
    {P : Ctx → Prop} (l : Nat) (he : ∀ s, exec i s = issue i n reads [d] waits body s)
    (hb : ∀ s, P (curCtx s) → body s = .ok () (onCur s fun x => setLate x d l (v x))) :
    writesWhen i n l reads waits d P fun x => dataReg (v x) :=
  writesWhen_of_body (fun x => setLate x d l (v x)) he hb (fun x => regsOnly_setLate x d l (v x))
    (fun x k _ => settled_advance_setLate x d l k (v x)) (fun x _ => readReg_advance_setLate x d l n (v x))
    fun x k => othersKept_setLate x d l k (v x)

/-- The case of a result that is there at once, under a condition. -/
theorem writesWhen_now {i : Instr} {n l : Nat} {reads : List (BitVec 5)} {waits : Bool} {d : BitVec 5} {v : Ctx → Reg} {body : M Unit}
    {P : Ctx → Prop} (h : l ≤ n) (he : ∀ s, exec i s = issue i n reads [d] waits body s)
    (hb : ∀ s, P (curCtx s) → body s = .ok () (onCur s fun x => setReg x d (v x))) : writesWhen i n l reads waits d P v :=
  writesWhen_of_body (fun x => setReg x d (v x)) he hb (fun x => regsOnly_setReg x d (v x))
    (fun x k _ => settled_advance_setReg x d k (v x)) (fun x _ => by rw [readReg_advance_setReg, if_pos h])
    fun x k => othersKept_setReg x d k (v x)

/-- The case of a fixed-latency data result. -/
theorem writesOne_late {i : Instr} {n : Nat} {reads : List (BitVec 5)} {waits : Bool} {d : BitVec 5} {v : Ctx → W64} {body : M Unit}
    (l : Nat) (he : ∀ s, exec i s = issue i n reads [d] waits body s)
    (hb : ∀ s, body s = .ok () (onCur s fun x => setLate x d l (v x))) : writesOne i n l reads waits d fun x => dataReg (v x) :=
  writesWhen_late l he fun s _ => hb s

/-- The case of a result that is there at once. -/
theorem writesOne_now {i : Instr} {n l : Nat} {reads : List (BitVec 5)} {waits : Bool} {d : BitVec 5} {v : Ctx → Reg} {body : M Unit}
    (h : l ≤ n) (he : ∀ s, exec i s = issue i n reads [d] waits body s)
    (hb : ∀ s, body s = .ok () (onCur s fun x => setReg x d (v x))) : writesOne i n l reads waits d v :=
  writesWhen_now h he fun s _ => hb s

/-! ### The shared operand forms -/

theorem writesOne_alu2 {i : Instr} {l : Nat} {d a b : BitVec 5} {y : BitVec 3} {f : W64 → W64 → W64}
    (he : ∀ s, exec i s = alu2 i l d a b y f s) :
    writesOne i (cyc y) l [a, b] false d fun x => dataReg (f (regData (readReg x a)) (regData (readReg x b))) :=
  writesOne_late l he fun s => by simp; rfl

theorem writesOne_alu2Wait {i : Instr} {d a b : BitVec 5} {y : BitVec 3} {f : W64 → W64 → W64}
    (he : ∀ s, exec i s = alu2Wait i d a b y f s) :
    writesOne i (cyc y) 0 [a, b] false d fun x => dataReg (f (regData (readReg x a)) (regData (readReg x b))) :=
  writesOne_now (Nat.zero_le _) he fun s => by
    simp only [run_bind, run_rd, run_wr]
    rfl

theorem writesOne_alu1 {i : Instr} {d a : BitVec 5} {y : BitVec 3} {f : W64 → W64} (he : ∀ s, exec i s = alu1 i d a y f s) :
    writesOne i (cyc y) 1 [a] false d fun x => dataReg (f (regData (readReg x a))) :=
  writesOne_late 1 he fun s => by simp; rfl

end Sys2Proof.Machine
end

