-- ==== Sys2Proof/Laws/Arith.lean ====
section
/-! SUPPORT. The integer results in the terms of the rules: exact values of both operands (R325, R330, R355, R361, R366, R371, R375, R379,
R381, R382). -/

namespace Sys2Proof.Machine

theorem writesOne_congr {i : Instr} {n l : Nat} {r : List (BitVec 5)} {w : Bool} {d : BitVec 5} {u v : Ctx → Reg} (h : ∀ x, u x = v x)
    (k : writesOne i n l r w d u) : writesOne i n l r w d v := by
  have e : u = v := funext h
  exact e ▸ k

theorem mul_exact (p q : W64) : p * q = BitVec.ofNat 64 (p.toNat * q.toNat) := by
  apply BitVec.eq_of_toNat_eq; simp

theorem min_exact (p q : W64) : (if q.slt p then q else p) = if p.toInt < q.toInt then p else q := by
  simp only [BitVec.slt, decide_eq_true_eq]
  by_cases h1 : q.toInt < p.toInt <;> by_cases h2 : p.toInt < q.toInt <;> simp only [h1, h2, if_true, if_false]
  · omega
  · exact BitVec.eq_of_toInt_eq (by omega)

theorem minUi64_exact (p q : W64) : (if q.ult p then q else p) = if p.toNat < q.toNat then p else q := by
  simp only [BitVec.ult, decide_eq_true_eq]
  by_cases h1 : q.toNat < p.toNat <;> by_cases h2 : p.toNat < q.toNat <;> simp only [h1, h2, if_true, if_false]
  · omega
  · exact BitVec.eq_of_toNat_eq (by omega)

theorem max_exact (p q : W64) : (if p.slt q then q else p) = if q.toInt < p.toInt then p else q := by
  simp only [BitVec.slt, decide_eq_true_eq]
  by_cases h1 : q.toInt < p.toInt <;> by_cases h2 : p.toInt < q.toInt <;> simp only [h1, h2, if_true, if_false]
  · omega
  · exact BitVec.eq_of_toInt_eq (by omega)

theorem maxUi64_exact (p q : W64) : (if p.ult q then q else p) = if q.toNat < p.toNat then p else q := by
  simp only [BitVec.ult, decide_eq_true_eq]
  by_cases h1 : q.toNat < p.toNat <;> by_cases h2 : p.toNat < q.toNat <;> simp only [h1, h2, if_true, if_false]
  · omega
  · exact BitVec.eq_of_toNat_eq (by omega)

theorem div_exact (p q : W64) : toW (divQ p.toInt q.toInt true) = if q = 0 then BitVec.allOnes 64
      else if p.toInt = -2 ^ 63 ∧ q.toInt = -1 then BitVec.ofInt 64 (-2 ^ 63)
      else BitVec.ofInt 64 (p.toInt.tdiv q.toInt) := by
  by_cases hb : q = 0
  · subst hb; rfl
  · have : q.toInt ≠ 0 := fun h => hb (BitVec.eq_of_toInt_eq (by simpa using h))
    simp only [divQ, toW, this, hb, if_false]
    simp only [Bool.true_and, Bool.and_eq_true, beq_iff_eq]
    split <;> rfl

theorem divUi64_exact (p q : W64) : toW (divQ p.toNat q.toNat false) = if q = 0 then BitVec.allOnes 64 else BitVec.ofNat 64 (p.toNat / q.toNat) := by
  by_cases hb : q = 0
  · subst hb; rfl
  · have : (q.toNat : Int) ≠ 0 := fun h => hb (BitVec.eq_of_toNat_eq (by simpa using h))
    simp only [divQ, toW, this, hb, if_false, Bool.false_and, Bool.false_eq_true]
    rw [Int.tdiv_eq_ediv_of_nonneg (by omega)]
    rw [← Int.natCast_ediv, BitVec.ofInt_natCast]

theorem rem_exact (p q : W64) : toW (remR p.toInt q.toInt true) = if q = 0 then p
      else if p.toInt = -2 ^ 63 ∧ q.toInt = -1 then 0
      else BitVec.ofInt 64 (p.toInt - q.toInt * p.toInt.tdiv q.toInt) := by
  by_cases hb : q = 0
  · subst hb; simp [remR, toW]
  · have : q.toInt ≠ 0 := fun h => hb (BitVec.eq_of_toInt_eq (by simpa using h))
    simp only [remR, toW, this, hb, if_false]
    simp only [Bool.true_and, Bool.and_eq_true, beq_iff_eq]
    split <;> rfl

theorem remUi64_exact (p q : W64) : toW (remR p.toNat q.toNat false) = if q = 0 then p else BitVec.ofNat 64 (p.toNat % q.toNat) := by
  by_cases hb : q = 0
  · subst hb; simp [remR, toW]
  · have : (q.toNat : Int) ≠ 0 := fun h => hb (BitVec.eq_of_toNat_eq (by simpa using h))
    simp only [remR, toW, this, hb, if_false, Bool.false_and, Bool.false_eq_true]
    rw [Int.tdiv_eq_ediv_of_nonneg (by omega), ← BitVec.ofInt_natCast]
    congr 1
    rw [Int.natCast_emod]
    have := Int.emod_add_mul_ediv p.toNat q.toNat
    omega

theorem popFrom_eq (v n : Nat) : popFrom v n = (List.range n).countP fun k => v.testBit k := by
  induction n generalizing v with
  | zero => rfl
  | succ n ih =>
    rw [popFrom, ih, List.range_succ_eq_map, List.countP_cons, List.countP_map]
    simp only [Function.comp_def, Nat.testBit_succ, Nat.testBit_zero]
    have := Nat.mod_two_eq_zero_or_one v
    split <;> simp_all <;> omega

theorem seti_exact (p : W64) (i : BitVec 10) : (if p.slt (imm10 i) then 1 else 0 : W64) = if p.toInt < i.toInt then 1 else 0 := by
  have h : (imm10 i).toInt = i.toInt := by rw [imm10, BitVec.toInt_signExtend_of_le (by omega)]
  simp only [BitVec.slt, h, decide_eq_true_eq]

theorem movh_exact (p : W64) (k : BitVec 15) : (p <<< 15) ||| k.setWidth 64 = BitVec.ofNat 64 (p.toNat % 2 ^ 49 * 2 ^ 15 + k.toNat) := by
  apply BitVec.eq_of_toNat_eq
  have hk := k.isLt
  rw [BitVec.toNat_or, BitVec.toNat_shiftLeft, BitVec.toNat_setWidth, BitVec.toNat_ofNat, Nat.shiftLeft_eq]
  rw [Nat.mod_eq_of_lt (a := k.toNat) (by omega), Nat.mod_eq_of_lt (a := _ + k.toNat) (by omega)]
  rw [show p.toNat * 2 ^ 15 % 2 ^ 64 = p.toNat % 2 ^ 49 * 2 ^ 15 by omega]
  rw [Nat.mul_comm, ← Nat.two_pow_add_eq_or_of_lt hk]

theorem selTest_iff (fn : BitVec 5) (h : fn.toNat ≤ 2) (v : W64) : selTest fn v = true ↔ ((fn = 0 ∧ v ≠ 0) ∨ (fn = 1 ∧ v.toInt < 0) ∨ (fn = 2 ∧ v.toNat % 2 = 1)) := by
  have : fn = 0 ∨ fn = 1 ∨ fn = 2 := by
    have := fn.isLt
    rcases (by omega : fn.toNat = 0 ∨ fn.toNat = 1 ∨ fn.toNat = 2) with h | h | h
    · exact .inl (BitVec.eq_of_toNat_eq h)
    · exact .inr (.inl (BitVec.eq_of_toNat_eq h))
    · exact .inr (.inr (BitVec.eq_of_toNat_eq h))
  rcases this with rfl | rfl | rfl
  · simp [selTest]
  · simp [selTest, BitVec.msb_eq_toInt]
  · simp [selTest, bitAt]

theorem setTest_iff (fn : BitVec 5) (h : fn.toNat ≤ 5) (p q : W64) : setTest fn p q = true ↔ ((fn = 0 ∧ p = q) ∨ (fn = 1 ∧ p ≠ q) ∨
    (fn = 2 ∧ p.toInt < q.toInt) ∨ (fn = 3 ∧ q.toInt ≤ p.toInt) ∨ (fn = 4 ∧ p.toNat < q.toNat) ∨ (fn = 5 ∧ q.toNat ≤ p.toNat)) := by
  have : fn = 0 ∨ fn = 1 ∨ fn = 2 ∨ fn = 3 ∨ fn = 4 ∨ fn = 5 := by
    rcases (by omega : fn.toNat = 0 ∨ fn.toNat = 1 ∨ fn.toNat = 2 ∨ fn.toNat = 3 ∨ fn.toNat = 4 ∨ fn.toNat = 5) with h | h | h | h | h | h
    · exact .inl (BitVec.eq_of_toNat_eq h)
    · exact .inr (.inl (BitVec.eq_of_toNat_eq h))
    · exact .inr (.inr (.inl (BitVec.eq_of_toNat_eq h)))
    · exact .inr (.inr (.inr (.inl (BitVec.eq_of_toNat_eq h))))
    · exact .inr (.inr (.inr (.inr (.inl (BitVec.eq_of_toNat_eq h)))))
    · exact .inr (.inr (.inr (.inr (.inr (BitVec.eq_of_toNat_eq h)))))
  rcases this with rfl | rfl | rfl | rfl | rfl | rfl <;> simp [setTest, BitVec.slt, BitVec.ult]

end Sys2Proof.Machine
end

