-- ==== Sys2Proof/Laws/Reads.lean ====
section
/-! SUPPORT. Reads of own cell memory, which change nothing, and the canonical form of the memories at reset. -/

namespace Sys2Proof.Machine

/-- The memories at power-on are in canonical form. -/
theorem reset_memWf : State.reset.memWf := by
  refine ⟨rfl, rfl, ?_, ?_⟩ <;> intro _ h <;> cases h

variable {s : State} {f : Ctx → Ctx}

@[simp] theorem viewCore_onCur (s : State) (f : Ctx → Ctx) (c : Nat) : viewCore (onCur s f) c = viewCore s c := by
  unfold viewCore
  by_cases h : c = s.cur.core
  · subst h
    rw [show getCore (onCur s f) s.cur.core = _ from getCore_onCtx_same s s.cur f]
  · rw [show getCore (onCur s f) c = _ from getCore_onCtx_other s s.cur f c h]

@[simp] theorem spaceOf_onCur (s : State) (f : Ctx → Ctx) (c : Nat) (a : W64) : spaceOf (onCur s f) c a = spaceOf s c a := by
  unfold spaceOf ownNumber
  rw [viewCore_onCur]
  rfl

@[simp] theorem checkCap_onCur (s : State) (f : Ctx → Ctx) (c : Nat) (cap : Reg) (r : Nat) (a : W64) (n : Nat) (k : Access) :
    checkCap (onCur s f) c cap r a n k = checkCap s c cap r a n k := by
  unfold checkCap checkWord checkSpace
  rw [spaceOf_onCur]
  rfl

/-- A change of the executing context that keeps its use and its task keeps what it has stored. -/
theorem ownStores_onCur (he : (f (curCtx s)).epoch = (curCtx s).epoch) (ht : (f (curCtx s)).task = (curCtx s).task) :
    ownStores (onCur s f) = ownStores s := by
  have h1 : senderOf (onCur s f) (onCur s f).cur = senderOf s s.cur := by
    simp only [senderOf]
    rw [show getCtx (onCur s f) (onCur s f).cur = f (curCtx s) from curCtx_onCur s f]
    rw [he]
    rfl
  have h2 : ownHeld (onCur s f) = ownHeld s := by simp only [ownHeld, curCore_onCur, curCtx_onCur, ht]
  simp only [ownStores, h1, h2, curCore_onCur]
  rfl

/-- A context with no store of its own outstanding has no release outstanding. -/
theorem releasePending_own (ho : ownStores s = []) : releasePending s = false := by
  unfold ownStores at ho
  simp only [List.append_eq_nil_iff, List.map_eq_nil_iff, List.filter_eq_nil_iff, decide_eq_true_eq] at ho
  unfold releasePending
  simp only [List.any_eq_false, List.mem_range]
  intro j hj
  rw [List.getElem?_eq_getElem hj]
  simp [ho.1.1 _ (List.getElem_mem hj)]

/-- A context with no store of its own outstanding has no release beyond its die outstanding. -/
theorem wideReleases_own (ht : (curCore s).twin = none) (ho : ownStores s = []) : wideReleases s = [] := by
  unfold ownStores at ho
  simp only [List.append_eq_nil_iff, List.map_eq_nil_iff] at ho
  simp [wideReleases, ht, ho.1.1]

/-- With no store of its own outstanding a load of a context waits for no release. -/
theorem afterRelease_own (ht : (curCore s).twin = none) (ho : ownStores s = []) : afterRelease s = .ok ⟨⟩ s := by
  simp [afterRelease, ht, releasePending_own ho, releaseNow, wideReleases_own ht ho]

/-- The access of a context to its own cell memory is allowed where its checks pass. -/
theorem access_own {c : Reg} {r n o : Nat} {a : W64} {k : Access} (ht : (curCore s).twin = none) (hc : s.cur.core < 1024)
    (hk : checkCap s s.cur.core c r a n k = .ok (.cell (coreNum s s.cur.core) o)) : access c r a n k s = .ok (.cell (coreNum s s.cur.core) o, true) s := by
  have hl : localCore s (coreNum s s.cur.core) = some s.cur.core := by
    have h1 : (s.device * 1024 + s.cur.core) / 1024 = s.device := by omega
    have h2 : (s.device * 1024 + s.cur.core) % 1024 = s.cur.core := by omega
    simp [localCore, coreNum, h1, h2]
  have hu : undoLog s (coreNum s s.cur.core) o n = false := by
    simp only [undoLog, hl]
    rw [show getCore s s.cur.core = curCore s from rfl, ht]
    rfl
  simp [access, hk, hu]

/-- A load from own cell memory, by a context with no store of its own outstanding, reads the bytes and changes nothing. -/
theorem loadShared_own {n o : Nat} (ht : (curCore s).twin = none) (hc : s.cur.core < 1024) (hs : isSpec (curCtx s) = false) (ho : ownStores s = []) :
    loadShared (.cell (coreNum s s.cur.core) o) n false s = .ok (memReads (curCore s).cell o n) s := by
  have hl : localCore s (coreNum s s.cur.core) = some s.cur.core := by
    have h1 : (s.device * 1024 + s.cur.core) / 1024 = s.device := by omega
    have h2 : (s.device * 1024 + s.cur.core) % 1024 = s.cur.core := by omega
    simp [localCore, coreNum, h1, h2]
  have hf : forwards (.cell (coreNum s s.cur.core) o) n [] [] s = .ok [] s := rfl
  have hb : (overlay (memReads (curCore s).cell o n) []) = memReads (curCore s).cell o n := by
    simp only [overlay, mapGet]
    apply List.ext_getElem <;> simp [List.getD_eq_getElem?_getD]
    intro i hi
    rw [List.getElem?_eq_getElem (by simpa using hi)]
    first
      | exact fun _ => rfl
      | rfl
  simp only [loadShared, loadPlace, run_bind, run_get, afterRelease_own ht ho, ho, hf, recordReads, run_me, hs, hl, run_pure]
  simpa [curCore] using hb

/-- An element of own cell memory whose checks pass, alone in its group. -/
theorem readGroup_own {q : MapReg} {r : Nat} {a : W64} {o : Nat} (hp : isPacked (mapFmt q) = false) (ht : (curCore s).twin = none) (hc : s.cur.core < 1024)
    (hs : isSpec (curCtx s) = false) (ho : ownStores s = [])
    (hk : checkCap s s.cur.core (mapBase q) r a (typeBits (mapFmt q) / 8) accLoad = .ok (.cell (coreNum s s.cur.core) o)) :
    checkElem q r accLoad (elemAccesses (mapFmt q) (a, 0, typeBits (mapFmt q) / 8)) s = .ok [(a, .cell (coreNum s s.cur.core) o)] s ∧
    readPlaces (typeBits (mapFmt q) / 8) false [(a, .cell (coreNum s s.cur.core) o)] s = .ok (memReads (curCore s).cell o (typeBits (mapFmt q) / 8)) s ∧
    readGroup q r [(a, 0, typeBits (mapFmt q) / 8)] s =
      .ok [ofBytes (memReads (curCore s).cell o (typeBits (mapFmt q) / 8)) % 2 ^ typeBits (mapFmt q)] s := by
  generalize hn : typeBits (mapFmt q) / 8 = n at hk ⊢
  have ha := access_own ht hc hk
  have hr := loadShared_own (n := n) (o := o) ht hc hs ho
  have h0 : (18446744073709551616 - a.toNat + a.toNat) % 18446744073709551616 = 0 := by
    have := a.isLt
    omega
  have hz : placePlus (.cell (coreNum s s.cur.core) o) 0 = .cell (coreNum s s.cur.core) o := rfl
  refine ⟨by simp [elemAccesses, hp, checkElem, ha], by simp [readPlaces, hr], ?_⟩
  simp [readGroup, elemAccesses, hp, checkElem, ha, hn, readSpan, onePage, h0, hz, hr, List.eraseDups, List.eraseDupsBy, List.eraseDupsBy.loop]

end Sys2Proof.Machine
end

