-- ==== Sys2Proof/Laws/Saves.lean ====
section
/-! SUPPORT. What a save does core by core and wing by wing, and when it comes about (R249, R250). -/

namespace Sys2Proof.Machine

@[simp] theorem saveCores_nil (s : State) (l : Launch) (mark : Nat) : saveCores s l mark [] = some ([], s) := rfl

theorem saveCores_cons (s : State) (l : Launch) (mark c : Nat) (r : List Nat) :
    saveCores s l mark (c :: r) = (saveCore s l mark c).bind fun p : SavedCore × State => (saveCores p.2 l mark r).map fun q => (p.1 :: q.1, q.2) := by
  rw [saveCores]
  cases saveCore s l mark c <;> rfl

@[simp] theorem saveWings_nil (s : State) (l : Launch) : saveWings s l [] = some ([], s) := rfl

theorem saveWings_cons (s : State) (l : Launch) (c : Nat) (r : List Nat) :
    saveWings s l (c :: r) = (saveWing s l c).bind fun p => (saveWings p.2 l r).map fun q => (p.1 :: q.1, q.2) := by
  rw [saveWings]
  cases saveWing s l c <;> rfl

/-- What a saved wing leaves: the image in the area, and nothing else. -/
theorem saveWing_eq (s : State) (l : Launch) (c : Nat) :
    saveWing s l c = match areaWrites l.queue c (areaOf l.desc (coreNum s c)) (wingRecord (getWing s (memWing s c))) s with
      | .error _ _ => none
      | .ok _ z => some ((coreNum s c, getWing s (memWing s c)), z) := by
  unfold saveWing <;> dsimp only <;> cases areaWrites l.queue c (areaOf l.desc (coreNum s c)) (wingRecord (getWing s (memWing s c))) s <;> rfl

/-- A core is saved when every part of its area can be written. -/
theorem saveCore_some {s : State} {l : Launch} {mark c : Nat} (h : ∀ base parts, ∃ z, areaWrites l.queue c base parts s = .ok () z) :
    ∃ p, saveCore s l mark c = some p := by
  unfold saveCore
  dsimp only
  split
  · rename_i e
    split at e
    · obtain ⟨z, hz⟩ := h _ _
      rw [hz] at e
      cases e
    · cases e
  · exact ⟨_, rfl⟩

/-- So is a wing. -/
theorem saveWings_some {s : State} {l : Launch} {c : Nat} (h : ∀ base parts, ∃ z, areaWrites l.queue c base parts s = .ok () z) :
    ∃ p, saveWings s l [c] = some p := by
  obtain ⟨z, hz⟩ := h (areaOf l.desc (coreNum s c)) (wingRecord (getWing s (memWing s c)))
  rw [saveWings_cons, saveWing_eq, hz]
  exact ⟨_, rfl⟩

end Sys2Proof.Machine
end

