-- ==== Sys2Proof/Tests/Slice0.lean ====
section
/-! SUPPORT. Tests: words of the spec's encodings, ill-formed terms, single steps, and for each statement a state that meets its hypotheses. -/

set_option Elab.async false

section
open Sys2Proof Sys2Proof.Machine

theorem test_decode_integer_0 :
    decodeTableWord 32 0x01CC5003 = some (.add 5 6 7 0) ∧
    decodeTableWord 32 0x09CC5003 = some (.sub 5 6 7 0) ∧
    decodeTableWord 32 0x11CC5003 = some (.mul 5 6 7 0) ∧
    decodeTableWord 32 0x19CC5003 = some (.mulh 5 6 7 0) ∧
    decodeTableWord 32 0x21CC5003 = some (.mulhUi64 5 6 7 0) ∧
    decodeTableWord 32 0x29CC5003 = some (.div 5 6 7 0) ∧
    decodeTableWord 32 0x31CC5003 = some (.divUi64 5 6 7 0) ∧
    decodeTableWord 32 0x39CC5003 = some (.rem 5 6 7 0) ∧
    decodeTableWord 32 0x41CC5003 = some (.remUi64 5 6 7 0) ∧
    decodeTableWord 32 0x49CC5003 = some (.and 5 6 7 0) := by decide

theorem test_decode_integer_1 :
    decodeTableWord 32 0x51CC5003 = some (.or 5 6 7 0) ∧
    decodeTableWord 32 0x59CC5003 = some (.xor 5 6 7 0) ∧
    decodeTableWord 32 0x61CC5003 = some (.shl 5 6 7 0) ∧
    decodeTableWord 32 0x69CC5003 = some (.shr 5 6 7 0) ∧
    decodeTableWord 32 0x71CC5003 = some (.sar 5 6 7 0) ∧
    decodeTableWord 32 0x79CC5003 = some (.min 5 6 7 0) ∧
    decodeTableWord 32 0x81CC5003 = some (.minUi64 5 6 7 0) ∧
    decodeTableWord 32 0x89CC5003 = some (.max 5 6 7 0) ∧
    decodeTableWord 32 0x91CC5003 = some (.maxUi64 5 6 7 0) ∧
    decodeTableWord 32 0x08829003 = some (.sub 9 1 2 0) := by decide

theorem test_decode_integer_2 :
    decodeTableWord 32 0x980C5003 = some (.clz 5 6 0) ∧
    decodeTableWord 32 0xA00C5003 = some (.popc 5 6 0) ∧
    decodeTableWord 32 0xA80CD003 = some (.mov 13 6 0) := by decide

theorem test_decode_immediate_0 :
    decodeTableWord 16 0x19AC = some (.mov16 13 6) ∧
    decodeTableWord 32 0x0052B023 = some (.addi 11 9 1 0) ∧
    decodeTableWord 16 0xFD70 = some (.addi16 11 63) ∧
    decodeTableWord 32 0x3FF5B043 = some (.andi 27 26 255 0) ∧
    decodeTableWord 32 0x028C5063 = some (.seti 5 6 10 0) ∧
    decodeTableWord 32 0x00090083 = some (.movi 16 4 0) ∧
    decodeTableWord 32 0x010100A3 = some (.movh 16 128 0) ∧
    decodeTableWord 32 0x09CC50C3 = some (.sel 5 6 7 1 0) ∧
    decodeTableWord 32 0x11CC50E3 = some (.set 5 6 7 2 0) ∧
    decodeTableWord 32 0x09CC5103 = some (.bfx 5 6 7 1 0) := by decide

theorem test_decode_immediate_1 :
    decodeTableWord 32 0x01CC5123 = some (.bfi 5 6 7 0) := by decide

theorem test_decode_capability_0 :
    decodeTableWord 32 0x02909143 = some (.cbnd 9 8 10 0) ∧
    decodeTableWord 32 0x02909163 = some (.cprm 9 8 10 0) ∧
    decodeTableWord 32 0x02909183 = some (.cinc 9 8 10 0) ∧
    decodeTableWord 32 0x020081A3 = some (.cget 8 0 8 0) ∧
    decodeTableWord 32 0x001091C3 = some (.cclr 9 8 0) := by decide

theorem test_decode_control_0 :
    decodeTableWord 32 0x00064203 = some (.br 100 0) ∧
    decodeTableWord 16 0xFFE1 = some (.br16 2047) ∧
    decodeTableWord 32 0xFCFEC223 = some (.brb 12 63 1 252 0) ∧
    decodeTableWord 32 0x0600B243 = some (.brc 11 0 0 6 0) ∧
    decodeTableWord 32 0x0029F263 = some (.jr 31 20 0) ∧
    decodeTableWord 32 0x00040283 = some (.call 64 0) ∧
    decodeTableWord 32 0x151492A3 = some (.callat 9 10 20 2 0) ∧
    decodeTableWord 32 0x000002DF = some (.nop 7) ∧
    decodeTableWord 16 0x0014 = some (.nop16) ∧
    decodeTableWord 32 0x080002C3 = some (.done 0) := by decide

theorem test_decode_control_1 :
    decodeTableWord 16 0x0034 = some (.done16) ∧
    decodeTableWord 32 0x100002C3 = some (.ret 0) ∧
    decodeTableWord 16 0x0054 = some (.ret16) ∧
    decodeTableWord 32 0x180002C3 = some (.brk 0) ∧
    decodeTableWord 16 0x0074 = some (.brk16) ∧
    decodeTableWord 32 0x200002C3 = some (.eret 0) ∧
    decodeTableWord 32 0x280092C3 = some (.idle 9 0 0) ∧
    decodeTableWord 32 0x300092C3 = some (.tsget 9 0) ∧
    decodeTableWord 32 0x380092C3 = some (.tshor 9 0) ∧
    decodeTableWord 32 0x400002C3 = some (.bpsync 0) := by decide

theorem test_decode_control_2 :
    decodeTableWord 32 0x480002C3 = some (.lret 0) ∧
    decodeTableWord 16 0xFDA4 = some (.guardT 13 63) ∧
    decodeTableWord 16 0x0CA8 = some (.guardF 5 3) := by decide

theorem test_decode_helper_0 :
    decodeTableWord 32 0x032892E3 = some (.start 9 20 12 0) ∧
    decodeTableWord 32 0x00149303 = some (.hjoin 9 10 0) ∧
    decodeTableWord 32 0x01811323 = some (.msg 17 0 6 0) ∧
    decodeTableWord 32 0x11289343 = some (.msgt 9 20 68 0) ∧
    decodeTableWord 32 0x00549363 = some (.evtick 9 10 1 0) ∧
    decodeTableWord 32 0x00C40383 = some (.binit 0 2 3 0) ∧
    decodeTableWord 32 0x000003A3 = some (.barr 0 0) ∧
    decodeTableWord 32 0x000003C3 = some (.bwait 0 0) := by decide

theorem test_decode_memory_0 :
    decodeTableWord 32 0x02B38403 = some (.ld 24 25 2 1 0) ∧
    decodeTableWord 32 0x04B27423 = some (.st 7 25 2 2 0) ∧
    decodeTableWord 32 0x00FBE423 = some (.st 30 29 3 0 0) ∧
    decodeTableWord 32 0x0AD06443 = some (.ldg 6 8 3 1 2 0 0) ∧
    decodeTableWord 32 0x0AD09463 = some (.stg 9 8 3 1 2 0 0) ∧
    decodeTableWord 32 0x00041483 = some (.ldv 1 2 0) ∧
    decodeTableWord 32 0x02038483 = some (.ldvImg 24 1 0) ∧
    decodeTableWord 32 0x64043483 = some (.ldvStream 3 2 12 0) ∧
    decodeTableWord 32 0x000414A3 = some (.stv 1 2 0) ∧
    decodeTableWord 32 0x020384A3 = some (.stvImg 24 1 0) := by decide

theorem test_decode_memory_1 :
    decodeTableWord 32 0x8A9094C3 = some (.amo 9 8 10 1 1 0) ∧
    decodeTableWord 32 0x829094E3 = some (.cas 9 8 10 1 0) ∧
    decodeTableWord 32 0x8A909503 = some (.gamo 9 8 10 1 2 0) ∧
    decodeTableWord 32 0xE2909523 = some (.gcas 9 8 10 1 3 0) ∧
    decodeTableWord 32 0x02902543 = some (.red 2 8 10 0 0) ∧
    decodeTableWord 32 0x02904543 = some (.red 4 8 10 0 0) ∧
    decodeTableWord 32 0x08000563 = some (.fence 1 0) := by decide

theorem test_decode_copy_0 :
    decodeTableWord 32 0x0A928583 = some (.send 8 9 10 1 0) ∧
    decodeTableWord 32 0x129095A3 = some (.sends 9 8 10 2 0) ∧
    decodeTableWord 32 0x02D095C3 = some (.spread 9 8 11 0 0) ∧
    decodeTableWord 32 0x1A9095E3 = some (.xget 9 8 10 3 0) ∧
    decodeTableWord 32 0x22909603 = some (.xput 9 8 10 4 0) ∧
    decodeTableWord 32 0x000FF623 = some (.waitk 31 7 0) := by decide

theorem test_decode_port_0 :
    decodeTableWord 32 0x00161643 = some (.pushe 1 11 0) ∧
    decodeTableWord 32 0x0003B663 = some (.pope 27 1 0) ∧
    decodeTableWord 32 0x0A921683 = some (.blease 1 9 10 1 0) ∧
    decodeTableWord 32 0x000016A3 = some (.bfree 1 0) ∧
    decodeTableWord 32 0x1A9016C3 = some (.sbind 1 8 10 3 0) ∧
    decodeTableWord 32 0x000016E3 = some (.sfree 1 0) := by decide

theorem test_decode_float_0 :
    decodeTableWord 32 0x61FBD703 = some (.fadd 29 29 7 12 0) ∧
    decodeTableWord 32 0x69CC5723 = some (.fmul 5 6 7 13 0) ∧
    decodeTableWord 32 0x61CC5743 = some (.ffma 5 6 7 12 0) ∧
    decodeTableWord 32 0x828C5763 = some (.fcvt 5 6 2 1 16 0) ∧
    decodeTableWord 32 0x618C5763 = some (.fcvt 5 6 6 0 12 0) ∧
    decodeTableWord 32 0x61CC5783 = some (.fset 5 6 7 12 0) := by decide

theorem test_decode_vector_0 :
    decodeTableWord 32 0x601E3803 = some (.vshape 3 15 0 12 0) ∧
    decodeTableWord 32 0x60823823 = some (.vadd 3 0 1 0 2 0 12 0) ∧
    decodeTableWord 32 0x84C41823 = some (.vadd 1 0 2 0 3 1 16 0) ∧
    decodeTableWord 32 0x60823843 = some (.vsub 3 0 1 0 2 0 12 0) ∧
    decodeTableWord 32 0x60C24863 = some (.vmul 4 0 1 0 3 0 12 0) ∧
    decodeTableWord 32 0x60834883 = some (.vfma 4 1 1 0 2 0 12 0) ∧
    decodeTableWord 32 0x71CC68A3 = some (.vmin 6 6 7 14 0) ∧
    decodeTableWord 32 0x63C638C3 = some (.vmax 3 3 15 12 0) ∧
    decodeTableWord 32 0x600A28E3 = some (.vabs 2 5 0 12 0) ∧
    decodeTableWord 32 0x600A2903 = some (.vsqrt 2 0 5 0 12 0) := by decide

theorem test_decode_vector_1 :
    decodeTableWord 32 0x60087923 = some (.vrsq 7 0 4 0 12 0) ∧
    decodeTableWord 32 0x48024943 = some (.vexp2 4 0 1 0 9 0) ∧
    decodeTableWord 32 0x68043963 = some (.vrcp 3 0 2 0 13 0) ∧
    decodeTableWord 32 0x62822983 = some (.vcvt 2 0 1 0 10 12 0) ∧
    decodeTableWord 32 0x3B095983 = some (.vcvt 5 1 4 0 12 7 0) ∧
    decodeTableWord 32 0x18C229A3 = some (.vqnt 2 0 1 0 3 0 3 0) ∧
    decodeTableWord 32 0x18C449C3 = some (.vdq 4 0 2 0 3 0 3 0) ∧
    decodeTableWord 32 0x808239E3 = some (.vand 3 1 2 16 0) ∧
    decodeTableWord 32 0x88823A03 = some (.vor 3 1 2 17 0) ∧
    decodeTableWord 32 0x90823A23 = some (.vxor 3 1 2 18 0) := by decide

theorem test_decode_vector_2 :
    decodeTableWord 32 0x70823A43 = some (.vshl 3 1 2 0 14 0) ∧
    decodeTableWord 32 0x78823A63 = some (.vshr 3 1 2 15 0) ∧
    decodeTableWord 32 0x60823A83 = some (.vsel 3 1 2 12 0) ∧
    decodeTableWord 32 0x60A64AA3 = some (.vcmp 4 0 3 1 2 0 12 0) ∧
    decodeTableWord 32 0x60022AC3 = some (.vred 2 0 1 0 0 0 12 0) ∧
    decodeTableWord 32 0x64822AC3 = some (.vred 2 0 1 0 2 2 12 0) ∧
    decodeTableWord 32 0x60286AE3 = some (.vbcst 6 20 12 0) ∧
    decodeTableWord 32 0x80027B03 = some (.vmov 7 1 16 0) ∧
    decodeTableWord 32 0x61486B23 = some (.vscan 6 0 4 0 5 0 12 0) ∧
    decodeTableWord 32 0x60023B43 = some (.vtrn 3 1 12 0) := by decide

theorem test_decode_vector_3 :
    decodeTableWord 32 0x61043B63 = some (.vgath 3 2 4 12 0) := by decide

theorem test_decode_lift_0 :
    decodeTableWord 32 0x02920B83 = some (.lift 9 10 0) ∧
    decodeTableWord 32 0x80025BA3 = some (.lidx 5 1 16 0) ∧
    decodeTableWord 32 0x6008BBC3 = some (.lany 11 4 12 0) ∧
    decodeTableWord 32 0x6008CBE3 = some (.lall 12 4 12 0) := by decide

theorem test_decode_matrix_0 :
    decodeTableWord 32 0x00000C03 = some (.mlease 0) ∧
    decodeTableWord 32 0x00000C23 = some (.mrel 0) ∧
    decodeTableWord 32 0x00420C43 = some (.mma 0 1 2 0) ∧
    decodeTableWord 32 0xFA43AC63 = some (.mmas 2 3 1 2 125 0) ∧
    decodeTableWord 32 0x00000C83 = some (.mzero 0 0) ∧
    decodeTableWord 32 0x63C01CA3 = some (.mrda 1 0 15 12 0) ∧
    decodeTableWord 32 0x63C20CC3 = some (.mwra 0 1 15 12 0) ∧
    decodeTableWord 32 0x00240CE3 = some (.tfetch 0 2 1 0) ∧
    decodeTableWord 32 0x00003D03 = some (.tunpin 3 0) := by decide

theorem test_decode_array_0 :
    decodeTableWord 32 0x02034D23 = some (.bpld 20 1 1 0 0) ∧
    decodeTableWord 32 0x08034D23 = some (.bpld 20 1 0 1 0) ∧
    decodeTableWord 32 0x02034D43 = some (.bpst 20 1 1 0) ∧
    decodeTableWord 32 0x05AB4D63 = some (.bpadd 20 21 22 0 0) ∧
    decodeTableWord 32 0x0DAB4D63 = some (.bpadd 20 21 22 1 0) ∧
    decodeTableWord 32 0x05AB4D83 = some (.bpsub 20 21 22 0 0) ∧
    decodeTableWord 32 0x05AB4DA3 = some (.bpmul 20 21 22 0 0) ∧
    decodeTableWord 32 0x05AB4DC3 = some (.bpmacc 20 21 22 0) ∧
    decodeTableWord 32 0x15AB4DE3 = some (.bpand 20 21 22 2 0) ∧
    decodeTableWord 32 0x15ABAE03 = some (.bpcmp 26 21 22 2 0) := by decide

theorem test_decode_array_1 :
    decodeTableWord 32 0x05AB4E23 = some (.bpsel 20 21 22 0) ∧
    decodeTableWord 32 0x04017E43 = some (.bpset 23 16 0) ∧
    decodeTableWord 32 0x002B4E63 = some (.bpcopy 20 21 0 0) ∧
    decodeTableWord 32 0x00014E83 = some (.bpdecay 20 0) ∧
    decodeTableWord 32 0x25AB4EA3 = some (.bprow 20 21 22 4 0 0) ∧
    decodeTableWord 32 0xA5AB4EA3 = some (.bprow 20 21 22 4 1 0) ∧
    decodeTableWord 32 0x062F4EC3 = some (.trstep 20 23 24 0) := by decide

theorem test_decode_system_0 :
    decodeTableWord 32 0x02C09EE3 = some (.csrr 9 11 0) ∧
    decodeTableWord 32 0x05120F03 = some (.csrw 9 20 0) ∧
    decodeTableWord 32 0x01400F23 = some (.trap 5 0) ∧
    decodeTableWord 32 0xFFC00F23 = some (.trapSeal 0) ∧
    decodeTableWord 32 0x00000F43 = some (.tlbiAll 0) ∧
    decodeTableWord 32 0x08120F43 = some (.tlbiAs 9 0) ∧
    decodeTableWord 32 0x12920F43 = some (.tlbiVa 9 10 0) ∧
    decodeTableWord 32 0x00120F63 = some (.bind 9 0) ∧
    decodeTableWord 32 0x0012AF83 = some (.twin 10 9 0) ∧
    decodeTableWord 32 0x00000FA3 = some (.untwin 0) := by decide

/-! Ill-formed terms: the check refuses an operand value outside each entry's list, and takes the last one inside (R65). -/

theorem test_illformed_scalar :
    ¬(Instr.sel 1 2 3 3 0).WellFormed ∧ (Instr.sel 1 2 3 2 0).WellFormed ∧ ¬(Instr.set 1 2 3 6 0).WellFormed ∧ (Instr.set 1 2 3 5 0).WellFormed ∧
    ¬(Instr.cget 1 2 5 0).WellFormed ∧ ¬(Instr.cget 1 2 8 0).WellFormed ∧ (Instr.cget 1 0 12 0).WellFormed ∧ ¬(Instr.cget 1 0 13 0).WellFormed ∧
    ¬(Instr.callat 1 2 28 0 0).WellFormed ∧ (Instr.callat 1 2 27 0 0).WellFormed ∧ ¬(Instr.start 1 2 29 0).WellFormed ∧
    ¬(Instr.msg 1 29 0 0).WellFormed ∧ (Instr.msg 1 28 0 0).WellFormed ∧ ¬(Instr.msgt 1 28 0 0).WellFormed ∧
    ¬(Instr.fadd 1 2 3 11 0).WellFormed ∧ ¬(Instr.fmul 1 2 3 8 0).WellFormed ∧ ¬(Instr.ffma 1 2 3 14 0).WellFormed ∧ ¬(Instr.fset 1 2 3 11 0).WellFormed ∧
    ¬(Instr.fcvt 1 2 0 3 12 0).WellFormed ∧ ¬(Instr.fcvt 1 2 4 0 16 0).WellFormed ∧ ¬(Instr.fcvt 1 2 0 0 15 0).WellFormed ∧ (Instr.fcvt 1 2 3 2 19 0).WellFormed ∧
    ¬(Instr.csrr 1 0x1A 0).WellFormed ∧ ¬(Instr.csrr 1 0x30 0).WellFormed ∧ ¬(Instr.csrw 1 0x1F 0).WellFormed ∧ (Instr.csrw 1 0x2F 0).WellFormed ∧
    ¬(Instr.trap 1023 0).WellFormed ∧ (Instr.trap 1022 0).WellFormed := by decide

theorem test_illformed_memory :
    ¬(Instr.st 1 2 4 0 0).WellFormed ∧ ¬(Instr.st 1 2 6 0 0).WellFormed ∧ (Instr.st 1 2 7 0 0).WellFormed ∧ ¬(Instr.stg 1 2 5 0 0 0 0).WellFormed ∧
    ¬(Instr.ldvStream 1 2 20 0).WellFormed ∧ (Instr.ldvStream 1 2 19 0).WellFormed ∧ ¬(Instr.amo 1 2 3 9 0 0).WellFormed ∧ (Instr.amo 1 2 3 8 0 0).WellFormed ∧
    ¬(Instr.red 6 1 2 0 0).WellFormed ∧ ¬(Instr.red 0 1 2 6 0).WellFormed ∧ ¬(Instr.red 4 1 2 3 0).WellFormed ∧ (Instr.red 5 1 2 2 0).WellFormed ∧
    ¬(Instr.waitk 0 0 0).WellFormed ∧ (Instr.waitk 0 4 0).WellFormed ∧
    ¬(Instr.pushe 0 1 0).WellFormed ∧ ¬(Instr.pushe 9 1 0).WellFormed ∧ (Instr.pushe 15 1 0).WellFormed ∧ ¬(Instr.pope 1 14 0).WellFormed ∧
    ¬(Instr.blease 15 1 2 0 0).WellFormed ∧ ¬(Instr.bfree 9 0).WellFormed ∧ (Instr.bfree 8 0).WellFormed ∧
    ¬(Instr.sbind 8 1 2 0 0).WellFormed ∧ ¬(Instr.sbind 7 1 2 10 0).WellFormed ∧ (Instr.sbind 7 1 2 9 0).WellFormed ∧ ¬(Instr.sfree 8 0).WellFormed := by decide

theorem test_illformed_vector :
    ¬(Instr.vshape 0 31 1 20 0).WellFormed ∧ ¬(Instr.vshape 15 31 0 12 0).WellFormed ∧
    (Instr.vshape 3 31 0 12 0).WellFormed ∧ ¬(Instr.vadd 1 1 2 1 3 0 12 0).WellFormed ∧ ¬(Instr.vadd 1 0 2 0 3 1 12 0).WellFormed ∧
    ¬(Instr.vsub 1 1 2 0 3 0 16 0).WellFormed ∧ ¬(Instr.vmul 1 0 2 0 3 0 5 0).WellFormed ∧ ¬(Instr.vfma 1 0 2 0 3 0 20 0).WellFormed ∧
    ¬(Instr.vmin 1 2 3 4 0).WellFormed ∧ ¬(Instr.vmax 1 2 3 6 0).WellFormed ∧ ¬(Instr.vabs 1 2 1 12 0).WellFormed ∧ (Instr.vabs 1 2 1 16 0).WellFormed ∧
    ¬(Instr.vsqrt 1 0 2 0 16 0).WellFormed ∧ ¬(Instr.vrsq 1 1 2 1 12 0).WellFormed ∧ ¬(Instr.vexp2 1 0 2 0 8 0).WellFormed ∧ ¬(Instr.vrcp 1 0 2 0 14 0).WellFormed ∧
    ¬(Instr.vcvt 1 0 2 0 20 12 0).WellFormed ∧ ¬(Instr.vcvt 1 0 2 0 12 20 0).WellFormed ∧ ¬(Instr.vqnt 1 0 2 0 3 0 5 0).WellFormed ∧
    ¬(Instr.vdq 1 1 2 1 3 0 4 0).WellFormed ∧ (Instr.vdq 1 0 2 1 3 0 4 0).WellFormed := by decide

theorem test_illformed_vector_bits :
    ¬(Instr.vand 1 2 3 20 0).WellFormed ∧ ¬(Instr.vor 1 2 3 31 0).WellFormed ∧ ¬(Instr.vxor 1 2 3 20 0).WellFormed ∧ ¬(Instr.vshl 1 2 3 0 12 0).WellFormed ∧
    ¬(Instr.vshr 1 2 3 9 0).WellFormed ∧ ¬(Instr.vsel 1 2 3 20 0).WellFormed ∧ ¬(Instr.vcmp 1 0 2 1 3 1 12 0).WellFormed ∧ (Instr.vcmp 1 1 2 0 3 1 12 0).WellFormed ∧
    ¬(Instr.vred 1 0 2 0 3 0 12 0).WellFormed ∧ ¬(Instr.vred 1 0 2 0 0 3 16 0).WellFormed ∧ ¬(Instr.vred 1 1 2 0 1 0 12 0).WellFormed ∧
    (Instr.vred 1 0 2 0 5 2 16 0).WellFormed ∧ ¬(Instr.vbcst 1 2 20 0).WellFormed ∧ ¬(Instr.vmov 1 2 20 0).WellFormed ∧ ¬(Instr.vscan 1 0 2 0 3 1 12 0).WellFormed ∧
    ¬(Instr.vtrn 1 2 20 0).WellFormed ∧ ¬(Instr.vgath 1 2 3 6 0).WellFormed ∧ ¬(Instr.vgath 1 2 3 14 0).WellFormed ∧ ¬(Instr.lidx 1 0 12 0).WellFormed ∧
    ¬(Instr.lany 1 2 20 0).WellFormed ∧ ¬(Instr.lall 1 2 20 0).WellFormed := by decide

theorem test_illformed_arrays :
    ¬(Instr.mrda 1 2 3 6 0).WellFormed ∧ (Instr.mrda 1 2 3 7 0).WellFormed ∧ ¬(Instr.mwra 1 2 3 20 0).WellFormed ∧
    ¬(Instr.bpld 1 2 3 0 0).WellFormed ∧ ¬(Instr.bpld 1 2 0 3 0).WellFormed ∧ (Instr.bpld 1 2 2 2 0).WellFormed ∧ ¬(Instr.bpst 1 2 3 0).WellFormed ∧
    ¬(Instr.bpand 1 2 3 5 0).WellFormed ∧ ¬(Instr.bpcmp 1 2 3 6 0).WellFormed ∧ ¬(Instr.bprow 1 2 3 8 0 0).WellFormed := by decide

theorem test_illformed_events :
    ¬(Instr.launchComplete 1024).WellFormed ∧ ¬(Instr.deferredFaultEntry 0 11).WellFormed ∧ ¬(Instr.taskDispatch 1024).WellFormed ∧
    ¬(Instr.taskCommitBegin 1024).WellFormed ∧ ¬(Instr.storeBufferDrain 1024).WellFormed ∧ ¬(Instr.ownedWordTimeout 4 0).WellFormed ∧
    ¬(Instr.copyPieceStart 1024 0).WellFormed ∧ ¬(Instr.copyPieceArrival 1024 0 0).WellFormed ∧ ¬(Instr.copyPieceComplete 1024 0 0).WellFormed ∧
    ¬(Instr.streamDelivery 1024 0 0).WellFormed ∧ ¬(Instr.wingDispatchGrant 1088).WellFormed ∧ ¬(Instr.matrixLeaseGrant 1088).WellFormed ∧
    ¬(Instr.matrixLeaseCountEnd 1088).WellFormed ∧ ¬(Instr.matrixLeaseIdleTimeout 1088).WellFormed ∧ ¬(Instr.arrayOpComplete 1088 0).WellFormed ∧
    ¬(Instr.tfetchComplete 1024 0).WellFormed ∧ ¬(Instr.debugSingleStep 0 0 11).WellFormed ∧ ¬(Instr.twinIntervalEnd 1024).WellFormed ∧
    ¬(Instr.internalUeDetected 1024).WellFormed ∧ ¬(Instr.coreTableRemap 0 16 0).WellFormed ∧ (Instr.coreTableRemap 1023 15 16).WellFormed ∧
    ¬(Instr.clusterSuspect 64 0 0).WellFormed ∧ ¬(Instr.thermalMigration 0 0 17).WellFormed := by decide

theorem test_illformed_events_management :
    ¬(Instr.throttleStateLower 64).WellFormed ∧ ¬(Instr.pstateHandover 64).WellFormed ∧ ¬(Instr.p5Wake 64).WellFormed ∧
    ¬(Instr.hostMemoryAccess .write 0 3 0).WellFormed ∧ ¬(Instr.keyLoad 0 ⟨0, 0⟩).WellFormed ∧ ¬(Instr.linkFlitLost 0 1024 0).WellFormed ∧
    ¬(Instr.timeReached 0 11).WellFormed ∧ ¬(Instr.wingOperationComplete 1088 0).WellFormed ∧ ¬(Instr.portTrained 0 4).WellFormed ∧
    ¬(Instr.clusterMarkCleared 64).WellFormed := by decide

/-! States for the witnesses. Each `wit_` theorem gives, for the statement of its name, states and operands that meet the hypotheses of its clauses, at
boundary values, and what comes out there, worked out by hand from the rules. -/

/-- An operation answers, and the answer and state are as `f` says. -/
def okWith {α : Type} (r : EStateM.Result Stop State α) (f : α → State → Bool) : Bool :=
  match r with
  | .ok a z => f a z
  | .error _ _ => false

/-- An operation raises this fault. -/
def raisesWith {α : Type} (r : EStateM.Result Stop State α) (t : Trap) : Bool :=
  match r with
  | .error (.trap u) _ => u = t
  | _ => false

/-- A step goes on to a state that is as `f` says. -/
def nextWith (r : Host.Outcome State Fault Refusal) (f : State → Bool) : Bool :=
  match r with
  | .next t => f t
  | _ => false

/-- The control context of core 0, live at 0x1000_0000 with a handler at 0x400 and a launch over four cores. -/
def w0 : State :=
  let s := State.reset.withFetchWord 32 0x01CC5003
  let s := onCore s 0 fun k => { k with launch := some ⟨1, 0, 0, 4, 0, regNull, 0, false⟩ }
  onCur s fun x => { x with trapvec := 0x400 }

/-- `w0` with general registers. -/
def wr_ (l : List (Nat × Reg)) : State := onCur w0 fun x => { x with c := l.foldl (fun c p => vecSet c p.1 p.2) x.c }

/-- A data register. -/
def dat (n : Nat) (v : W64) : Nat × Reg := (n, dataReg v)

/-- A capability with another cursor. -/
def cap (n : Nat) (c : Reg) (a : W64) : Nat × Reg := (n, ⟨capWithAddr c.bits a, c.tag⟩)

/-- The executing context has trapped with this cause and value. -/
def trapped (s : State) (code : Nat) (v : W64) : Bool := (curCtx s).handler && (curCtx s).pc == 0x400 && (curCtx s).trapcause.toNat % 256 == code && (curCtx s).trapval == v

theorem wit_PlainArithmeticRules :
    let s := wr_ [dat 6 (-1), dat 7 2]
    issues s [6, 7] [5] false ∧ nextWith (exec (.add 5 6 7 0) s) (fun t => settled (curCtx t) 5 == dataReg 1) ∧
    nextWith (exec (.sub 5 7 6 0) s) (fun t => settled (curCtx t) 5 == dataReg 3) ∧
    nextWith (exec (.and 5 6 7 0) s) (fun t => settled (curCtx t) 5 == dataReg 2) ∧
    nextWith (exec (.or 5 6 7 7) s) (fun t => settled (curCtx t) 5 == dataReg (-1)) ∧
    nextWith (exec (.xor 5 6 7 0) s) (fun t => settled (curCtx t) 5 == dataReg (-3)) := by decide +kernel

theorem wit_ProductsShiftsAndQuotients :
    let s := wr_ [dat 6 (-2 ^ 63), dat 7 (-1), dat 8 65]
    issues s [6, 7] [5] false ∧
    nextWith (exec (.div 5 6 7 0) s) (fun t => settled (curCtx t) 5 == dataReg (-2 ^ 63)) ∧
    nextWith (exec (.rem 5 6 7 7) s) (fun t => settled (curCtx t) 5 == dataReg 0) ∧
    nextWith (exec (.div 5 6 0 0) s) (fun t => settled (curCtx t) 5 == dataReg (-1)) ∧
    nextWith (exec (.remUi64 5 6 0 0) s) (fun t => settled (curCtx t) 5 == dataReg (-2 ^ 63)) ∧
    nextWith (exec (.mulh 5 7 7 0) s) (fun t => settled (curCtx t) 5 == dataReg 0) ∧
    nextWith (exec (.mulhUi64 5 7 7 0) s) (fun t => settled (curCtx t) 5 == dataReg (-2)) ∧
    nextWith (exec (.mul 5 7 8 0) s) (fun t => readReg (curCtx t) 5 == regNull && settled (curCtx t) 5 == dataReg (-65)) ∧
    nextWith (exec (.shr 5 6 8 0) s) (fun t => settled (curCtx t) 5 == dataReg (2 ^ 62)) ∧
    nextWith (exec (.sar 5 6 8 0) s) (fun t => settled (curCtx t) 5 == dataReg (-2 ^ 62)) ∧
    nextWith (exec (.min 0 6 7 0) s) (fun t => settled (curCtx t) 0 == regNull) := by decide +kernel

theorem wit_ImmediatesFieldsAndCapabilities :
    let s := wr_ [dat 1 (-2 ^ 63), dat 2 (63 + 2 ^ 8), dat 3 (64 * 2 ^ 8), dat 4 (1 + 64 * 2 ^ 8), dat 5 0, dat 6 (64 + 2 ^ 8), dat 7 (2 ^ 15 + 2 ^ 8), (8, capGlobal), dat 9 0]
    issues s [1, 2] [10] false ∧ issues s [10, 1, 2] [10] false ∧
    nextWith (exec (.clz 10 9 0) s) (fun t => settled (curCtx t) 10 == dataReg 64) ∧
    nextWith (exec (.clz 10 1 0) s) (fun t => settled (curCtx t) 10 == dataReg 0) ∧
    nextWith (exec (.bfx 10 1 2 1 0) s) (fun t => settled (curCtx t) 10 == dataReg (-1)) ∧
    nextWith (exec (.bfx 10 1 3 0 0) s) (fun t => settled (curCtx t) 10 == dataReg (-2 ^ 63)) ∧
    nextWith (exec (.bfi 10 2 2 0) s) (fun t => settled (curCtx t) 10 == dataReg (2 ^ 63)) ∧
    [4, 5, 6, 7].all (fun b => nextWith (exec (.bfx 10 1 b 0 0) s) fun t => trapped t 1 (natW (Instr.bfx 10 1 b 0 0).word)) ∧
    nextWith (exec (.bfi 10 1 4 0) s) (fun t => trapped t 1 (natW (Instr.bfi 10 1 4 0).word)) ∧
    nextWith (exec (.cprm 10 8 9 0) s) (fun t => (settled (curCtx t) 10).tag && (settled (curCtx t) 10).bits.toNat / 2 ^ 122 == 0) ∧
    nextWith (exec (.cinc 10 8 1 0) s) (fun t => (settled (curCtx t) 10).tag) ∧
    nextWith (exec (.cclr 10 8 0) s) (fun t => !(settled (curCtx t) 10).tag) ∧
    nextWith (exec (.cget 10 8 1 0) s) (fun t => settled (curCtx t) 10 == dataReg 0xC000000000000000) ∧
    nextWith (exec (.cget 10 0 12 0) s) (fun t => (settled (curCtx t) 10).bits.setWidth 64 == 0x10000000#64) ∧
    nextWith (exec (.sel 10 1 2 2 0) s) (fun t => settled (curCtx t) 10 == dataReg (63 + 2 ^ 8)) ∧
    nextWith (exec (.seti 10 1 512 0) s) (fun t => settled (curCtx t) 10 == dataReg 1) := by decide +kernel

theorem wit_CursorAndBoundsChange :
    let c := capCell.bits
    let s := wr_ [cap 1 capCell 0xD000000000000000, dat 2 0x100000, cap 3 capCell 0xCFFFFFFFFFFFFFFF, dat 4 0x100001, dat 5 0xD000000000000000]
    ((c.toNat / 2 ^ 114) % 64 ≤ 39 ∧ (capBounds c).1 = 0xD000000000000000 ∧ (capBounds c).2 = 0xD000000000100000) ∧
    nextWith (exec (.cbnd 6 5 2 0) s) (fun t => trapped t 6 5) ∧
    nextWith (exec (.cbnd 6 1 4 0) s) (fun t => trapped t 5 0xD000000000100000) ∧
    (readReg (curCtx s) 3).tag = true := by decide +kernel

/-- The whole of own cell memory (the last byte included), and a range of 2^25 bytes, which no longer has its own bounds but the next granule's. -/
theorem wit_BoundsDerivedFitTheRange :
    let s := wr_ [cap 1 capCell 0xD000000000000000, dat 2 0x100000, cap 3 capGlobal 1, dat 4 0x2000000]
    (let a := 0xD000000000000000
     (a + 0x100000 + 2 ^ 0 - 1) / 2 ^ 0 - a / 2 ^ 0 < 2 ^ 25) ∧ ¬(1 + 0x2000000) / 1 - 1 / 1 < 2 ^ 25 ∧ (1 + 0x2000000 + 2 - 1) / 2 - 1 / 2 < 2 ^ 25 ∧
    nextWith (exec (.cbnd 6 1 2 0) s) (fun t => (settled (curCtx t) 6).tag && capBounds (settled (curCtx t) 6).bits == (0xD000000000000000, 0xD000000000100000)) ∧
    nextWith (exec (.cbnd 6 3 4 0) s) (fun t => (settled (curCtx t) 6).tag && capBounds (settled (curCtx t) 6).bits == (0, 0x2000002)) := by decide +kernel

theorem wit_BranchesCallsAndReturns :
    let s := wr_ [dat 1 (-1), dat 2 1, cap 31 capGlobal 0x2000, dat 3 0x3000]
    issues s [1, 2] [] false ∧ issues s [] [31] false ∧ issues s [31] [] true ∧
    nextWith (exec (.br 0x80000 0) s) (fun t => (curCtx t).pc == 0xFF00000#64) ∧
    nextWith (exec (.brc 1 2 2 0x80 0) s) (fun t => (curCtx t).pc == 0x0FFFFF00#64) ∧
    nextWith (exec (.brc 1 2 3 0x80 0) s) (fun t => (curCtx t).pc == 0x10000004#64) ∧
    nextWith (exec (.brb 1 63 1 1 0) s) (fun t => (curCtx t).pc == 0x10000002#64) ∧
    nextWith (exec (.jr 31 31 0) s) (fun t => (curCtx t).pc == 0x2000#64 && (readReg (curCtx t) 31).bits.setWidth 64 == 0x10000004#64) ∧
    nextWith (exec (.jr 0 3 0) s) (fun t => (curCtx t).pc == 0x3000#64 && (curCtx t).pcc == (curCtx s).pcc) ∧
    nextWith (exec .ret16 s) (fun t => (curCtx t).pc == 0x2000#64 && (curCtx t).pcc == (readReg (curCtx s) 31).bits) := by decide +kernel

theorem wit_GuardsDecideAndSuppress :
    let s := wr_ [dat 1 (2 ^ 63)]
    let q := onCur s fun x => { x with guard := .suppress }
    let h := onCur s fun x => { x with chksb := true, awaiting := [⟨0, 1, 0, 1⟩] }
    scoreboardHit (curCtx s) [1] [1] = none ∧ (scoreboardHit (curCtx h) [1] [1] = some 1 ∧ nextWith (exec (.guardT 1 63) h) fun t => (curCtx t).guard == .unread 1) ∧
    nextWith (exec (.guardT 1 63) s) (fun t => (curCtx t).guard == .pass && (curCtx t).pc == 0x10000000#64) ∧
    nextWith (exec (.guardF 1 63) s) (fun t => (curCtx t).guard == .suppress) ∧
    (curCtx q).guard = .suppress ∧ legal (.trap 1022 0) = true ∧
    nextWith (exec (.trap 1022 0) q) (fun t => (curCtx t).pc == 0x10000006#64 && !(curCtx t).handler && (curCtx t).guard == .none) := by decide +kernel

/-- A speculative task of the executing context. -/
def wSpec : State := onCur w0 fun x => { x with
  status := .task
  task := some ⟨⟨.msgt, ⟨0, 0, 0⟩, 0, 0, 0, [], 0, 0, 0, 0, 0, 0, 0, none⟩, true, false, false, false, false, [], [], none, false, none, []⟩ }

/-- A message with these registers is on its way to a core. -/
def told (t : State) (dst : Nat) (p : List W64) : Bool := t.flights.any fun f => f.dst == dst && match f.cargo with
  | .msg m => m.payload == p
  | _ => false

theorem wit_TrapsAreTakenAndReturn :
    let h := onCur w0 fun x => { x with handler := true, trappc := 0x2000 }
    let m := onCore w0 0 fun k => { k with launch := some ⟨1, 0, 0, 4, 3, regNull, 0, false⟩ }
    let f := onCur wSpec fun x => { x with task := x.task.map fun t => { t with committing := true, fault := some (⟨1, false, 7⟩, 0x2000) } }
    canTrap w0 ∧ isSpec (curCtx wSpec) = true ∧
    (keptFault (curCtx f) = some (⟨1, false, 7⟩, 0x2000) ∧ canTrap f ∧ draining (curCtx f) = false ∧ commitDone (curCtx f) = false ∧ (curCtx f).deferred = []) ∧
    nextWith (runOne f) (fun t => trapped t 1 7 && (curCtx t).trappc == 0x2000#64) ∧
    keptFault (curCtx (raiseSync wSpec ⟨1, false, 7⟩ 0x2000)) = some (⟨1, false, 7⟩, 0x2000) ∧ issues w0 [] [] false ∧ direct w0 ∧ unpaired w0 ∧
    nextWith (exec (.brk 0) w0) (fun t => trapped t 17 0 && (curCtx t).trappc == 0x10000004#64) ∧
    nextWith (exec .brk16 w0) (fun t => trapped t 17 0 && (curCtx t).trappc == 0x10000002#64) ∧
    nextWith (exec (.trap 1022 7) w0) (fun t => trapped t 18 1022) ∧
    nextWith (exec (.trapSeal 0) w0) (fun t => (curCore t).isSealed && !runnable t ⟨0, 0⟩) ∧
    ((curCore m).launch.map (·.monarch) = some 3 ∧ coreNum m 0 = 0) ∧
    nextWith (exec (.trapSeal 0) m) (fun t => told t 3 [1 + 18 * 2 ^ 8, 0, 0, 1]) ∧
    ((curCtx h).handler = true ∧ (curCtx h).faulting = none ∧ issues h [] [] false) ∧
    nextWith (exec (.eret 0) h) (fun t => (curCtx t).pc == 0x2000#64 && !(curCtx t).handler) ∧
    nextWith (exec (.eret 0) w0) (fun t => trapped t 1 (natW (Instr.eret 0).word)) := by decide +kernel

theorem wit_HelpersStartAndJoin :
    let s := wr_ [cap 1 capGlobal 0x2000, dat 2 12, dat 4 10]
    let full := (List.range 10).foldl (fun s n => onCtx s ⟨0, n + 1⟩ fun x => { x with status := .live }) s
    let last := (List.range 9).foldl (fun s n => onCtx s ⟨0, n + 1⟩ fun x => { x with status := .live }) s
    let ended := onCtx last ⟨0, 10⟩ fun x => { x with status := .joinable, c := vecSet x.c 1 capGlobal }
    (issues s [1, 28, 29, 30, 31] [3] false ∧ direct s ∧ unpaired s ∧ bufEmpty s (senderOf s s.cur) = true ∧ (∀ f ∈ s.flights, f.inDie = true → f.src ≠ senderOf s s.cur)) ∧
    (∀ h, h < 11 → 1 ≤ h → (getCtx full ⟨0, h⟩).status ≠ .free) ∧
    nextWith (exec (.start 3 1 28 0) full) (fun t => settled (curCtx t) 3 == dataReg 0) ∧
    ((getCtx last ⟨0, 10⟩).status = .free ∧ ∀ g, g < 10 → 1 ≤ g → (getCtx last ⟨0, g⟩).status ≠ .free) ∧
    nextWith (exec (.start 3 1 28 0) last) (fun t => settled (curCtx t) 3 == dataReg 10 && (getCtx t ⟨0, 10⟩).status == .live && (getCtx t ⟨0, 10⟩).pc == 0x2000#64) ∧
    nextWith (exec (.start 3 1 1 0) s) (fun t => settled (curCtx t) 3 == dataReg 1 && readReg (getCtx t ⟨0, 1⟩) 1 == readReg (curCtx s) 1) ∧
    nextWith (exec (.hjoin 3 4 0) s) (fun t => trapped t 1 10) ∧
    nextWith (exec (.hjoin 3 0 0) s) (fun t => trapped t 1 0) ∧
    nextWith (exec (.hjoin 3 4 0) full) (fun t => (curCtx t).pc == 0x10000000#64) ∧
    (∀ p ∈ (curCore ended).ctxs, p.1 < ended.cur.cx → alive p.2 = true → p.2.waiting ≠ some (.hjoin 10 0)) ∧
    nextWith (exec (.hjoin 3 4 0) ended) (fun t => settled (curCtx t) 3 == capGlobal && (getCtx t ⟨0, 10⟩).status == .free) := by decide +kernel

theorem wit_ContextsIdleAndEnd :
    let s := wr_ [dat 1 5, dat 2 9]
    let s := { s with mg := { s.mg with time := 5 } }
    let e := onCur s fun x => { x with wake := 31 }
    let live := onCore { s with cur := ⟨0, 1⟩ } 0 fun k => { k with ctxs := mapSet k.ctxs 1 { curCtx s with c := vecSet (curCtx s).c 1 capCell } }
    let task := onCtx live ⟨0, 1⟩ fun x => { x with status := .task, task := (curCtx wSpec).task.map fun t => { t with ordered := false } }
    let spec := onCtx live ⟨0, 1⟩ fun x => { x with status := .task, task := (curCtx wSpec).task }
    (issues s [1] [3] false ∧ direct s ∧ unpaired s) ∧
    nextWith (exec (.idle 3 1 0) s) (fun t => settled (curCtx t) 3 == dataReg 32 && (curCtx t).pc == 0x10000004#64) ∧
    nextWith (exec (.idle 3 0 0) e) (fun t => settled (curCtx t) 3 == dataReg 31 && (curCtx t).wake == 0#6) ∧
    nextWith (exec (.idle 3 2 0) s) (fun t => (curCtx t).idling == some (some 9) && (curCtx t).pc == 0x10000000#64) ∧
    nextWith (exec (.tshor 3 0) s) (fun t => settled (curCtx t) 3 == dataReg 0xFFFFFFFFFFFF) ∧
    (∀ l ∈ s.leases, l.holder ≠ senderOf s s.cur) ∧
    nextWith (exec (.done 0) s) (fun t => (curCtx t).status == .free) ∧
    (curCtx live).status = .live ∧ nextWith (exec .done16 live) (fun t => (curCtx t).status == .joinable && readReg (curCtx t) 1 == capCell) ∧
    (direct task ∧ (curCtx task).status = .task ∧ (curCtx task).task ≠ none) ∧ nextWith (exec .done16 task) (fun t => (curCtx t).status == .free) ∧
    isSpec (curCtx spec) = true ∧ nextWith (exec .done16 spec) (fun t => (curCtx t).status == .task) ∧
    nextWith (exec (.untwin 0) s) (fun t => (curCtx t).pc == 0x10000004#64) := by decide +kernel

theorem wit_MessagesAndCallsLeave :
    let s := wr_ [dat 1 3, dat 2 7, dat 6 (2 ^ 48 - 1), dat 7 5000]
    let most := onCore s 3 fun k => { k with reserved := [(9, 15), (15, 15)] }
    let tok := onCur most fun x => { x with k := vecSet x.k 7 ⟨254, false, 0, 0⟩ }
    (issues s [1, 2, 3, 4, 5, 6] [] false ∧ issues s [1, 2, 3, 4, 5, 6] [8] false ∧ direct most ∧ unpaired most ∧ bufferOpen most) ∧
    localCore most 3 = some 3 ∧ (chanQueue (getCore most 3) 9).length + mapGetD (getCore most 3).reserved 9 0 = 15 ∧ localCore s 5000 = none ∧
    nextWith (exec (.msg 1 2 (9 * 64 + 63) 0) most) (fun t => (curCore t).buf.length == 1 && mapGetD (getCore t 3).reserved 9 0 == 16) ∧
    nextWith (exec (.msgt 1 2 (9 * 64) 0) most) (fun t => mapGetD (curCore t).seqOut 3 0 == 1 && (curCore t).buf.map (·.kind) ==
      [.msg ⟨.msgt, ⟨0, 0, 0⟩, 3, 0, 9, [7, 0, 0, 0], 2 ^ 48 - 1, 0, 0, 0, 0, 0, 0, some 3⟩]) ∧
    nextWith (exec (.msg 7 2 0 0) s) (fun t => (curCore t).buf.length == 1) ∧
    nextWith (exec (.evtick 1 6 15 0) s) (fun t => (curCore t).buf.length == 1) ∧
    (vecGet (curCtx tok).k 7 tokenReset).count < 255 ∧
    nextWith (exec (.callat 8 1 2 7 0) tok) (fun t => (curCtx t).awaiting == [⟨0, 8, 7, 3⟩] && (vecGet (curCtx t).k 7 tokenReset).count == 255) := by decide +kernel

/-- `w0` with barrier 7 in a state. -/
def wBar (b : BarState) : State := onCur (wr_ [dat 1 5, dat 2 1024, dat 3 1025]) fun x => { x with bar := vecSet x.bar 7 ⟨b, 5, 2⟩ }

theorem wit_BarriersMeet :
    let home := fun n => { w0 with flights := [⟨⟨1, 0, 0⟩, 0, .arrive 7 n, true⟩] }
    let open_ := fun p => onCore (home 2) 0 fun k => { k with barHome := [(7, p)] }
    let away := onCore (home 2) 0 fun k => { k with launch := none }
    (issues (wBar .idle) [1, 2] [] false ∧ direct (wBar .idle) ∧ unpaired (wBar .idle) ∧ bufferOpen (wBar .idle)) ∧
    nextWith (exec (.binit 7 1 2 0) (wBar .done)) (fun t => vecGet (curCtx t).bar 7 ⟨.unset, 0, 0⟩ == ⟨.idle, 5, 1024⟩) ∧
    nextWith (exec (.binit 7 1 2 0) (wBar .waiting)) (fun t => trapped t 1 (natW (Instr.binit 7 1 2 0).word)) ∧
    nextWith (exec (.binit 7 1 3 0) (wBar .idle)) (fun t => trapped t 1 (natW (Instr.binit 7 1 3 0).word)) ∧
    nextWith (exec (.binit 7 1 0 0) (wBar .idle)) (fun t => trapped t 1 (natW (Instr.binit 7 1 0 0).word)) ∧
    nextWith (exec (.barr 7 0) (wBar .done)) (fun t => (curCore t).buf == [⟨⟨0, 0, 0⟩, .arrive 7 2 5⟩]) ∧
    nextWith (exec (.barr 7 0) (wBar .unset)) (fun t => trapped t 1 (natW (Instr.barr 7 0).word)) ∧
    nextWith (exec (.bwait 7 0) (wBar .done)) (fun t => (curCtx t).pc == 0x10000004#64) ∧
    nextWith (exec (.bwait 7 0) (wBar .waiting)) (fun t => (curCtx t).waiting == some (.bwait 7)) ∧
    nextWith (exec (.bwait 7 0) (wBar .idle)) (fun t => trapped t 1 (natW (Instr.bwait 7 0).word)) ∧
    nextWith (exec (.bwait 7 0) (onCur (wBar .idle) fun x => { x with waiting := some (.broken ⟨14, false, 9⟩) })) (fun t => trapped t 14 9) ∧
    (localCore w0 0 = some 0 ∧ asleep w0 0 = false ∧ absent w0 0 = false ∧ resident w0 0 = true ∧ resident away 0 = false) ∧
    nextWith (exec (.barrierArrival 0) (home 1)) (fun t => t.completions == [⟨⟨1, 0, 0⟩, 7, none⟩] && (getCore t 0).barHome == []) ∧
    nextWith (exec (.barrierArrival 0) (home 2)) (fun t => (getCore t 0).barHome == [(7, ⟨2, [⟨1, 0, 0⟩]⟩)]) ∧
    nextWith (exec (.barrierArrival 0) (open_ ⟨2, [⟨0, 0, 0⟩]⟩)) (fun t => t.completions == [⟨⟨0, 0, 0⟩, 7, none⟩, ⟨⟨1, 0, 0⟩, 7, none⟩]) ∧
    nextWith (exec (.barrierArrival 0) (open_ ⟨3, [⟨0, 0, 0⟩]⟩)) (fun t => t.refused.length == 1) ∧
    nextWith (exec (.barrierArrival 0) away) (fun t => t.refused.length == 1) ∧
    (findSender (wBar .waiting) ⟨0, 0, 0⟩ = some ⟨0, 0⟩ ∧
      nextWith (exec (.barrierCompletion 0) { wBar .waiting with completions := [⟨⟨0, 0, 0⟩, 7, none⟩] }) (fun t =>
        (vecGet (curCtx t).bar 7 ⟨.unset, 0, 0⟩).st == .done && (curCtx t).wake == 16#6)) := by decide +kernel

theorem wit_SpeculativeTasksWait :
    ((curCtx wSpec).guard = .none ∧ scoreboardHit (curCtx wSpec) [1, 2, 3] [] = none ∧ isSpec (curCtx wSpec) = true ∧ unpaired wSpec) ∧
    [Instr.waitk 1 0 0, .hjoin 3 1 0, .pope 1 15 0, .idle 1 2 0, .start 3 1 28 0, .bwait 7 0, .fence 3 0, .bfree 8 0, .blease 8 1 2 1 0, .sbind 7 1 2 9 0,
      .sfree 7 0, .bind 1 0, .tlbiAll 0, .trapSeal 0, .tlbiAs 1 0, .tlbiVa 1 2 0, .csrw 1 0x0A 0, .mzero 0 0, .mrda 0 1 2 12 0, .mwra 0 1 2 12 0, .mlease 0, .mrel 0, .tunpin 0 0].all (fun i =>
        legal i && nextWith (exec i wSpec) fun t => t == onCur wSpec (stallAt i)) ∧
    [Instr.ldvStream 9 7 12 0, .amo 6 1 4 8 0 0, .cas 6 1 4 1 0, .mma 0 1 2 0, .mmas 0 0 1 2 0 0, .tfetch 0 1 0 0].all (fun i =>
        legal i && nextWith (exec i wSpec) fun t => (keptFault (curCtx t)).isSome && (curCtx t).pc == (curCtx wSpec).pc) ∧
    (let s := onCur wSpec fun x => { x with c := vecSet x.c 2 ⟨capWithAddr capGlobal.bits 0x2000, true⟩ }
     let waits := fun (i : Instr) (z : State) => legal i && isSpec (curCtx z) && unpaired z && nextWith (exec i s) fun t => t == onCur z (stallAt i)
     okWith (accessGlobal (readReg (curCtx s) 2) 2 0x2000 8 accLoad s) (fun _ z => waits (.ldg 6 2 3 1 2 0 0) z) ∧
     okWith (accessGlobal (readReg (curCtx s) 2) 2 0x2000 8 accAtomic s) (fun _ z => waits (.gamo 6 2 4 7 0 0) z && waits (.gcas 6 2 4 1 3 0) z)) := by decide +kernel

/-- An untagged word, missing permissions, both sides of both bounds, alignment, each space, and another core's cell memory. -/
theorem wit_AccessesAreChecked :
    let g := capOver 0b110110 0x1000 0x2000
    let s := w0
    raisesWith (access ⟨g.bits, false⟩ 31 0x1000 8 accLoad s) ⟨6, false, 31⟩ ∧
    raisesWith (access g 1 0x1000 2 accFetch s) ⟨4, true, 0x1000⟩ ∧
    raisesWith (access g 1 0xFF8 8 accLoad s) ⟨5, false, 0xFF8⟩ ∧
    raisesWith (access g 1 0x2000 8 accLoad s) ⟨5, false, 0x2000⟩ ∧
    raisesWith (access g 1 0x1FFC 8 accLoad s) ⟨5, false, 0x2000⟩ ∧
    okWith (access g 1 0x1FF8 8 accLoad s) (fun p _ => p == (.phys 0x1FF8 false 0, false)) ∧
    raisesWith (access g 1 0x1001 8 accLoad s) ⟨2, false, 0x1001⟩ ∧
    raisesWith (access (capRoot 0b110110 0 0x1800000 0) 1 (2 ^ 48) 8 accLoad s) ⟨3, false, 2 ^ 48⟩ ∧
    raisesWith (access (capRoot 0b110110 0x1800000 0x1C00000 (0xC000000100000000)) 1 0xC000000100000000 8 accLoad s) ⟨7, false, 0xC000000100000000⟩ ∧
    okWith (access (capRoot 0b110110 0x1800000 0x1C00000 (0xC000000100000000)) 1 0xC000000100000000 8 (accStore true) s) (fun p _ => p == (.cell 1 0, true)) ∧
    raisesWith (access (capRoot 0b111000 0x1800000 0x1C00000 0xC000000000000000) 1 0xC000000000000000 2 accFetch s) ⟨3, false, 0xC000000000000000⟩ ∧
    okWith (access capCell 1 0xD0000000000FFFF8 8 accLoad s) (fun p _ => p == (.cell 0 0xFFFF8, true)) ∧
    raisesWith (access capEngine 1 0xE000000000003000 4 accLoad s) ⟨2, false, 0xE000000000003000⟩ ∧
    okWith (access capEngine 1 0xE000000000003000 8 accLoad s) (fun p _ => p == (.engine 0x3000, true)) ∧
    raisesWith (access (capRoot 0b111001 0x1C00000 0x1E00000 0xE000000000000000) 1 0xE000000000003000 8 ⟨false, false, true, false, false, true⟩ s) ⟨3, false, 0xE000000000003000⟩ := by decide +kernel

theorem wit_AddressesAreTranslated :
    let none_ := onCore w0 0 fun k => { k with launch := none }
    let noRoot := onMem w0 fun g => { g with troot := vecSet g.troot 0 0x100000 }
    let hot := putFront w0 0 { getFront w0 0 with tlb := [⟨0, 0, 2 ^ 30, 2 ^ 51, 0x0300000000000017⟩] }
    spaceOf w0 0 0xD000000000000000 = some (.cell 0 0) ∧ spaceOf w0 0 0xD000001F00000000 = none ∧ spaceOf w0 0 0xD0000000000FFFFF = some (.cell 0 0xFFFFF) ∧
    spaceOf w0 0 0xD000000000100000 = none ∧ spaceOf w0 1023 0xD00003FF00000000 = some (.cell 1006 0) ∧ spaceOf w0 0 (2 ^ 48 - 1) = some (.global (2 ^ 48 - 1)) ∧
    spaceOf w0 0 (2 ^ 48) = none ∧ spaceOf w0 0 0xE0000000FFFFFFFF = some (.engine 0xFFFFFFFF) ∧ spaceOf w0 0 0xB000000000000000 = none ∧ spaceOf w0 0 0xF000000000000000 = none ∧
    raisesWith (translate 0 0x1000 0x1000 accLoad none_) ⟨3, false, 0x1000⟩ ∧ raisesWith (translate 0 0x1000 0x1000 accLoad noRoot) ⟨3, false, 0x1000⟩ ∧
    ((getFront w0 0).tlb = [] ∧ (getCluster w0 0).tlb = [] ∧ okWith (walk 0 0x1000 0x100000 4 0x1000 w0) (fun e _ => e.pa == 0 && e.size == 2 ^ 30)) ∧
    okWith (translate 0 0x3FFFFFFF 0x3FFFFFFF accLoad w0) (fun p z => p == (.phys 0x3FFFFFFF false 0, false) && (getFront z 0).tlb.length == 1) ∧
    raisesWith (translate 0 0x40000000 0x40000000 accLoad w0) ⟨3, false, 0x40000000⟩ ∧
    raisesWith (translate 0 0x1000 0x1000 accLoad hot) ⟨4, false, 0x1000⟩ ∧
    okWith (translate 0 0x1000 0x1000 accLoad (onMem hot fun g => { g with keys := [(0x30, ⟨1, 2⟩)] })) (fun p _ => p == (.phys (2 ^ 51 + 0x1000) false 0x30, false)) := by
  decide +kernel

/-- `w0` with bytes in own cell memory, a capability granule at 0x20 and roots in c1, c2 and c3. -/
def wMem : State := onCore (wr_ [cap 1 capCell 0xD000000000000000, cap 2 capGlobal 0x2000, (3, capGlobal), dat 4 (-1), dat 5 8]) 0 fun k => { k with
  cell := [(0, 0xFE), (1, 0xFF), (8, 0x80), (0x20, 1), (0xFFFFF, 0x7F)]
  tags := [2] }

theorem wit_LoadsAndStores :
    let s := wMem
    (issues s [1] [6] false ∧ issues s [4, 1] [] false ∧ direct s ∧ unpaired s ∧ bufferOpen s ∧ ownStores s = []) ∧
    okWith (access (readReg (curCtx s) 1) 1 0xD000000000000008 8 accLoad s) (fun p z => p == (.cell 0 8, true) && z == s &&
      okWith (loadPlace p.1 8 false z) fun l u => u == s && l == [0x80, 0, 0, 0, 0, 0, 0, 0]) ∧
    nextWith (exec (.ld 6 1 1 0 0) s) (fun t => settled (curCtx t) 6 == dataReg (-2)) ∧
    nextWith (exec (.ld 6 1 5 0 0) s) (fun t => settled (curCtx t) 6 == dataReg 0xFFFE) ∧
    nextWith (exec (.ld 6 1 7 2 0) s) (fun t => settled (curCtx t) 6 == ⟨1, true⟩) ∧
    nextWith (exec (.ld 6 1 0 0x7F 0) s) (fun t => trapped t 5 0xCFFFFFFFFFFFFFFF) ∧
    nextWith (exec (.ldg 6 2 3 1 3 0 0) s) (fun t => settled (curCtx t) 6 == dataReg 0 && (curCtx t).pc == 0x10000004#64) ∧
    okWith (accessGlobal (readReg (curCtx s) 2) 2 0x2000 8 accLoad s) (fun p z => okWith (loadPlace p.1 8 true z) fun l _ => l.length == 8) ∧
    redBefore s (senderOf s s.cur) (.store (.phys 0x2000 false 0) [] none none) = false ∧
    nextWith (exec (.st 4 1 3 1 0) s) (fun t => (curCore t).buf == [⟨⟨0, 0, 0⟩, .store (.cell 0 8) (toBytes (2 ^ 64 - 1) 8) none none⟩] && (curCore t).cell == wMem.cores.head!.2.cell) ∧
    nextWith (exec (.st 3 1 7 1 0) s) (fun t => (curCore t).buf.map (·.kind) == [.store (.cell 0 16) (toBytes capGlobal.bits.toNat 16) (some true) none]) ∧
    nextWith (exec (.stg 4 2 0 1 2 0 0) s) (fun t => (curCore t).buf.map (·.kind) == [.store (.phys 0x2000 false 0) [0xFF] none (some 2)]) := by decide +kernel

theorem wit_CellBytesArePut :
    (Memory.wf (curCore wMem).cell = true ∧ setSorted (curCore wMem).tags = true ∧ mapSorted (curCore wMem).ctxs = true) ∧ isSpec (getCtx wMem ⟨0, 0⟩) = false ∧
    (curCore (cellPut wMem 0 0x2F [0] none none)).tags = [] ∧ (curCore (cellPut wMem 0 0x30 [0] none none)).tags = [2] ∧
    (curCore (cellPut wMem 0 0 [0, 1] none none)).cell = [(1, 1), (8, 0x80), (0x20, 1), (0xFFFFF, 0x7F)] := by decide +kernel

theorem wit_AtomicsReadAndWrite :
    let s := wMem
    let h := putFront s 0 { getFront s 0 with tlb := [⟨0, 0, 2 ^ 30, 2 ^ 51, 0x17⟩] }
    let b := onMem s fun g => { g with hbm := memWrites g.hbm 0x2000 (toBytes (2 ^ 63) 8) }
    (okWith (accessOwn (readReg (curCtx s) 1) 1 0xD000000000000000 8 s) (fun o z => o == 0 && z == s) ∧ direct s ∧ unpaired s ∧ bufEmpty s (senderOf s s.cur) = true ∧
      (∀ f ∈ s.flights, f.inDie = true → f.src ≠ senderOf s s.cur) ∧ issues s [1, 4] [6] false ∧ issues s [6, 1, 4] [6] false) ∧
    nextWith (exec (.amo 6 1 4 8 0 0) s) (fun t => settled (curCtx t) 6 == dataReg 0xFFFE && memReads (curCore t).cell 0 4 == [0xFF, 0xFF, 0xFF, 0xFF]) ∧
    nextWith (exec (.amo 6 1 4 5 1 0) s) (fun t => memReads (curCore t).cell 0 8 == List.replicate 8 0xFF) ∧
    nextWith (exec (.cas 6 1 4 1 0) s) (fun t => settled (curCtx t) 6 == dataReg 0xFFFE && (curCore t).cell == (curCore s).cell) ∧
    nextWith (exec (.cas 0 1 4 1 0) s) (fun t => (curCore t).cell == (curCore s).cell) ∧
    nextWith (exec (.cas 5 1 4 0 0) (onCur s fun x => { x with c := vecSet x.c 5 (dataReg 0xFFFE) })) (fun t => memReads (curCore t).cell 0 4 == [0xFF, 0xFF, 0xFF, 0xFF]) ∧
    okWith (accessGlobal (readReg (curCtx b) 2) 2 0x2000 8 accAtomic b) (fun p z => p.1 == .phys 0x2000 false 0 && unpaired z && okWith (redPending p.1 8 z) (fun r w => !r && w == z) &&
      okWith (releaseAt ⟨0, 0, 0⟩ 0 0 3 z) fun _ u => isLeased u 0x2000 8 == false && okWith (homeRead 0x2000 8 0 ((wordsOf 0x2000 8).foldl (fun s w => recallWord s w none) (mergeFar u 0 0x40))) fun l r =>
        l.length == 8 && okWith (homeWrite 0x2000 (toBytes 7 8) 0 ((wordsOf 0x2000 8).foldl (fun s w => farDrop s 0 w) r)) fun _ _ => true) ∧
    nextWith (exec (.gamo 6 2 4 1 3 0) b) (fun t => settled (curCtx t) 6 == dataReg (2 ^ 63) && memReads t.mem.hbm 0x2000 8 == toBytes (2 ^ 63 - 1) 8) ∧
    nextWith (exec (.gcas 6 2 4 1 0 0) b) (fun t => settled (curCtx t) 6 == dataReg (2 ^ 63) && t.mem.hbm == b.mem.hbm) ∧
    nextWith (exec (.gcas 0 2 4 0 0 0) b) (fun t => memReads t.mem.hbm 0x2000 8 == [0xFF, 0xFF, 0xFF, 0xFF, 0, 0, 0, 0x80]) ∧
    isHost (2 ^ 51 + 0x2000) = true ∧
    nextWith (exec (.gamo 6 2 4 0 0 0) h) (fun t => memReads t.mem.host 0x2000 8 == List.replicate 8 0xFF) ∧
    nextWith (exec (.gcas 0 2 4 0 2 0) h) (fun t => memReads t.mem.host 0x2000 8 == [0xFF, 0xFF, 0xFF, 0xFF, 0, 0, 0, 0]) ∧
    nextWith (exec (.gamo 6 2 4 2 0 0) h) (fun t => trapped t 4 0x2000) := by decide +kernel

theorem wit_ReductionsAndFences :
    let s := wMem
    let h := putFront s 0 { getFront s 0 with tlb := [⟨0, 0, 2 ^ 30, 2 ^ 51, 0x17⟩] }
    let red := fun (pa typ op : Nat) (v : W64) => { s with reds := [⟨0, 0, ⟨0, 0, 0⟩, .phys pa false 5, typ, op, v⟩] }
    let again := onMem (red 0x2078 3 1 4) fun g => { g with reduce := [⟨0, 5, 0x40, 3, 1, [(0x78, 5)]⟩] }
    (issues s [2, 4] [] false ∧ okWith (accessGlobal (readReg (curCtx s) 2) 2 0x2000 8 (accStore false) s) (fun p z => direct z && unpaired z && hostPlace p.1 == false)) ∧
    nextWith (exec (.red 5 2 4 2 0) s) (fun t => t.reds == [⟨0, 0, ⟨0, 0, 0⟩, .phys 0x2000 false 0, 5, 2, -1⟩]) ∧
    nextWith (exec (.red 3 2 4 0 0) h) (fun t => t.reds.length == 1) ∧
    nextWith (exec (.red 3 2 4 1 0) h) (fun t => trapped t 4 0x2000) ∧
    nextWith (exec (.red 4 2 4 0 0) h) (fun t => trapped t 4 0x2000) ∧
    (okWith (releaseAt ⟨0, 0, 0⟩ 0 0 3 s) (fun _ _ => true) ∧
      nextWith (exec (.fence 3 0) (onCur s fun x => { x with fetched := [(0x8000000, (0, 0))] })) (fun t => (curCtx t).pc == 0x10000004#64 && (curCtx t).fetched == [])) ∧
    ((getCore (red 0 0 0 0) 0).buf = [] ∧ (∀ r ∈ (red 0x2078 3 1 4).reds, behindRelease s 0 r = false) ∧ Memory.wf s.mem.host = true ∧ 0x2078 < s.mem.hbmtop.toNat ∧ homeDie 0x2078 = 0 ∧ s.mem.far = [] ∧
      isLeased s 0x2000 128 = false ∧ s.mem.reduce = []) ∧
    nextWith (exec (.redPerform 0) (red (2 ^ 51 + 8) 1 0 (2 ^ 32 - 1))) (fun t => memReads t.mem.host 8 4 == [0xFF, 0xFF, 0xFF, 0xFF]) ∧
    nextWith (exec (.redPerform 0) (red 0x2078 3 1 7)) (fun t => t.mem.reduce == [⟨0, 5, 0x40, 3, 1, [(0x78, 7)]⟩]) ∧
    nextWith (exec (.redPerform 0) again) (fun t => t.mem.reduce == [⟨0, 5, 0x40, 3, 1, [(0x78, 4)]⟩]) := by decide +kernel

theorem wit_CopiesStart :
    let k := fun n => vecSet (curCtx w0).k 7 ⟨n, false, 0, 0⟩
    let s := onCur (wr_ [cap 1 capCell 0xD000000000000000, cap 2 capMesh 0xC000000100000040, cap 3 capGlobal 0x2000, dat 4 0x100000, dat 5 (2 ^ 32), dat 6 64,
      cap 7 capCell 0xD000000000000100, dat 8 (2 ^ 32 * 7 + 64), dat 9 (2 ^ 35), cap 10 capMesh 0xC000000000000000]) fun x => { x with k := k 254 }
    let s := onCore s 0 fun q => { q with cell := memWrites [] 0x100 ([0x21, 0, 0, 0, 0, 0, 0, 0] ++ toBytes (3 + 16 * 2 ^ 32) 8 ++ [1, 0, 0, 0, 0, 0, 0, 0]) }
    (issues s [2, 1, 6] [] false ∧ direct s ∧ unpaired s ∧ (vecGet (curCtx s).k 7 tokenReset).count < 255 ∧ inFlight (curCore s) < 16) ∧
    okWith (ownRange (readReg (curCtx s) 1) 1 0x100000 s) (fun o z => o == 0 && z == s) ∧ okWith (meshRange (readReg (curCtx s) 2) 2 0xC000000100000040 64 s) (fun p z => p == (1, 0x40) && z == s) ∧
    okWith (globalRange (readReg (curCtx s) 3) 3 64 accCopySrc s) (fun _ z => z == s) ∧ okWith (globalRange (readReg (curCtx s) 3) 3 64 accCopyDst s) (fun _ z => z == s) ∧
    okWith (pushRelease true s) (fun _ z => unpaired z && inFlight (curCore z) == 0) ∧
    nextWith (exec (.send 2 1 6 7 0) s) (fun t => (curCore t).copies.map (·.runs) == [[⟨0, 0xC000000100000040, 0, 64, 1⟩]] && (vecGet (curCtx t).k 7 tokenReset).count == 255) ∧
    nextWith (exec (.send 2 1 0 7 0) s) (fun t => (curCore t).copies == [] && (curCtx t).pc == 0x10000004#64) ∧
    nextWith (exec (.send 2 1 5 7 0) s) (fun t => trapped t 1 (natW (Instr.send 2 1 5 7 0).word)) ∧
    nextWith (exec (.sends 4 1 8 7 0) s) (fun t => (curCore t).copies.map (·.kind) == [.sends 7]) ∧
    nextWith (exec (.xget 10 3 4 7 0) s) (fun t => (curCore t).copies.map (·.runs) == [[⟨0x2000, 0xC000000000000000, 0, 0x100000, 0⟩]]) ∧
    nextWith (exec (.xput 3 1 4 7 0) s) (fun t => (curCore t).copies.map (·.runs) == [[⟨0, 0x2000, 0, 0x100000, 0⟩]]) ∧
    nextWith (exec (.xget 10 3 5 7 0) s) (fun t => trapped t 1 (natW (Instr.xget 10 3 5 7 0).word)) ∧
    okWith (access (readReg (curCtx s) 7) 7 0xD000000000000100 32 accLoad s) (fun p z => p == (.cell 0 0x100, true) && okWith (loadPlace p.1 32 false z) fun l u => u == s &&
      spreadDesc l == some ⟨0, 2, 2, 16, 3, 1⟩ && okWith (spreadTargets (readReg (curCtx s) 10) 10 ⟨0, 2, 2, 16, 3, 1⟩ [(0, 0), (1, 0), (0, 1), (1, 1)] u) fun ts _ => ts.length == 4) ∧
    nextWith (exec (.spread 10 1 7 7 0) s) (fun t => (curCore t).copies.map (fun q => q.runs.map fun r => (r.src.toNat, r.slot, r.len, r.target)) ==
      [[(0, 0, 16, 0), (32, 16, 16, 0), (16, 0, 16, 1), (0, 0, 16, 16), (32, 16, 16, 16), (16, 0, 16, 17)]]) := by decide +kernel

/-- `w0` with streams: number 7 bound with an element of two bytes waiting, number 0 full. -/
def wStream : State := onCur (wr_ [cap 1 capCell 0xD000000000010000, dat 2 65536, dat 3 (2 ^ 32), cap 4 capCell 0xD0000000000FFC00, dat 5 1024]) fun x => { x with
  s := vecSet (vecSet x.s 7 (some ⟨0, 4, 1, 1, 2⟩)) 0 (some ⟨0, 4, 1, 0, 2⟩)
  shape := 0x10 }

theorem wit_TokensAndStreams :
    let k := fun a b => onCur w0 fun x => { x with k := vecSet (vecSet x.k 0 a) 7 b }
    let pieces := fun (n len : Nat) (l : List Nat) (s : State) => onCore s 1 fun q => { q with copies := [⟨4, ⟨1, 0, 0⟩, 0, .sends n, [⟨0, 0, 0, len, 0⟩], [],
      l.map fun m => ⟨0, ⟨0, 0, 0, m, 0⟩, List.replicate m 7, [], none, 0, false, false⟩, [], [], [], false, 0, false, none, none, []⟩] }
    let sends := fun (n len : Nat) (s : State) => pieces n len [len] s
    (issues w0 [] [] false ∧ direct w0 ∧ unpaired w0) ∧
    nextWith (exec (.waitk 1 4 0) w0) (fun t => (curCtx t).pc == 0x10000004#64) ∧
    nextWith (exec (.waitk 1 4 0) (k tokenReset ⟨1, false, 0, 0⟩)) (fun t => (curCtx t).pc == 0x10000000#64) ∧
    nextWith (exec (.waitk 1 4 0) (k ⟨0, true, 14, 3⟩ ⟨0, true, 10, 4⟩)) (fun t => trapped t 14 3 && !(vecGet (curCtx t).k 0 tokenReset).err && (vecGet (curCtx t).k 7 tokenReset).err) ∧
    ((checkBounds (readReg (curCtx wStream) 1).bits 0xD000000000010000 65536 accBoth).toBool = true ∧ vecGet (curCtx wStream).s 6 none = none ∧ 9 + 1 ≤ 16) ∧
    nextWith (exec (.sbind 6 1 2 9 0) wStream) (fun t => vecGet (curCtx t).s 6 none == some ⟨65536, 65536, 9, 0, 0⟩) ∧
    nextWith (exec (.sbind 6 4 5 9 0) wStream) (fun t => vecGet (curCtx t).s 6 none == some ⟨0xFFC00, 1024, 9, 0, 0⟩) ∧
    nextWith (exec (.sbind 7 1 2 9 0) wStream) (fun t => trapped t 1 (natW (Instr.sbind 7 1 2 9 0).word)) ∧
    nextWith (exec (.sbind 6 1 3 9 0) wStream) (fun t => trapped t 1 (natW (Instr.sbind 6 1 3 9 0).word)) ∧
    nextWith (exec (.sfree 7 0) wStream) (fun t => vecGet (curCtx t).s 7 none == none && vecGet (curCtx t).s 0 none != none) ∧
    (let s := sends 7 2 wStream
     localCore s 0 = some 0 ∧ asleep s 0 = false ∧ absent s 0 = false ∧ (getCore s 0).isSealed = false ∧ (∀ w ∈ (getCore s 0).launch, w.saved = false) ∧ (getCore s 0).twin = none ∧
      streamOwner s 0 7 = some 0 ∧ Memory.wf (getCore s 0).cell = true ∧
      nextWith (exec (.streamDelivery 1 4 0) s) (fun t => (getCore t 0).cell == [(0, 7), (1, 7)] && vecGet (getCtx t ⟨0, 0⟩).s 7 none == some ⟨0, 4, 1, 1, 3⟩)) ∧
    nextWith (exec (.streamDelivery 1 4 0) (sends 0 2 wStream)) (fun t => t == sends 0 2 wStream) ∧
    nextWith (exec (.streamDelivery 1 4 0) (pieces 7 2 [1] wStream)) (fun t => t == pieces 7 2 [1] wStream) ∧
    nextWith (exec (.streamDelivery 1 4 0) (pieces 7 4 [1, 3] wStream)) (fun t => (getCore t 0).cell == [(0, 7), (1, 7)] &&
      (getCore t 1).copies.map (fun q => (restBytes q.flying).length) == [2]) ∧
    nextWith (exec (.streamDelivery 1 4 0) (sends 7 3 wStream)) (fun t => (getCore t 1).copies.map (·.failed) == [[0]]) ∧
    (streamOwner wStream 0 6 = none ∧ nextWith (exec (.streamDelivery 1 4 0) (sends 6 2 wStream)) fun t => (getCore t 1).copies.map (·.failed) == [[0]]) := by decide +kernel

/-- A granted bank lease of context 0 of core 0 on one row of 1 KiB at 0x4000. -/
def wLease : Lease := ⟨3, ⟨0, 0, 0⟩, 8, false, 1, [[0x4000]], [16], 1, true, false, 0, false, 0, [], [], none, []⟩

theorem wit_PortsAndLeases :
    let s := { wr_ [dat 1 9, cap 2 capCell 0xD000000000000000, cap 3 capGlobal 0x4000, dat 4 0, dat 5 (2 ^ 22), dat 6 (2 ^ 12)] with leases := [wLease] }
    let l := fun f => { s with leases := [f wLease] }
    let none_ := { s with leases := [] }
    (direct s ∧ unpaired s ∧ issues s [1] [] false ∧ issues s [] [9] false ∧ issues s [3, 4] [] false) ∧ okWith (pushRelease true s) (fun _ z => findLease z (senderOf z z.cur) 8 == some wLease) ∧
    nextWith (exec (.pushe 8 1 0) (l fun q => { q with words := List.replicate 15 0 })) (fun t => t.leases.map (·.words) == [List.replicate 15 0 ++ [9]]) ∧
    nextWith (exec (.pushe 8 1 0) none_) (fun t => trapped t 12 8) ∧
    okWith (access (readReg (curCtx s) 2) 2 0xD000000000000000 64 accLoad s) (fun p z => okWith (loadPlace p.1 64 false z) fun _ u => okWith (pushRelease true u) fun _ _ => true) ∧
    nextWith (exec (.pushe 15 2 0) s) (fun t => t.launchPushes == [⟨⟨0, 0, 0⟩, List.replicate 8 0⟩]) ∧
    nextWith (exec (.pope 9 8 0) (l fun q => { q with results := [4, 5] })) (fun t => settled (curCtx t) 9 == dataReg 4 && t.leases.map (·.results) == [[5]]) ∧
    nextWith (exec (.pope 9 8 0) none_) (fun t => trapped t 12 8) ∧
    nextWith (exec (.pope 9 8 0) (l fun q => { q with expired := true })) (fun t => trapped t 12 8 && t.leases == []) ∧
    nextWith (exec (.pope 9 15 0) { s with launchResults := [⟨⟨1, 0, 0⟩, 1, true⟩, ⟨⟨0, 0, 0⟩, 2, false⟩, ⟨⟨0, 0, 0⟩, 3, true⟩] }) (fun t => settled (curCtx t) 9 == dataReg 2 && t.launchResults == [⟨⟨1, 0, 0⟩, 1, true⟩, ⟨⟨0, 0, 0⟩, 3, true⟩]) ∧
    nextWith (exec (.pope 9 15 0) { s with launchResults := [⟨⟨0, 0, 0⟩, 3, true⟩] }) (fun t => (curCtx t).stalled && t.launchResults.length == 1) ∧
    okWith (askLease (.blease 8 3 4 0 0) 8 3 4 false none_) (fun _ _ => true) ∧
    nextWith (exec (.blease 8 3 4 0 0) none_) (fun t => (curCtx t).waiting == some (.blease 8) && t.leases.map (fun q => (q.rows, q.micros)) == [([[0x4000]], 1)]) ∧
    nextWith (exec (.blease 8 3 4 0 0) (onCur s fun x => { x with waiting := some (.leased 8) })) (fun t => (curCtx t).pc == 0x10000004#64) ∧
    nextWith (exec (.blease 8 3 4 0 0) (onCur s fun x => { x with waiting := some (.blease 8) })) (fun t => (curCtx t).pc == 0x10000000#64) ∧
    nextWith (exec (.blease 8 3 4 0 0) s) (fun t => trapped t 12 8) ∧
    [5, 6].all (fun b => nextWith (exec (.blease 8 3 b 0 0) none_) fun t => trapped t 1 (natW (Instr.blease 8 3 b 0 0).word)) ∧
    nextWith (exec (.bfree 8 0) s) (fun t => t.leases == []) ∧ nextWith (exec (.bfree 7 0) s) (fun t => trapped t 12 7) := by decide +kernel

theorem wit_ScalarFloatingPoint :
    let s := wr_ [dat 1 0x3F800000, dat 2 0xBF800000, dat 3 0x7FC00000, dat 4 0xC1E00000, dat 5 0x3FF0000000000000]
    (issues s [1, 2] [6] false ∧ legal (.fcvt 6 4 2 1 16 0) = true) ∧
    nextWith (exec (.fadd 6 1 2 12 0) s) (fun t => settled (curCtx t) 6 == dataReg 0) ∧
    nextWith (exec (.fset 6 1 3 12 0) s) (fun t => settled (curCtx t) 6 == dataReg 8) ∧
    nextWith (exec (.fset 6 2 1 12 0) s) (fun t => settled (curCtx t) 6 == dataReg 1) ∧
    nextWith (exec (.fcvt 6 4 2 1 16 0) s) (fun t => settled (curCtx t) 6 == dataReg (-28)) ∧
    nextWith (exec (.fmul 6 5 5 13 0) s) (fun t => readReg (curCtx t) 6 == regNull && settled (curCtx t) 6 == dataReg 0x3FF0000000000000) := by decide +kernel

/-- A map image: cursor of own cell memory, format, extents and strides. -/
def wMap (off fmt : Nat) (ext : List Nat) (str : List Nat) : MapReg :=
  ⟨BitVec.ofNat 512 (capWithAddr capCell.bits (0xD000000000000000 + natW off)).toNat ||| BitVec.ofNat 512 (fmt * 2 ^ 480 + ext.length * 2 ^ 488 +
    ((List.range ext.length).map fun k => ext.getD k 0 * 2 ^ (128 + 16 * k) + str.getD k 0 * 2 ^ (192 + 64 * k)).sum), true, tagNone⟩

/-- `w0` with a shape of one row of two, vector registers and own cell memory. -/
def wVec : State :=
  let s := onCur (wr_ [dat 1 2, dat 2 5, dat 3 64, cap 4 capCell 0xD000000000000040, dat 5 65]) fun x => { x with
    shape := 0x10
    v := vecSet (vecSet (vecSet x.v 1 ⟨tagNone, [BitVec.ofNat 4096 (0x3F800000 + 2 ^ 32 * 0x40000000)]⟩) 2 ⟨tagNone, [BitVec.ofNat 4096 1]⟩) 3 ⟨tagNone, [BitVec.ofNat 4096 (2 ^ 32)]⟩
    m := vecSet (vecSet (vecSet (vecSet x.m 1 (wMap 0 12 [2] [4])) 2 (wMap 0 0 [32] [0])) 3 (wMap 0x100000 12 [2] [4])) 4 { wMap 0 12 [2] [4] with lift := ⟨2, 0, 0⟩ } }
  onCore s 0 fun k => { k with cell := memWrites [] 0 [0, 0, 0x80, 0x3F, 0, 0, 0, 0x40] }

/-- `wVec` inside a lift of two instances, both active. -/
def wLift : State := onCur wVec fun x => { x with ldepth := 1, lframe := ⟨2, 0, 0⟩, lmask := 3, masks := [BitVec.allOnes 64] }

theorem wit_LiftsShapesAndConditions :
    let deep := onCur wLift fun x => { x with ldepth := 3, lframe := ⟨2, 1, 1⟩ }
    let drain := onCore wVec 0 fun k => { k with bindDrain := [0] }
    (issues wVec [1, 2] [] false ∧ issues wVec [] [6] true ∧ dispatches wVec = true ∧ (∀ q ∈ (curCore wVec).ctxs, q.1 ≠ 0 → q.2.ldepth = 0) ∧ dispatches drain = false) ∧
    nextWith (exec (.lift 3 2 0) wVec) (fun t => (curCtx t).ldepth == 1 && (curCtx t).lframe == ⟨64, 0, 0⟩ && (curCtx t).lmask == -1 && (vecGet (curCtx t).m 2 mapRegReset).lift == ⟨64, 0, 0⟩) ∧
    nextWith (exec (.lift 5 0 0) wVec) (fun t => trapped t 9 65) ∧ nextWith (exec (.lift 0 0 0) wVec) (fun t => trapped t 1 (natW (Instr.lift 0 0 0).word)) ∧
    nextWith (exec (.lift 1 0 0) deep) (fun t => trapped t 9 (2 + 2 ^ 8 + 2 ^ 16 + 2 ^ 25)) ∧
    nextWith (exec (.lret 0) wLift) (fun t => (curCtx t).ldepth == 0 && (curCtx t).lmask == -1 && (vecGet (curCtx t).m 4 mapRegReset).lift == tagNone) ∧
    nextWith (exec (.lret 0) wVec) (fun t => trapped t 1 (natW (Instr.lret 0).word)) ∧
    nextWith (exec (.vshape 15 7 0 12 0) wVec) (fun t => (curCtx t).shape == 0x7F#10) ∧
    nextWith (exec (.lidx 9 1 16 0) wLift) (fun t => (vecGet (curCtx t).v 9 vregReset).copies.map BitVec.toNat == [0, 2 ^ 32 + 1]) ∧
    nextWith (exec (.lidx 9 2 16 0) wLift) (fun t => trapped t 1 (natW (Instr.lidx 9 2 16 0).word)) ∧
    (badLevel (curCtx wLift).lframe (vecGet (curCtx wLift).v 2 vregReset).tag = none ∧
      nextWith (exec (.lany 6 2 16 0) wLift) (fun t => settled (curCtx t) 6 == dataReg 3) ∧ nextWith (exec (.lall 6 4 16 0) wLift) (fun t => settled (curCtx t) 6 == dataReg 0)) := by decide +kernel

theorem wit_VectorInstructions :
    let tagged := onCur wVec fun x => { x with v := vecSet x.v 1 ⟨⟨2, 0, 0⟩, [0, 0]⟩ }
    let wide := onCur wVec fun x => { x with shape := 0x3F7 }
    (issues wVec [] [] true ∧ dispatches wVec = true ∧ tagFault (curCtx wVec).lframe (tagsOf (curCtx wVec) [1, 2]) = none) ∧
    okWith (overVec 9 [1, 2] (fun c old r => (c.getD 0 0 + old, r)) wVec) (fun _ t => (vecGet (curCtx t).v 9 vregReset).copies.map BitVec.toNat == [0x3F800000 + 2 ^ 32 * 0x40000000]) ∧
    nextWith (exec (.vadd 9 0 1 0 1 0 12 0) wVec) (fun t => (vecGet (curCtx t).v 9 vregReset).copies.map BitVec.toNat == [0x40000000 + 2 ^ 32 * 0x40800000]) ∧
    nextWith (exec (.vadd 9 0 1 0 2 1 16 0) wLift) (fun t => (vecGet (curCtx t).v 9 vregReset).copies.map BitVec.toNat == [0x3F800001 + 2 ^ 32 * 0x40000000]) ∧
    nextWith (exec (.vadd 9 0 1 0 2 0 12 0) tagged) (fun t => trapped t 9 2) ∧
    nextWith (exec (.vadd 9 0 1 0 2 0 12 0) wide) (fun t => trapped t 1 (natW (Instr.vadd 9 0 1 0 2 0 12 0).word)) ∧
    nextWith (exec (.vshl 9 2 3 1 16 0) wVec) (fun t => (vecGet (curCtx t).v 9 vregReset).copies.map BitVec.toNat == [1]) ∧
    nextWith (exec (.vqnt 9 0 1 0 8 0 3 0) (onCur wVec fun x => { x with shape := 0x0F1 })) (fun t => (curCtx t).pc == 0x10000004#64) ∧
    nextWith (exec (.vqnt 9 0 1 0 8 0 3 0) wVec) (fun t => trapped t 1 (natW (Instr.vqnt 9 0 1 0 8 0 3 0).word)) ∧
    nextWith (exec (.vred 9 0 1 0 0 2 12 0) wVec) (fun t => (vecGet (curCtx t).v 9 vregReset).copies.map (fun c => c.toNat % 2 ^ 32) == [0x40400000]) ∧
    nextWith (exec (.vscan 9 0 1 0 3 0 12 0) wVec) (fun t => (vecGet (curCtx t).v 9 vregReset).copies.map BitVec.toNat == [0x3F800000 + 2 ^ 32 * 0x40000000]) ∧
    nextWith (exec (.vtrn 9 1 12 0) wVec) (fun t => (vecGet (curCtx t).v 9 vregReset).copies.map BitVec.toNat == [0x3F800000 + 2 ^ 32 * 0x40000000]) ∧
    nextWith (exec (.vbcst 9 2 16 0) wVec) (fun t => (vecGet (curCtx t).v 9 vregReset).copies.map BitVec.toNat == [5 + 2 ^ 32 * 5]) ∧
    nextWith (exec (.vbcst 9 2 16 0) wide) (fun t => trapped t 1 (natW (Instr.vbcst 9 2 16 0).word)) := by decide +kernel

theorem wit_MapsPlaceAndGather :
    let q := wMap 0 12 [2] [4]
    let four := wMap 0 3 [2, 3, 4, 5] [1, 2, 3, 4]
    let s := onCur wVec fun x => { x with v := vecSet x.v 5 ⟨tagNone, [BitVec.ofNat 4096 (2 * 2 ^ 32)]⟩ }
    (1 ≤ mapNdim four ∧ mapNdim four ≤ 4 ∧ (∀ k, k < mapNdim four → 0 < mapExt four k) ∧ elemIdx four 64 0 63 = [1, 1, 2, 2]) ∧
    (issues wVec [] [] true ∧ mapNdim q = 1 ∧ mapFmt q = 12 ∧ mapExt q 0 ≠ 0 ∧ tagFault (curCtx wVec).lframe [tagNone, tagNone] = none ∧ activeOver (curCtx wVec) tagNone = [0]) ∧
    nextWith (exec (.vgath 9 2 1 12 0) wVec) (fun t => (vecGet (curCtx t).v 9 vregReset).copies.map BitVec.toNat == [0x40000000 + 2 ^ 32 * 0x3F800000]) ∧
    nextWith (exec (.vgath 9 5 1 12 0) s) (fun t => trapped t 5 0xD000000000000008) ∧
    nextWith (exec (.vgath 9 2 1 10 0) wVec) (fun t => trapped t 1 (natW (Instr.vgath 9 2 1 10 0).word)) := by decide +kernel

theorem wit_VectorAndImageLoads :
    let q := vecGet (curCtx wVec).m 1 mapRegReset
    let img := onCore wVec 0 fun k => { k with cell := memWrites k.cell 0x40 [1], tags := [4] }
    let st := onCur wVec fun x => { x with s := vecSet (vecSet x.s 7 (some ⟨0, 8, 2, 1, 2⟩)) 0 (some ⟨0, 8, 2, 2, 2⟩) }
    (mapNdim q = 1 ∧ mapFmt q = 12 ∧ mapExt q 0 = 2 ∧ elemIdx q 2 0 1 = [1] ∧ badLevel (curCtx wVec).lframe q.lift = none ∧ issues wVec [] [] false ∧ ownStores wVec = [] ∧ direct wVec) ∧
    (okWith (readGroup q 1 [(0xD000000000000000, 0, 4)] wVec) (fun v z => v == [0x3F800000] && z == wVec) ∧
      okWith (readGroup q 1 [(0xD000000000000004, 0, 4)] wVec) (fun v z => v == [0x40000000] && z == wVec) ∧ (curCtx wVec).waiting = none ∧ (curCtx wVec).pause = none) ∧
    nextWith (exec (.ldv 9 1 0) wVec) (fun t => (vecGet (curCtx t).v 9 vregReset).copies.map BitVec.toNat == [0x3F800000 + 2 ^ 32 * 0x40000000]) ∧
    nextWith (exec (.ldv 9 3 0) wVec) (fun t => trapped t 5 0xD000000000100000) ∧
    nextWith (exec (.ldv 9 0 0) wVec) (fun t => trapped t 1 (natW (Instr.ldv 9 0 0).word)) ∧
    nextWith (exec (.ldv 9 4 0) wVec) (fun t => trapped t 9 2) ∧
    okWith (access (readReg (curCtx img) 4) 4 0xD000000000000040 64 accLoad img) (fun p z => p == (.cell 0 0x40, true) && (okWith (readImage p.1 4 0 z) fun l u => l.length == 64 && okWith (loadTagShared p.1 u) fun g v => g && v == img)) ∧
    nextWith (exec (.ldvImg 4 9 0) img) (fun t => vecGet (curCtx t).m 9 mapRegReset == ⟨1, true, tagNone⟩) ∧
    nextWith (exec (.ldvStream 9 7 12 0) st) (fun t => (vecGet (curCtx t).v 9 vregReset).copies.map BitVec.toNat == [0x40000000] && vecGet (curCtx t).s 7 none == some ⟨0, 8, 2, 2, 2⟩) ∧
    nextWith (exec (.ldvStream 9 0 12 0) st) (fun t => (curCtx t).pc == 0x10000000#64) ∧
    nextWith (exec (.ldvStream 9 1 12 0) st) (fun t => trapped t 1 (natW (Instr.ldvStream 9 1 12 0).word)) := by decide +kernel

theorem wit_VectorStores :
    let q := vecGet (curCtx wVec).m 1 mapRegReset
    (direct wVec ∧ unpaired wVec ∧ (curCore wVec).tail = none ∧ (curCtx wVec).waiting = none ∧ issues wVec [] [] false ∧ issues wVec [4] [] false) ∧
    okWith (checkElem q 1 (accStore false) (elemAccesses 12 (0xD000000000000004, 0, 4)) wVec) (fun l z => l == [(0xD000000000000004, .cell 0 4)] && z == wVec) ∧
    nextWith (exec (.stv 1 1 0) wVec) (fun t => (curCore t).buf.map (·.kind) == [.store (.cell 0 0) [0, 0, 0x80, 0x3F] none none, .store (.cell 0 4) [0, 0, 0, 0x40] none none]) ∧
    nextWith (exec (.stv 3 2 0) wVec) (fun t => (curCore t).buf.map (·.kind) == [.patch (.cell 0 0) [(0x00, 0x00)]]) ∧
    nextWith (exec (.stv 1 0 0) wVec) (fun t => trapped t 1 (natW (Instr.stv 1 0 0).word)) ∧
    nextWith (exec (.stvImg 4 0 0) wVec) (fun t => (curCore t).buf.length == 7) ∧
    nextWith (exec (.stvImg 4 4 0) wVec) (fun t => trapped t 1 (natW (Instr.stvImg 4 4 0).word)) := by decide +kernel

theorem ok_of_toOption {ε α : Type} {x : Except ε α} {a : α} (h : x.toOption = some a) : x = .ok a := by
  cases x <;> simp_all [Except.toOption]

/-- The reads that VGATH and LDV ask for, whatever their destination has taken and however far they have come by then. -/
theorem wit_MapReads (v : Vector VReg 16) (p : Option Wait) (g : Bool) (k : Nat) (h : k < 2) :
    let q := vecGet (curCtx wVec).m 1 mapRegReset
    let z := onCur (bodyState [] true wVec) fun x => { x with v := v, waiting := p, gathering := g }
    let a := 0xD000000000000000 + BitVec.ofNat 64 (4 * k)
    let l := (List.range 2).map fun l => (0xD000000000000000 + BitVec.ofNat 64 (4 * l), 0, 4)
    (tieGroups 12 l)[k]? = some [(a, 0, 4)] ∧ readGroup q 1 [(a, 0, 4)] z = .ok [if k = 0 then 0x3F800000 else 0x40000000] z ∧
    ∃ p b, checkElem q 1 accLoad (elemAccesses 12 (a, 0, 4)) z = .ok p z ∧ readPlaces 4 false p z = .ok b z ∧
      ofBytes b = if k = 0 then 0x3F800000 else 0x40000000 := by
  have key : ∀ k, k < 2 → (checkCap (bodyState [] true wVec) (bodyState [] true wVec).cur.core (mapBase (vecGet (curCtx wVec).m 1 mapRegReset)) 1
        (0xD000000000000000 + BitVec.ofNat 64 (4 * k)) 4 accLoad).toOption = some (.cell (coreNum (bodyState [] true wVec) (bodyState [] true wVec).cur.core) (4 * k)) ∧
      ofBytes (memReads (curCore (bodyState [] true wVec)).cell (4 * k) 4) = if k = 0 then 0x3F800000 else 0x40000000 := by decide +kernel
  have hl : ∀ k, k < 2 → (tieGroups 12 ((List.range 2).map fun l => (0xD000000000000000 + BitVec.ofNat 64 (4 * l), 0, 4)))[k]? =
      some [(0xD000000000000000 + BitVec.ofNat 64 (4 * k), 0, 4)] := by decide +kernel
  have hs : isSpec (curCtx (bodyState [] true wVec)) = false := by decide +kernel
  have ho : ownStores (bodyState [] true wVec) = [] := by decide +kernel
  have ht : (curCore (bodyState [] true wVec)).twin = none := by decide +kernel
  have hc : (bodyState [] true wVec).cur.core < 1024 := by decide +kernel
  have hf : mapFmt (vecGet (curCtx wVec).m 1 mapRegReset) = 12 := by decide +kernel
  generalize bodyState [] true wVec = b at *
  generalize vecGet (curCtx wVec).m 1 mapRegReset = q at *
  intro q z a l
  have hb : (curCore z).cell = (curCore b).cell := by simp [z]
  have hp : isPacked (mapFmt q) = false := by rw [hf]; rfl
  have h4 : typeBits (mapFmt q) / 8 = 4 := by rw [hf]; rfl
  have := readGroup_own (s := z) (q := q) (r := 1) (a := a) (o := 4 * k) hp (by simpa [z] using ht) hc (by simpa [z, isSpec] using hs)
    (by rw [ownStores_onCur (by rfl) (by rfl)]; exact ho) (by rw [h4, checkCap_onCur]; exact ok_of_toOption (key k h).1)
  rw [h4, hb, hf] at this
  refine ⟨hl k h, ?_, _, _, this.1, this.2.1, (key k h).2⟩
  rw [this.2.2, (key k h).2]
  split <;> rfl

/-- `wVec` with the wing of site 0 bound by the front of site 1 too. -/
def wTwo : State := putFront wVec 1 { getFront wVec 1 with bind := 0x300 }

/-- `wTwo` with the matrix lease of site 0 held under `n` instructions, and requests. -/
def wHeld (f : Sender) (n : Nat) (wait : List Sender) : State := onWing wTwo 0 fun w => { w with lease := some ⟨f, n⟩, leaseWait := wait }

theorem wit_MatrixLeasesAreHeld :
    let me : Sender := ⟨0, 0, 0⟩
    let other : Sender := ⟨1, 0, 0⟩
    let asks := fun s => onCur s fun x => { x with waiting := some .mlease }
    let free := onWing (onCtx wTwo ⟨1, 0⟩ fun x => { x with status := .live }) 0 fun w => { w with leaseWait := [other, me] }
    (direct wTwo ∧ unpaired wTwo ∧ issues wTwo [] [] true ∧ dispatches wTwo = true ∧ members wTwo 0 = [0] ∧ isShared wTwo 0 = true ∧ isShared wVec 0 = false) ∧
    (findSender free other = some ⟨1, 0⟩ ∧ findSender free me = some ⟨0, 0⟩ ∧ frontCode 0 (siteOf free 0) = 4 ∧ frontCode 0 (siteOf free 1) = 5 ∧ (getWing free 0).leasePtr = 8) ∧
    nextWith (exec (.mlease 0) wVec) (fun t => (curCtx t).pc == 0x10000004#64) ∧
    nextWith (exec (.mlease 0) (asks (wHeld me 1 []))) (fun t => (curCtx t).pc == 0x10000004#64) ∧
    nextWith (exec (.mlease 0) (wHeld me 1 [])) (fun t => trapped t 1 0xC03) ∧
    nextWith (exec (.mlease 0) wTwo) (fun t => (curCtx t).waiting == some .mlease && (getWing t 0).leaseWait == [me] && (getWing t 0).lease == none) ∧
    nextWith (exec (.mlease 0) (wHeld other 1 [])) (fun t => (getWing t 0).leaseWait == [me] && (getWing t 0).lease == some ⟨other, 1⟩) ∧
    nextWith (exec (.mrel 0) (wHeld me 1 [])) (fun t => (getWing t 0).lease == none) ∧
    nextWith (exec (.mrel 0) (wHeld other 1 [])) (fun t => (getWing t 0).lease == some ⟨other, 1⟩) ∧
    nextWith (exec (.matrixLeaseGrant 0) free) (fun t => (getWing t 0).lease == some ⟨me, 0⟩ && (getWing t 0).leasePtr == 4 && (getWing t 0).leaseWait == [other]) ∧
    nextWith (exec (.matrixLeaseGrant 0) (onWing free 0 fun w => { w with leasePtr := 4 })) (fun t => (getWing t 0).lease == some ⟨other, 0⟩) ∧
    nextWith (exec (.matrixLeaseCountEnd 0) (wHeld me 64 [])) (fun t => (getWing t 0).lease == none) ∧
    nextWith (exec (.matrixLeaseCountEnd 0) (wHeld me 63 [])) (fun t => t == wHeld me 63 []) ∧
    nextWith (exec (.matrixLeaseIdleTimeout 0) (wHeld me 1 [])) (fun t => (getWing t 0).lease == none) ∧
    nextWith (exec (.matrixLeaseIdleTimeout 0) (onCore (wHeld me 1 []) 0 fun k => { k with marks := [⟨me, 0, true, true⟩] })) (fun t => (getWing t 0).lease == some ⟨me, 1⟩) := by decide +kernel

/-- 1 + 2 * 31, the clamp at the top, and a NaN. -/
theorem wit_ElementsAccumulate :
    let one := List.replicate 32 (ofInt 1)
    let a := ofInt 2 :: List.replicate 31 (ofInt 1)
    accElem true 0 a one 5 = (38, false, false) ∧ accElem true (-1) a one 0 = (66, false, false) ∧
    accElem true 0 a one 0x7FFFFFFFFFFFFFFF = (0x7FFFFFFFFFFFFFFF, true, false) ∧ accElem true 0 (.nan :: List.replicate 31 (ofInt 1)) one 5 = (5, false, true) ∧
    accElem false 0 a one 0x3FF0000000000000 = (0x4041000000000000, false, false) ∧
    (accElem false 0 (.nan :: List.replicate 31 (ofInt 1)) one 0).2 = (false, true) := by decide +kernel

/-- Two operands of 32 rows of K = 32 FP32 elements in own cell memory: 1 and then zeros, 2 and then zeros. -/
def wMat : State :=
  let s := onCur wVec fun x => { x with m := vecSet (vecSet (vecSet x.m 5 (wMap 0x1000 12 [32, 32] [4, 128])) 6 (wMap 0x2000 12 [32, 32] [4, 128])) 7 (wMap 0x3000 5 [128, 32] [1, 128]) }
  onCore s 0 fun k => { k with cell := memWrites (memWrites [] 0x1000 [0, 0, 0x80, 0x3F]) 0x2000 [0, 0, 0, 0x40] }

theorem wit_MatrixForms :
    let a := vecGet (curCtx wMat).m 5 mapRegReset
    let b := vecGet (curCtx wMat).m 6 mapRegReset
    let two := putFront wMat 1 { getFront wMat 1 with bind := 0x300 }
    (direct wMat ∧ unpaired wMat ∧ issues wMat [] [] true ∧ dispatches wMat = true ∧ (curCtx wMat).resuming = 0 ∧ (curCtx wMat).waiting = none ∧ (curCtx wMat).doing = none ∧ matrixBusy wMat [0] = false) ∧
    (mapBad a = false ∧ mapNdim a = 2 ∧ mapFmt a = 12 ∧ kOf 12 = 32 ∧ mapExt a 0 = 32 ∧ mapExt a 1 = 32 ∧ baseBad wMat a (opBase a 0) 32 = false ∧
      baseBad wMat b (opBase b 0) 32 = false ∧ activeOver (curCtx wMat) tagNone = [0] ∧ accTiles wMat 0 3 0 false = [(0, 3)] ∧ isShared wMat 0 = false) ∧
    nextWith (exec (.mma 3 5 7 0) wMat) (fun t => trapped t 1 (natW (Instr.mma 3 5 7 0).word)) ∧
    nextWith (exec (.mmas 3 0 5 6 0 0) wMat) (fun t => trapped t 1 (natW (Instr.mmas 3 0 5 6 0 0).word)) ∧
    nextWith (exec (.mma 3 5 6 0) two) (fun t => trapped t 12 0) := by decide +kernel

/-- 0 + 1 * 2 in the first element. -/
theorem wit_MatrixProducts :
    nextWith (exec (.mma 3 5 6 0) wMat) (fun t => (curCtx t).pc == 0x10000004#64 && mapGetD (getTile t (0, 3)).els 0 0 == 0x4000000000000000#64) := by decide +kernel

theorem wit_AccumulatorsAndPins :
    let tile : Tile := ⟨[(0, 7), (33, 9)], true, false, tagNone⟩
    let s := onCur (putTile wVec (0, 2) tile) fun x => { x with c := vecSet (vecSet x.c 6 (dataReg 0x800)) 7 (dataReg 0x400) }
    let two := putFront s 1 { getFront s 1 with bind := 0x300 }
    let far := onCur wMat fun x => { x with m := vecSet x.m 5 ⟨BitVec.ofNat 512 ((capWithAddr (capRoot 0b110110 0 0x1800000 0).bits 0x100000).toNat + 12 * 2 ^ 480 + 2 * 2 ^ 488 + 32 * 2 ^ 128 + 32 * 2 ^ 144 + 128 * 2 ^ 256), true, tagNone⟩ }
    (direct s ∧ unpaired s ∧ issues s [] [] true ∧ issues s [6] [] true ∧ dispatches s = true ∧ matrixBusy s [0] = false ∧ legal (.mrda 9 2 6 16 0) = true ∧ legal (.mwra 2 3 7 16 0) = true) ∧
    nextWith (exec (.mzero 2 0) s) (fun t => getTile t (0, 2) == tileReset && getTile t (0, 3) == getTile s (0, 3)) ∧
    nextWith (exec (.mzero 2 0) two) (fun t => trapped t 12 0) ∧
    nextWith (exec (.mrda 9 2 0 16 0) s) (fun t => (vecGet (curCtx t).v 9 vregReset).copies == [7] && (getTile t (0, 2)).ov) ∧
    nextWith (exec (.mrda 9 2 6 16 0) s) (fun t => !(getTile t (0, 2)).ov) ∧
    nextWith (exec (.mrda 9 2 7 16 0) s) (fun t => (vecGet (curCtx t).v 9 vregReset).copies == [1]) ∧
    nextWith (exec (.mrda 9 2 5 16 0) s) (fun t => trapped t 1 (natW (Instr.mrda 9 2 5 16 0).word)) ∧
    nextWith (exec (.mwra 2 3 0 16 0) s) (fun t => (getTile t (0, 2)).els == [(1, 1), (33, 9)] && (getTile t (0, 2)).ov) ∧
    nextWith (exec (.mwra 2 2 7 16 0) s) (fun t => (getTile t (0, 2)).els == tile.els && (getTile t (0, 2)).ov && !(getTile t (0, 2)).nv) ∧
    nextWith (exec (.tunpin 3 0) (onWing s 0 fun w => { w with pins := [(3, [1])] })) (fun t => (getWing t 0).pins == []) ∧
    nextWith (exec (.tfetch 3 1 4 0) s) (fun t => trapped t 1 (natW (Instr.tfetch 3 1 4 0).word)) ∧
    nextWith (exec (.tfetch 3 5 4 0) far) (fun t => (curCtx t).pc == 0x10000004#64 && (vecGet (curCtx t).k 4 tokenReset).count == 1) := by decide +kernel

/-- A field descriptor: row and width, for one sub-array. -/
def field (row width : Nat) : Nat := row + (width - 1) * 512

/-- A wing whose column 0 holds 200 at row 16 and 100 at row 24, each of eight rows. -/
def wCols : Wing := { wingReset with rows := [(19, 1), (22, 1), (23, 1), (26, 1), (29, 1), (30, 1)] }

/-- Registers with fields, and a map of 1,024 bytes in own cell memory. -/
def wArr : State :=
  let s := onCur (wr_ [dat 1 (natW (field 8 8)), dat 2 (natW (field 16 8)), dat 3 (natW (field 24 8)), dat 4 (natW (field 505 8)), dat 5 (natW (field 8 16 + 16384)),
    dat 6 (natW (field 8 1)), dat 7 (natW (field 8 24 + 16384)), dat 8 (natW (field 16 16 + 16384))]) fun x => { x with
    m := vecSet (vecSet x.m 1 (wMap 0 15 [512] [1])) 2 { wMap 0 15 [512] [1] with img := (wMap 0 15 [512] [1]).img + 2 ^ 32 } }
  onWing s 0 fun _ => wCols

theorem wit_ArrayOperationsAreIssued :
    let one : List Instr := [.bpadd 1 2 3 1 0, .bpsub 1 2 3 0 0, .bpmul 1 2 3 0 0, .bpcopy 1 2 0 0, .bpand 1 2 3 4 0, .bpcmp 6 2 3 5 0, .bpset 1 3 0, .bpdecay 5 0,
      .trstep 5 6 8 0, .bpmacc 7 8 1 0, .bprow 1 2 3 6 0 0, .bprow 6 2 3 7 1 0]
    let ill : List Instr := [.bpadd 4 2 3 1 0, .bpand 1 2 6 4 0, .bpcmp 1 2 3 5 0, .bpsel 1 2 3 0, .bpset 4 3 0, .bpdecay 1 0, .trstep 5 2 8 0, .bpmacc 1 8 1 0,
      .bprow 1 2 3 7 1 0]
    let wait := fun w => onCur wArr fun x => { x with waiting := some w }
    let busy := onCore wArr 0 fun k => { k with nextOp := 3, ops := [⟨2, ⟨0, 0, 0⟩, .bpset 1 3 0, 0, 0, 0, mapRegReset, [{ wing := [0] }], true, [], [], false⟩] }
    (direct wArr ∧ unpaired wArr ∧ dispatches wArr = true ∧ issues wArr [1, 2, 3] [] true ∧ issues wArr [] [] true) ∧
    one.all (fun i => legal i && nextWith (exec i wArr) fun t => (curCtx t).pc == 0x10000004#64 && (curCore t).ops.map (fun o => (o.id, o.parts.map (·.wing))) == [(0, [[0]])]) ∧
    ill.all (fun i => nextWith (exec i wArr) fun t => trapped t 1 (natW i.word)) ∧
    nextWith (exec (.bpsel 1 2 3 0) (onCur wArr fun x => { x with c := vecSet x.c 1 (dataReg (natW (field 8 8 + 2 ^ 28))) })) (fun t => (curCore t).ops.length == 1) ∧
    nextWith (exec (.bpld 1 1 0 0 0) wArr) (fun t => (curCtx t).pc == 0x10000000#64 && (curCtx t).waiting == some (.array 0) && (curCore t).ops.map (·.checked) == [false]) ∧
    nextWith (exec (.bpst 1 1 0 0) wArr) (fun t => (curCtx t).waiting == some (.array 0) && (curCore t).buf.length == 8) ∧
    nextWith (exec (.bpld 1 2 0 0 0) wArr) (fun t => trapped t 7 0xD000000100000000) ∧
    nextWith (exec (.bpst 1 2 0 0) wArr) (fun t => trapped t 1 (natW (Instr.bpst 1 2 0 0).word)) ∧
    nextWith (exec (.bpld 1 3 0 0 0) wArr) (fun t => trapped t 1 (natW (Instr.bpld 1 3 0 0 0).word)) ∧
    nextWith (exec (.bpld 1 1 0 0 0) (wait (.arrayOk 0))) (fun t => (curCtx t).pc == 0x10000004#64) ∧
    nextWith (exec (.bpld 1 1 0 0 0) (wait (.arrayFault ⟨5, false, 9⟩))) (fun t => trapped t 5 9) ∧
    nextWith (exec (.bpld 1 1 0 0 0) (wait (.array 0))) (fun t => (curCtx t).pc == 0x10000000#64 && (curCtx t).waiting == some (.array 0) && (curCtx t).stalled) ∧
    nextWith (exec (.bpsync 0) wArr) (fun t => (curCtx t).pc == 0x10000004#64) ∧
    nextWith (exec (.bpsync 0) busy) (fun t => (curCtx t).waiting == some (.bpsync 3)) ∧
    colAddr (vecGet (curCtx wArr).m 1 mapRegReset) 1 0 511 = 0xD0000000000001FF := by decide +kernel

/-- Column 0 of rows `row` onward. -/
def colOf (w : Wing) (row n : Nat) : Nat := ((List.range n).map fun k => if (rowGet w 0 (row + k)).getLsbD 0 then 2 ^ k else 0).sum

/-- 200 and 100 in eight bits; 25,800 fades by a half and then takes 100; minus half of 100 rounds to -50. -/
theorem wit_ArrayRowsCompute :
    let op := fun i d a b => (⟨0, ⟨0, 0, 0⟩, i, natW d, natW a, natW b, mapRegReset, [], true, [], [], false⟩ : ArrayOp)
    let run := fun i d a b n => colOf (subArrayOp (op i d a b) (arrayKind i |>.getD .logic) wCols wCols 0 0 0 n true true (rowOf (colActive wCols 0 (natW d))) 0 0) 8 n
    let res := fun i d a b => colResult i (natW d) (natW a) (natW b) wCols 0 0 0
    (mapSorted wCols.rows = true ∧ mapSorted wCols.latch = true) ∧
    res (.bpadd 1 2 3 1 0) (field 8 8) (field 16 8) (field 24 8) = (255, true) ∧ res (.bpadd 1 2 3 0 0) (field 8 8) (field 16 8) (field 24 8) = (300, false) ∧
    res (.bpsub 1 2 3 0 0) (field 8 8) (field 24 8) (field 16 8) = (-100, false) ∧ res (.bpmul 1 2 3 1 0) (field 8 16) (field 16 8) (field 24 8) = (20000, false) ∧
    res (.bpcopy 1 2 0 0) (field 8 8) (field 16 8) 0 = (200, false) ∧ res (.bpand 1 2 3 4 0) (field 8 8) (field 16 8) (field 24 8) = (136, false) ∧
    res (.bpsel 1 2 3 0) (field 8 8 + 2 ^ 28 + 19 * 2 ^ 29) (field 16 8) (field 24 8) = (200, false) ∧
    res (.bpsel 1 2 3 0) (field 8 8 + 2 ^ 28 + 20 * 2 ^ 29) (field 16 8) (field 24 8) = (100, false) ∧ res (.bpset 1 3 0) (field 8 8) 0 7 = (7, false) ∧
    res (.bpdecay 1 0) (field 16 16 + 16384 + 2 ^ 47) 0 0 = (12900, false) ∧
    res (.trstep 1 2 3 0) (field 16 16 + 16384 + 2 ^ 47) (field 19 1) (field 24 16 + 16384) = (13000, false) ∧
    res (.bpmacc 1 2 3 0) (field 32 24 + 16384) (field 24 16 + 16384) (0xFFFF + 2 ^ 16) = (-50, false) ∧
    run (.bpcmp 1 2 3 5 0) (field 8 1) (field 16 8) (field 24 8) 1 = 1 ∧
    run (.bprow 1 2 3 3 0 0) (field 8 8) 16 24 8 = 172 ∧ run (.bprow 1 2 3 4 0 0) (field 8 8) 16 24 8 = 44 := by decide +kernel

theorem wit_RegistersBindingsAndTranslations :
    let s := wr_ [dat 1 0, dat 2 (2 ^ 63), dat 3 15, dat 4 16, dat 5 14]
    let b := fun (v : W64) => onCur s fun x => { x with c := vecSet x.c 1 (dataReg v) }
    let bind := fun (f : State → State) v (r : W64) => nextWith (exec (.bind 1 0) (f (b v))) fun t => trapped t 13 r && getFront t 0 == getFront (f (b v)) 0
    let put := fun (l : List (Nat × W64)) s => l.foldl (fun s p => putFront s p.1 { getFront s p.1 with bind := p.2 }) s
    let help := fun s => { onCtx s ⟨0, 1⟩ (fun _ => curCtx s) with cur := ⟨0, 1⟩ }
    let busy := onCore (b 0x401) 0 fun k => { k with marks := [⟨⟨0, 0, 0⟩, 0, false, false⟩] }
    let hot := putCluster (putFront s 0 { getFront s 0 with tlb := [⟨15, 0, 2 ^ 30, 0, 0⟩, ⟨14, 0, 2 ^ 30, 0, 0⟩] }) 0 { clusterReset with tlb := [⟨15, 2 ^ 30, 2 ^ 30, 0, 0⟩] }
    let ready := onCur s fun x => { x with waiting := some (.tlbi [] 0 []) }
    (unpaired s ∧ mapSorted (curCore s).bfmt = true ∧ issues s [1] [] false ∧ issues s [] [6] false ∧ direct s ∧ (curCore s).marks = [] ∧ (curCore s).ops = []) ∧
    nextWith (exec (.csrr 6 0x0A 0) s) (fun t => settled (curCtx t) 6 == dataReg 0x1000400) ∧
    nextWith (exec (.csrr 6 0x2F 0) s) (fun t => settled (curCtx t) 6 == dataReg 15) ∧
    legal (.csrr 6 0x19 0) = true ∧ legal (.csrr 6 0x1A 0) = false ∧ legal (.csrr 6 0x30 0) = false ∧
    nextWith (exec (.csrw 1 0x0E 0) s) (fun t => (curCtx t).rngs == 1#32) ∧
    nextWith (exec (.csrw 5 0x20 0) s) (fun t => (sysRead t 0x20).toNat == 15) ∧
    nextWith (exec (.csrw 1 0x18 0) { s with mg := { s.mg with mgcfg := true } }) (fun t => (sysRead t 0x18).toNat == 350) ∧
    nextWith (exec (.csrw 1 0x18 0) s) (fun t => (sysRead t 0x18).toNat == 850) ∧
    nextWith (exec (.bind 1 0) (b 0xFF00500)) (fun t => (getFront t 0).bind == 0xF00500#64) ∧
    nextWith (exec (.csrw 1 0x0A 0) (b 0x5402)) (fun t => (getFront t 0).bind == 0x5402#64) ∧
    bind id 4 1 ∧ bind id 0x900 2 ∧ bind id 0x000 2 ∧ bind id 0x4402 3 ∧ bind id 0x5401 4 ∧
    bind (put [(2, 0x300), (16, 0x200), (17, 0x100)]) 0x500 5 ∧ bind help 0x400 6 ∧
    bind (fun s => onCur s fun x => { x with ldepth := 1, lframe := ⟨2, 0, 0⟩ }) 0x400 7 ∧
    nextWith (exec (.bind 1 0) busy) (fun t => (curCore t).bindDrain == [0] && (curCtx t).pc == 0x10000000#64) ∧
    nextWith (exec (.tlbiAs 4 0) hot) (fun t => trapped t 1 (natW (Instr.tlbiAs 4 0).word)) ∧
    nextWith (exec (.tlbiAs 3 0) hot) (fun t => (getFront t 0).tlb.map (·.asid) == [14] && (getCluster t 0).tlb == []) ∧
    nextWith (exec (.tlbiVa 1 3 0) hot) (fun t => (getFront t 0).tlb.map (·.asid) == [14] && (getCluster t 0).tlb.length == 1) ∧
    nextWith (exec (.tlbiVa 2 3 0) hot) (fun t => trapped t 1 (natW (Instr.tlbiVa 2 3 0).word)) ∧
    (tlbiDone ready [] 0 [] = true ∧ heldVia ready none (fun _ => true) = false ∧ bufEmpty ready (senderOf ready ready.cur) = true) ∧
    nextWith (exec (.tlbiAll 0) hot) (fun t => (getFront t 0).tlb == [] && (curCtx t).waiting != none) ∧
    nextWith (exec (.tlbiAll 0) ready) (fun t => (curCtx t).pc == 0x10000004#64) := by decide +kernel

theorem wit_CoresPair :
    let s := onCore (wr_ [dat 1 3, dat 2 5000, dat 4 0]) 0 fun k => { k with cell := [(0x12, 7)] }
    let st := fun s a (n : Nat) => nextWith (exec (.twin 6 a 0) s) fun t => settled (curCtx t) 6 == dataReg (natW n) && (curCore t).twinState == 0#2
    let pair : Option Twin := some ⟨9, true, false, 0, 0, 0, 0, ⟨ctxReset 3 0, [], [], []⟩, [], [], [], 0, [], 0, false, []⟩
    (unpaired s ∧ issues s [1] [6] false ∧ legal (.twin 6 1 0) = true ∧ (curCore s).twinState ≠ 1) ∧
    st s 2 2 ∧ st s 4 2 ∧ st { s with coreTable := [(3, 0)] } 1 1 ∧ st (onCtx s ⟨3, 0⟩ fun x => { x with status := .live }) 1 1 ∧
    st { onCtx s ⟨0, 1⟩ (fun _ => curCtx s) with cur := ⟨0, 1⟩ } 1 3 ∧ st (onCtx s ⟨0, 1⟩ fun x => { x with status := .live }) 1 4 ∧
    st (onCore s 3 fun k => { k with twin := pair }) 1 5 ∧
    nextWith (exec (.twin 6 1 0) s) (fun t => settled (curCtx t) 6 == dataReg 0 && (getCore t 3).twinState == 1#2 && (getCore t 3).twinPartner == 0 && (getCore t 3).cell == [(0x12, 7)] &&
      (getCtx t ⟨3, 0⟩).pc == 0x10000004#64 && (curCore t).twinPartner == 3) := by decide +kernel

/-- The state that a step goes on to. -/
def after_ (r : Host.Outcome State Fault Refusal) : State :=
  match r with
  | .next t => t
  | _ => State.reset

/-- Queue 2 with a ring of 16 at 0x4000 whose first slot launches `n` cores from core 0. -/
def wRing (n : Nat) : State :=
  let s := putQueue State.reset 2 { queueReset with qbase := 0x4000, qsize := 4 }
  onMem s fun g => { g with hbm := memWrites [] 0x4000 (toBytes 0x10000000 8 ++ toBytes (n * 2 ^ 32) 8 ++ toBytes 0x2000 8) }

theorem wit_LaunchesRun :
    let one := after_ (exec (.qtailWrite 2 1) (wRing 4))
    let push := fun l => { wRing 0 with launchPushes := [⟨⟨7, 0, 0⟩, l⟩] }
    let good : List W64 := [0x10000000, 2 ^ 32 * 1024, 0x2000, 0, 0, 0, 0, 0]
    let drop := { putQueue State.reset 2 { queueReset with qsize := 4, qtail := 1, slots := [⟨good, 1, 0, some ⟨7, 0, 0⟩⟩] } with launchResults := [⟨⟨7, 0, 0⟩, 1, true⟩] }
    nextWith (exec (.qsizeWrite 2 16) drop) (fun t => t.launchResults == [⟨⟨7, 0, 0⟩, 1, false⟩]) ∧
    nextWith (exec .powerOn (wRing 4)) (fun t => t.queues == [] && t.nextLaunch == 1) ∧
    nextWith (exec (.registerWrite (.engine 0x80) 0xFFF) State.reset) (fun t => (getQueue t 2).qbase == 0xFC0#64) ∧
    nextWith (exec (.registerWrite (.engine 0x820) (-1)) State.reset) (fun t => engineRead t 0x820 == 0xFFFFFFFFFF001#64) ∧
    nextWith (exec (.registerWrite .capPeak 2000) State.reset) (fun t => t.mg.capPeak == 1000#11 && t.mg.capPeakHost == 1000#11) ∧
    nextWith (exec (.registerWrite (.pstate 63) 6) State.reset) (fun t => t == State.reset) ∧
    nextWith (exec (.registerWrite (.pstate 63) 5) State.reset) (fun t => (getCluster t 63).request == 5#3 && (getCluster t 63).requestHost == 5#3) ∧
    nextWith (exec (.registerWrite (.engine 0x3020) 0) { State.reset with mg := { State.reset.mg with mgcfg := true, capPeak := 400 } }) (fun t => t.mg.capPeak == 850#11 && !t.mg.mgcfg) ∧
    nextWith (exec (.registerWrite (.engine 0x3068) (2 ^ 33 + 9)) State.reset) (fun t => t.mg.pstat == 2#9) ∧
    nextWith (exec (.qsizeWrite 2 16) one) (fun t => (getQueue t 2).qsize == 16#5 && (getQueue t 2).slots == [] && (getQueue t 2).qhead == 1#32) ∧
    nextWith (exec (.qtailWrite 2 17) (wRing 4)) (fun t => (getQueue t 2).halted && (getQueue t 2).qstat == 5#40) ∧
    nextWith (exec (.qtailWrite 3 1) (wRing 4)) (fun t => (getQueue t 3).qtail == 1#32 && (getQueue t 3).slots == []) ∧
    ((getQueue one 2).slots.map (·.id) = [1] ∧ one.nextLaunch = 2) ∧
    nextWith (exec (.qtailWrite 2 1) (wRing 0)) (fun t => (getQueue t 2).qstat == 0x102#40 && (getQueue t 2).qhead == 1#32) ∧
    nextWith (exec (.qtailWrite 2 1) (wRing 1025)) (fun t => (getQueue t 2).qstat == 0x102#40) ∧
    nextWith (exec (.e15LaunchPush 0) (push good)) (fun t => t.launchResults == [⟨⟨7, 0, 0⟩, 1, true⟩] && (getQueue t 2).qtail == 1#32) ∧
    nextWith (exec (.e15LaunchPush 0) (push (good.set 2 0x3000))) (fun t => t.launchResults == [⟨⟨7, 0, 0⟩, 5 * 2 ^ 32, false⟩] && t.nextLaunch == 1) ∧
    nextWith (exec (.e15LaunchPush 0) (push (good.set 7 1))) (fun t => t.launchResults == [⟨⟨7, 0, 0⟩, 2 ^ 32 + 1, false⟩] && t.nextLaunch == 2) := by decide +kernel

/-- A flood over cores 0 and 1, and one with an absent core. -/
theorem wit_LaunchFloods :
    let one := after_ (exec (.qtailWrite 2 1) (wRing 2))
    let run := after_ (exec .flood one)
    (run.lastFlood = 2 ∧ (getCtx run ⟨1, 0⟩).status = .live ∧ (getCtx run ⟨1, 0⟩).pc = 0x10000000 ∧ readReg (getCtx run ⟨1, 0⟩) 1 = dataReg 1 ∧ (getCtx run ⟨2, 0⟩).status = .free) ∧
    nextWith (exec .flood { one with coreTable := [(1, 0)] }) (fun t => (getQueue t 2).qstat == 0x103#40 && (getCtx t ⟨0, 0⟩).status == .free) := by decide +kernel

theorem wit_LaunchCompletes :
    let last := onCore { State.reset with launches := [⟨9, 2, 0, [0x10000000, 2 ^ 32, 0x2000, 0, 0, 0, 0, 0], [], false, false, none⟩] } 0 fun k => { k with launch := some ⟨9, 2, 0, 1, 0, regNull, 0, false⟩ }
((getCore last 0).isSealed = false ∧ coreFree last 0 = true) ∧
    nextWith (exec (.launchComplete 0) last) (fun t => (getQueue t 2).qdone == 1#64 && t.mg.msix == [2] && t.launches == []) := by decide +kernel

/-- A core 3 with a launch, class 5 on the ordered channel 2 of priority 4, bound to core 7, and class 6. -/
def wPost (l : List Cargo) : State :=
  let s := onCore State.reset 3 fun k => { k with
    launch := some ⟨1, 0, 0, 4, 0, regNull, 0, false⟩
    classes := [(5, 0xE000000000002000), (6, 0x8000000000003000)]
    chans := [(8, 0x1C), (9, 7)]
    ctxs := [(0, { ctxReset 3 0 with status := .live, trapvec := 0x400 })]
    senderLast := [(8, 40)]
    reserved := [(2, 1)] }
  { s with flights := l.map fun c => ⟨⟨7, 0, 0⟩, 3, c, false⟩ }

/-- A message of class and channel from core 7. -/
def wMsg (k : MsgKind) (cls chn ts : Nat) : Msg := ⟨k, ⟨7, 0, 0⟩, 3, cls, chn, [1, 2, 3, 4], ts, 0, 0x5000, 0, 0, 0, 0, some 3⟩

theorem wit_MessagesArrive :
    let at_ := fun k cls chn ts => wPost [.msg (wMsg k cls chn ts)]
    let refused := fun (t : State) c v => t.refused == [⟨⟨7, 0, 0⟩, ⟨c, false, v⟩, none, none⟩] && t.flights == []
    let back := { w0 with refused := [⟨⟨0, 0, 0⟩, ⟨14, false, 9⟩, none, some 7⟩] }
    let call := fun v => { onCur w0 fun x => { x with awaiting := [⟨4, 8, 7, 3⟩], k := vecSet x.k 7 ⟨2, false, 0, 0⟩ } with deposits := [⟨⟨0, 0, 0⟩, 4, v, 3⟩] }
    let s := at_ .msg 6 9 0
    (localCore s 3 = some 3 ∧ asleep s 3 = false ∧ (getCore s 3).twin = none ∧ freeHelper s 3 = some 1 ∧ resident s 3 = true ∧ absent s 3 = false ∧
      senderSlots (getCore s 3) 2 7 = [8] ∧ chanOrd (getCore s 3) 2 = true) ∧
    nextWith (exec (.messageArrival 0) s) (fun t => (chanQueue (getCore t 3) 9).length == 1 && (getCtx t ⟨3, 0⟩).wake == 1#6 && t.flights == []) ∧
    nextWith (exec (.messageArrival 0) (at_ .msg 5 2 0)) (fun t => refused t 14 3) ∧ nextWith (exec (.messageArrival 0) (at_ .msg 7 9 0)) (fun t => refused t 14 3) ∧
    nextWith (exec (.messageArrival 0) (at_ .msgt 5 9 40)) (fun t => refused t 14 3) ∧
    nextWith (exec (.messageArrival 0) (at_ .msgt 5 2 39)) (fun t => refused t 11 39 && mapGetD (getCore t 3).senderLast 8 0 == 40 && mapGetD (getCore t 3).reserved 2 0 == 0) ∧
    nextWith (exec (.messageArrival 0) (at_ .msgt 5 2 40)) (fun t => t.refused == [] && mapGetD (getCore t 3).senderLast 8 0 == 40 && (chanQueue (getCore t 3) 2).length == 1) ∧
    nextWith (exec (.evtickArrival 0) (at_ .evtick 0 2 77)) (fun t => mapGetD (getCore t 3).senderLast 8 0 == 77 && (chanQueue (getCore t 3) 2) == []) ∧
    nextWith (exec (.callatArrival 0) (at_ .callat 0 15 0)) (fun t => (chanQueue (getCore t 3) 15).length == 1) ∧
    findSender back ⟨0, 0, 0⟩ = some ⟨0, 0⟩ ∧
    nextWith (exec (.refusalReturn 0) back) (fun t => (curCtx t).deferred == [⟨⟨14, false, 9⟩, none⟩] && (vecGet (curCtx t).bar 7 ⟨.unset, 0, 0⟩).st == .idle) ∧
    nextWith (exec (.callatDeposit 0) (call (some 6))) (fun t => readReg (curCtx t) 8 == dataReg 6 && (vecGet (curCtx t).k 7 tokenReset).count == 1 && (curCtx t).awaiting == []) ∧
    nextWith (exec (.callatDeposit 0) (call none)) (fun t => readReg (curCtx t) 8 == regNull && vecGet (curCtx t).k 7 tokenReset == ⟨1, true, 14, 3⟩) := by decide +kernel

theorem wit_TasksStartAndCommit :
    let queued := fun k cls chn => onCore (wPost []) 3 fun c => { c with queues := [(chn, [wMsg k cls chn 50])] }
    let full := onCore (queued .msg 6 9) 3 fun c => { c with ctxs := c.ctxs ++ (List.range 9).map fun n => (n + 1, { ctxReset 3 (n + 1) with status := .live }) }
    let spec := after_ (exec (.taskDispatch 3) (queued .msgt 5 2))
    let first := onCore spec 3 fun c => { c with senderLast := [(8, 51)] }
    let late := onCore spec 3 fun c => { c with senderLast := [(8, 50)] }
    let f := onCur w0 fun x => { x with deferred := [⟨⟨14, false, 9⟩, none⟩] }
    let idle := fun n => { onCur w0 fun x => { x with idling := some (some 9) } with mg := { w0.mg with time := n } }
    (freeHelper full 3 = some 10 ∧ nextChannel (getCore full 3) = some 9 ∧ inService full 3 = true) ∧
    nextWith (exec (.taskDispatch 3) full) (fun t => (getCtx t ⟨3, 10⟩).status == .task && (getCtx t ⟨3, 10⟩).pc == 0x3000#64 && readReg (getCtx t ⟨3, 10⟩) 4 == dataReg 4 &&
      readReg (getCtx t ⟨3, 10⟩) 6 == dataReg (6 + 64 * 9) && (getCtx t ⟨3, 10⟩).trapvec == 0x400#64 && chanQueue (getCore t 3) 9 == []) ∧
    nextWith (exec (.taskDispatch 3) (queued .callat 0 15)) (fun t => (getCtx t ⟨3, 1⟩).pc == 0x5000#64) ∧
    (isSpec (getCtx spec ⟨3, 1⟩) = true ∧ (getCtx spec ⟨3, 1⟩).tstamp = 50) ∧
    nextWith (exec (.taskCommitBegin 3) first) (fun t => !isSpec (getCtx t ⟨3, 1⟩)) ∧ nextWith (exec (.taskCommitBegin 3) late) (fun t => isSpec (getCtx t ⟨3, 1⟩)) ∧
    (commitBefore (getCore spec 3) (wMsg .msgt 5 2 1) (wMsg .msgt 6 2 1) = true ∧ commitBefore (getCore spec 3) (wMsg .msgt 6 2 1) (wMsg .msgt 5 2 2) = true ∧
      commitBefore (getCore spec 3) (wMsg .msgt 6 2 1) { wMsg .msgt 6 2 1 with seq := 2 ^ 31 - 1 } = true ∧
      commitBefore (getCore spec 3) (wMsg .msgt 6 2 1) { wMsg .msgt 6 2 1 with seq := 2 ^ 31 } = false) ∧
    nextWith (exec (.deferredFaultEntry 0 0) f) (fun t => trapped t 14 9 && (curCtx t).trapcause == 0x10E#64 && (curCtx t).deferred == []) ∧
    nextWith (exec (.timeReached 0 0) (idle 9)) (fun t => (curCtx t).wake == 32#6) ∧ nextWith (exec (.timeReached 0 0) (idle 8)) (fun t => (curCtx t).wake == 0#6) := by decide +kernel

theorem wit_StoresLeaveTheBuffer :
    let buf := fun k => onCore w0 0 fun c => { c with buf := [⟨⟨0, 0, 0⟩, k⟩] }
    let drain := fun k (f : State → Bool) => nextWith (exec (.storeBufferDrain 0) (buf k)) fun t => f t && (curCore t).buf == []
    let come := fun (s : State) => { s with flights := [⟨⟨7, 0, 0⟩, 3, .store 0xFFFFF [9] none, false⟩] }
    let owned := fun (n : W64) => { farSet w0 1 16 ⟨true, 0x55, 0, false, 0⟩ with mg := { w0.mg with time := n } }
    let flies := { buf (.store (.cell 0 0xFFFFF) [7] none none) with flights := [⟨⟨0, 0, 0⟩, 3, .store 0 [1] none, true⟩] }
    let kept := onCore (buf (.store (.cell 0 0xFFFFF) [7] none none)) 3 fun k => { k with
      twin := some ⟨9, true, false, 0, 0, 0, 0, ⟨ctxReset 3 0, [], [], []⟩, [], [.store ⟨0, 0, 0⟩ 0 [1] none], [], 0, [], 0, false, []⟩ }
    (dieOrderWaits flies 0 = true ∧ dieOrderWaits kept 0 = true ∧ dieOrderWaits (buf (.arrive 7 2 5)) 0 = false) ∧
    nextWith (exec (.storeBufferDrain 0) flies) (fun t => t == flies) ∧ nextWith (exec (.storeBufferDrain 0) kept) (fun t => t == kept) ∧
    Memory.wf (curCore w0).cell = true ∧
    drain (.store (.cell 0 0xFFFFF) [7] none none) (fun t => (curCore t).cell == [(0xFFFFF, 7)] && t.flights == []) ∧
    drain (.store (.cell 3 0x10) [7] none none) (fun t => t.flights == [⟨⟨0, 0, 0⟩, 3, .store 0x10 [7] none, true⟩]) ∧
    drain (.store (.cell 256 0x10) [7] none none) (fun t => t.flights == [⟨⟨0, 0, 0⟩, 256, .store 0x10 [7] none, false⟩]) ∧
    drain (.msg (wMsg .msg 6 9 0)) (fun t => t.flights == [⟨⟨0, 0, 0⟩, 3, .msg (wMsg .msg 6 9 0), true⟩]) ∧
    drain (.arrive 7 2 5) (fun t => t.flights == [⟨⟨0, 0, 0⟩, 5, .arrive 7 2, true⟩]) ∧
    isHost (2 ^ 51) = true ∧ drain (.store (.phys (2 ^ 51) false 0) [7] none none) (fun t => t.mem.host == [(0, 7)]) ∧
    (isHost 0x1000 = false ∧ isLeased w0 0x1000 1 = false ∧ w0.mem.far = []) ∧ drain (.store (.phys 0x1000 true 0) [7] none none) (fun t => mapGet t.mem.hbm 0x1000 == some 7) ∧
    (localCore w0 3 = some 3 ∧ asleep w0 3 = false ∧ (getCore w0 3).twin = none) ∧
    nextWith (exec (.remoteStoreArrival 0) (come w0)) (fun t => (getCore t 3).cell == [(0xFFFFF, 9)] && t.refused == []) ∧
    nextWith (exec (.remoteStoreArrival 0) (come { w0 with coreTable := [(3, 0)] })) (fun t => t.refused == [⟨⟨7, 0, 0⟩, ⟨14, false, 3⟩, none, none⟩] && (getCore t 3).cell == []) ∧
    nextWith (exec (.remoteStoreArrival 0) (come (onCore w0 3 fun c => { c with isSealed := true }))) (fun t => t.refused.length == 1) ∧
    farGet (owned 50000) 1 16 = some ⟨true, 0x55, 0, false, 0⟩ ∧
    nextWith (exec (.ownedWordTimeout 1 16) (owned 50000)) (fun t => farGet t 1 16 == some ⟨false, 0x55, 0, false, 0⟩ && mapGet t.mem.hbm 128 == some 0x55) ∧
    nextWith (exec (.ownedWordTimeout 1 16) (owned 49999)) (fun t => t == owned 49999) := by decide +kernel

/-- `w0` with a copy in flight, seven bytes at the end of bank 0, and a translation to host memory. -/
def wCopy (kind : CopyKind) (runs : List Run) (flying : List Piece) : State :=
  let s := putFront w0 0 { getFront w0 0 with tlb := [⟨0, 0, 2 ^ 30, 2 ^ 51, 0x17⟩] }
  let s := onMem s fun g => { g with host := memWrites [] 0x1FFE [5, 6] }
  let s := onCur s fun x => { x with k := vecSet x.k 2 ⟨1, false, 0, 0⟩ }
  onCore s 0 fun k => { k with cell := memWrites [] 0xFFFE [7, 8, 9], copies := [⟨1, ⟨0, 0, 0⟩, 2, kind, flying.map (·.run) ++ runs, runs, flying, [], [], [], false, 0, false, none, none, []⟩], nextCopy := 2 }

theorem wit_PiecesOfCopies :
    let run := fun (src dst : W64) => (⟨src, dst, 0, 4, 3⟩ : Run)
    let piece := fun p d => (⟨0, ⟨0, 0xD0000003000FFFFD, 1, 2, 3⟩, [4, 5], [], p, 0, d, false⟩ : Piece)
    let start := fun k a b (f : Copy → Bool) => nextWith (exec (.copyPieceStart 0 1) (wCopy k [run a b] [])) fun t => (findCopy t 0 1).any f
    let come := exec (.copyPieceArrival 0 1 0)
    let s := wCopy .send [] [piece none false]
    let cross := wCopy .send [] [⟨0, ⟨0, 0xD00000030000FFFE, 1, 2, 3⟩, [4, 5], [], none, 0, false, false⟩]
    let full := wCopy .send [run 0 0] (List.replicate 4 (piece none false))
    let bands := wCopy .send [] [{ piece none false with band := true }, { piece none true with ord := 1, band := true }]
    let fetch := { wCopy (.tfetch 3) [⟨0x202000, 0, 0, 128, 0⟩] [] with mem := { (wCopy .send [] []).mem with l2ways := Vector.replicate 4 4, hbm := [(0x202000, 3)] } }
    let twin := onCore (wCopy .send [] [piece none true]) 3 fun k => { k with
      twin := some ⟨9, true, false, 0, 0, 0, 0, ⟨ctxReset 3 0, [], [], []⟩, [], [.store ⟨0, 0, 0⟩ 0xFFFFE [4, 5] none], [], 0, [], 0, false, []⟩ }
    findCopy s 0 1 ≠ none ∧ (keptFrom twin 3 ⟨0, 0, 0⟩ = true ∧ nextWith (exec (.copyPieceComplete 0 1 0) twin) fun t => t == twin) ∧
    start .send 0xFFFE 0 (fun q => q.flying.map (·.data) == [[7, 8]] && q.runs == [⟨0x10000, 0, 2, 2, 3⟩]) ∧
    start (.sends 3) 0xFFFE 0 (fun q => q.flying.map (·.data) == [[7, 8]] && q.runs.length == 1) ∧
    start .xput 0xFFFE 0x1000 (fun q => q.flying.map (·.data) == [[7, 8]] && q.flying.map (·.place) == [some (.phys (2 ^ 51 + 0x1000) false 0)]) ∧
    start .xget 0x1FFE 0 (fun q => q.flying.map (·.data) == [[5, 6, 0, 0]]) ∧
    start .xget (2 ^ 40) 0 (fun q => q.fault == some ⟨3, false, 2 ^ 40⟩) ∧
    (localCore s 3 = some 3 ∧ asleep s 3 = false ∧ (getCore s 3).twin = none ∧ (getCore s 3).bfmt = [] ∧ absent s 3 = false) ∧
    nextWith (come s) (fun t => (getCore t 3).cell == [(0xFFFFE, 4), (0xFFFFF, 5)] && (findCopy t 0 1).any fun q => q.flying.map (·.done) == [true]) ∧
    nextWith (come { s with coreTable := [(3, 0)] }) (fun t => (getCore t 3).cell == [] && (findCopy t 0 1).any fun q => q.err == some ⟨14, false, 3⟩) ∧
    nextWith (come (wCopy .xput [] [piece (some (.phys (2 ^ 51) false 0)) false])) (fun t => memReads t.mem.host 0 2 == [4, 5]) ∧
    nextWith (exec (.copyPieceComplete 0 1 0) (wCopy .send [] [piece none true])) (fun t => (curCore t).copies == [] && (vecGet (curCtx t).k 2 tokenReset).count == 0 && (curCtx t).wake == 2#6) ∧
    nextWith (exec (.copyPieceComplete 0 1 0) (wCopy .send [run 0 0] [piece none true])) (fun t => (vecGet (curCtx t).k 2 tokenReset).count == 1 && (findCopy t 0 1).any fun q => q.flying == []) ∧
    nextWith (exec (.copyPieceStart 0 1) full) (fun t => t == full) ∧
    nextWith (come cross) (fun t => t.mem == cross.mem && (getCore t 3).cell == [] && (findCopy t 0 1).any fun q => q.flying.map (fun p => (p.run.slot, p.data)) == [(1, [4]), (2, [5])]) ∧
    nextWith (exec (.copyPieceComplete 0 1 1) bands) (fun t => t == bands) ∧
    (homeDie 0x202000 ≠ 0 ∧ isLeased fetch 0x202000 128 = false ∧ (vecGet fetch.mem.l2ways 0 0).toNat % 16 ≠ 0) ∧
    nextWith (exec (.tfetchComplete 0 1) fetch) (fun t => (curCore t).copies == [] && (farGet t 0 0x40400).map (·.data) == some 3) := by decide +kernel

/-- A granted lease of one row at 0x4000 or, for all banks, of sixteen segments. -/
def wBank (all : Bool) (words results : List W64) : State :=
  let s := onMem w0 fun g => { g with hbm := memWrites [] 0x4000 [0, 0x3C] }
  { s with leases := [⟨5, ⟨0, 0, 0⟩, 8, all, 1, [if all then (List.range 16).map fun u => 0x4000 + 0x400 * u else [0x4000]], if all then List.range 16 else [0], if all then 16 else 1, true, false,
    0, all, 0, [(0, [(0, 0x4000)])], words, none, results⟩], nextLease := 6 }

theorem wit_BankLeasesTakeEffect :
    let wait := fun l => { w0 with leases := (⟨5, ⟨0, 0, 0⟩, 8, false, 1, [[0x4000]], [7], 0, false, false, 0, false, 0, [], [], none, []⟩ : Lease) :: l }
    let other : Lease := ⟨4, ⟨1, 0, 0⟩, 8, false, 1, [[0x4000]], [7], 1, true, false, 0, false, 0, [], [], none, []⟩
    let at_ := fun n => { wBank false [1] [2] with mg := { w0.mg with time := n } }
    nextWith (exec (.bankLeaseGrant 0) (wait [])) (fun t => t.leases.map (·.granted) == [true] && (curCtx t).waiting == some (.leased 8)) ∧
    nextWith (exec (.bankLeaseGrant 0) (onMem (wait []) fun g => { g with poisoned := [(0xFF, ⟨1, false, none⟩), (0x10F, ⟨2, false, none⟩), (0x110, ⟨3, false, none⟩)] }))
      (fun t => t.mem.poisoned.map (·.1) == [0xFF, 0x110]) ∧
    nextWith (exec (.bankLeaseGrant 0) (wait [other])) (fun t => t == wait [other]) ∧
    (leaseById (at_ 1000) 5 ≠ none ∧ inUse (at_ 1000) ⟨0, 0, 0⟩ = true) ∧
    nextWith (exec (.bankLeaseExpiry 5) (at_ 1000)) (fun t => t.leases.map (fun l => (l.expired, l.words, l.results, l.units)) == [(true, [], [], [])]) ∧
    nextWith (exec (.bankLeaseExpiry 5) (at_ 999)) (fun t => t == at_ 999) := by decide +kernel

theorem wit_BankCommandsRun :
    let run := fun i all words (f : Lease → Bool) => nextWith (exec i (wBank all words [])) fun t => (leaseById t 5).any f
    let err := fun all (w : W64) n => nextWith (exec (.bankCommandError 5) (wBank all [w] [])) fun t => (leaseById t 5).any fun l => l.words == [] && l.results.head? == some (toW (2 ^ 63 + n))
    let dot : W64 := toW (3 * 2 ^ 60 + 1)
    err true (2 ^ 5) 1 ∧ err false (toW (5 * 2 ^ 60 + 1)) 1 ∧ err false (toW (3 * 2 ^ 60 + 2 ^ 48)) 2 ∧ err false (toW (3 * 2 ^ 60 + 513)) 3 ∧ err false 0 4 ∧ err false (toW (5 * 2 ^ 60)) 5 ∧
    nextWith (exec (.bankCommandError 5) (wBank true [2 ^ 5] (List.replicate 49 0))) (fun t => t == wBank true [2 ^ 5] (List.replicate 49 0)) ∧
    run (.mode 5) true [0x15] (fun l => l.allMode && l.bank == 5 && l.words == []) ∧
    run (.vbw 5) false [toW (2 ^ 60 + 2 ^ 48 + 2), 0x0004000300020001, 5, 9] (fun l => l.words == [9] && (List.range 10).map (fun e => mapGetD (mapGetD l.vbufs 0 []) e 0) == [0x4000, 0, 0, 0, 1, 2, 3, 4, 5, 0]) ∧
    run (.vbl 5) false [toW (2 * 2 ^ 60)] (fun l => mapGetD (mapGetD l.vbufs 0 []) 0 0 == 0x3C00) ∧
    run (.dot 5) false [dot] (fun l => l.results == [0x40000000]) ∧ run (.dot 5) true [dot] (fun l => l.results.length == 16) ∧
    nextWith (exec (.dot 5) (wBank false [dot] (List.replicate 64 0))) (fun t => t == wBank false [dot] (List.replicate 64 0)) ∧
    nextWith (exec (.wrw 5) (wBank false [toW (4 * 2 ^ 60 + 2 ^ 40), 0x11] [])) (fun t => mapGet t.mem.hbm 0x4008 == some 0x11) := by decide +kernel

theorem wit_WingsGrantAndFinish :
    let mark := onCore w0 0 fun k => { k with marks := [⟨⟨0, 0, 0⟩, 0, false, false⟩] }
    let op := fun i d a (c g : Bool) cols => (⟨0, ⟨0, 0, 0⟩, i, natW d, natW a, 24, mapRegReset, [{ wing := [0], granted := g }], c, cols, [], false⟩ : ArrayOp)
    let with_ := fun (o : ArrayOp) => onWing (onCore wArr 0 fun k => { k with ops := [o], nextOp := 1, buf := [⟨⟨0, 0, 0⟩, .wing 0 1 none⟩] }) 0 fun w => { w with order := [(0, 0)] }
    let row := with_ (op (.bprow 1 2 3 3 0 0) (field 8 8) 16 true true [])
    let bad := onWing (with_ (op (.bpadd 1 2 3 0 0) (field 8 8) (field 16 8) true true [])) 0 fun w => { w with badRows := [16] }
    let st := with_ (op (.bpst 1 1 0 0) (field 16 8) 0 true true [(0, 0x41)])
    let ld := with_ (op (.bpld 1 1 0 0 0) (field 16 4) 0 true true [(0, 0xF5), (2, 3)])
    let wait := onCore wArr 0 fun k => { k with ops := [op (.bprow 1 2 3 3 0 0) (field 8 8) 16 true false []], nextOp := 1 }
    (nearSites 0).filter (frontReady mark 0) = [0] ∧ (nearSites 0).filter (frontReady w0 0) = [] ∧
    nextWith (exec (.wingDispatchGrant 0) mark) (fun t => (curCore t).marks.map (·.granted) == [true] && (getWing t 0).grantPtr == 4) ∧
    nextWith (exec (.wingDispatchGrant 0) w0) (fun t => t == w0) ∧
    nextWith (exec (.wingDispatchGrant 0) wait) (fun t => (getWing t 0).order == [(0, 0)] && (curCore t).ops.map (fun o => o.parts.map (·.granted)) == [[true]]) ∧
    nextWith (exec (.wingDispatchGrant 0) (onCore wait 0 fun k => { k with ops := k.ops.map fun o => { o with checked := false, parts := o.parts ++ [{ wing := [1] }] } }))
      (fun t => (curCore t).ops.map (fun o => o.parts.map (·.granted)) == [[true, false]] && (curCore t).ops.map (·.checked) == [false]) ∧
    nextWith (exec (.wingOperationComplete 0 0) (onCore mark 0 fun k => { k with marks := [⟨⟨0, 0, 0⟩, 0, true, false⟩] })) (fun t => (curCore t).marks == []) ∧
    (findOp row 0 0 ≠ none ∧ subsOf row (siteOf row 0) (natW (field 8 8)) = [(0, 0)]) ∧
    nextWith (exec (.arrayOpComplete 0 0) row) (fun t => (curCore t).ops == [] && (getWing t 0).order == [] && colOf (getWing t 0) 8 8 == 172) ∧
    mapSorted (getWing ld 0).rows = true ∧
    nextWith (exec (.arrayOpComplete 0 0) ld) (fun t => colOf (getWing t 0) 16 8 == 192 + 5 && (List.range 4).map (fun r => (rowGet (getWing t 0) 0 (16 + r)).toNat) == [5, 4, 1, 0]) ∧
    nextWith (exec (.arrayOpComplete 0 0) st) (fun t => (curCore t).buf == [⟨⟨0, 0, 0⟩, .wing 0 1 (some [(1, 200)])⟩]) ∧
    (subArrayOp (op (.bprow 1 2 3 3 0 0) (field 8 8) 16 true true []) (.rows 3 false) wCols wCols 0 0 0 8 true true (rowOf (colActive wCols 0 (natW (field 8 8)))) 0 0 != wCols ∧
      badStop bad [(0, 0, 0)] (op (.bpadd 1 2 3 0 0) (field 8 8) (field 16 8) true true []) (.two false) = some 0) ∧
    nextWith (exec (.arrayOpComplete 0 0) bad) (fun t => (curCtx t).deferred == [⟨⟨15, false, 0⟩, none⟩] && t.mg.rechead == 1#64 && t.mg.oob.map (fun r => (r.dwords.headD 0).toNat % 2 ^ 16) == [15 * 2 ^ 8 + 1]) := by decide +kernel

/-- Launch 1 of core 0, live on it, with a chrysalis area at `chry`. -/
def wLaunch (chry : W64) (cores : W64) : State :=
  let s := onCore w0 0 fun k => { k with launch := some ⟨1, 0, 0, 1, 0, regNull, chry, false⟩ }
  let s := putFront s 0 { getFront s 0 with tlb := [⟨0, 0, 2 ^ 30, 2 ^ 51, 0x17⟩] }
  { s with launches := [⟨1, 0, 0, [0x10000000, cores, 0, 0, 0, chry, 0x100000000, 0], [], false, false, none⟩] }

theorem wit_LaunchesAreSavedAndRestored :
    let away : W64 := 0x100000009
    let busy := onCore (wLaunch 0 away) 0 fun k => { k with buf := [⟨⟨0, 0, 0⟩, .arrive 7 2 5⟩] }
    (runningLaunch (wLaunch 0 away) 1).map (·.id) = some 1 ∧
    nextWith (exec (.preemptRequest 2 false) w0) (fun t => t.mg.pstat == 2#9 && t.mg.msix == [17]) ∧
    nextWith (exec (.preemptRequest 1 false) (wLaunch 0x1000 away)) (fun t => t.mg.pstat == 1#9 && (curCtx t).status == .live) ∧
    nextWith (exec (.preemptRequest 1 false) (wLaunch (2 ^ 48) away)) (fun t => t.mg.pstat == 1#9) ∧
    nextWith (exec (.preemptRequest 1 false) (putFront (wLaunch (2 ^ 40) (2 ^ 32)) 0 (getFront w0 0))) (fun t => t.mg.pstat == 1#9) ∧
    nextWith (exec (.preemptRequest 1 false) busy) (fun t => t.mg.preq.getLsbD 33 && (curCtx t).status == .live) ∧
    nextWith (exec (.preemptRequest 1 false) (wLaunch 0 away)) (fun t => t.mg.pstat == 0x100#9 && t.saved.map (fun v => (v.id, v.cores.map (·.number))) == [(1, [0])] && (curCore t).ctxs == []) ∧
    nextWith (exec (.debugSingleStep 1 0 0) (wLaunch 0 away)) (fun t => t.saved.length == 1 && t.debugHalt == []) ∧
    nextWith (exec (.debugSingleStep 1 0 0) { wLaunch 0 away with debugHalt := [(1, ⟨0, 11⟩)] }) (fun t => t.saved.length == 1 && t.debugHalt == []) := by decide +kernel

/-- A launch saved from core 0, whose turn it is. -/
def wSaved : State :=
  let s := wLaunch 0 (2 ^ 32)
  { onCore s 0 (fun _ => coreReset) with
    launches := s.launches.map fun l => { l with saved := true, pendingAt := some 0 }
    saved := [⟨1, [⟨0, { curCore s with launch := (curCore s).launch.map fun l => { l with saved := true } }, false, [], 0, []⟩], []⟩] }

/-- The launch that comes back, and `wSaved` with the cores that it takes. -/
def wBack : Launch := (markPending wSaved).launches.headD default

def wTaken : State := takeCores (markPending wSaved) (returnCores (markPending wSaved) wBack)

theorem ok_of_okWith {α : Type} {r : EStateM.Result Stop State α} {f : α → State → Bool} (h : okWith r f = true) : ∃ a z, r = .ok a z ∧ f a z = true := by
  cases r with
  | ok a z => exact ⟨a, z, rfl, h⟩
  | error e z => cases h

/-- What is done for the executing core's control context is done where it stands. -/
theorem asCore_ok {α : Type} {act : M α} {s : State} {a : α} {c : Nat} (hc : s.cur = ⟨c, 0⟩) (h : act s = .ok a s) : asCore c act s = .ok a s := by
  have e : { s with cur := ⟨c, 0⟩ } = s := by rw [← hc]
  simp only [asCore, e, h]

/-- An area in host memory reads page by page. -/
theorem areaRead_pages {s : State} {q c K : Nat} (hc : s.cur = ⟨c, 0⟩) (h : ∀ k, k < K → ∃ l, pieceTranslate q c (natW (4096 * k)) accCopySrc s = .ok (2 ^ 51 + 4096 * k, false, 0, l) s)
    (hK : K ≤ 1024) : ∀ fuel m p, p + m ≤ K → m < fuel → ∃ b, areaRead q c (4096 * p) (4096 * m) fuel s = .ok b s ∧ b.length = 4096 * m := by
  intro fuel
  induction fuel with
  | zero => intro m p _ h; omega
  | succ fuel ih =>
    intro m p hp hf
    cases m with
    | zero => exact ⟨[], rfl, rfl⟩
    | succ m =>
      obtain ⟨l, hl⟩ := h p (by omega)
      obtain ⟨b, hb, hn⟩ := ih m (p + 1) (by omega) (by omega)
      have hm : min (4096 * (m + 1)) (4096 - 4096 * p % 4096) = 4096 := by omega
      have hh : isHost (2 ^ 51 + 4096 * p) = true := by simp only [isHost, beq_iff_eq]; omega
      have hr : homeReads (2 ^ 51 + 4096 * p) 4096 0 4097 s = .ok (memReads s.mem.host ((2 ^ 51 + 4096 * p) % 2 ^ 51) 4096) s := by
        unfold homeReads
        simp only [hh, if_true]
        rfl
      have hlen : ∀ n a (mem : Memory), (memReads mem a n).length = n := by
        intro n
        induction n with
        | zero => intro a mem; rfl
        | succ n ih => intro a mem; simp [memReads, ih]
      refine ⟨memReads s.mem.host ((2 ^ 51 + 4096 * p) % 2 ^ 51) 4096 ++ b, ?_, by simp [hlen, hn]; omega⟩
      have hb' : areaRead q c (4096 * p + 4096) (4096 * (m + 1) - 4096) fuel s = .ok b s := by
        rw [show 4096 * p + 4096 = 4096 * (p + 1) by omega, show 4096 * (m + 1) - 4096 = 4096 * m by omega]
        exact hb
      rw [areaRead, if_neg (by omega)]
      simp only [run_bind, asCore_ok hc hl, hm, asCore_ok hc hr, hb', run_pure]

theorem wSaved_pages (k : Nat) (h : k < 700) :
    ∃ l, pieceTranslate 0 0 (natW (4096 * k)) accCopySrc wTaken = .ok (2 ^ 51 + 4096 * k, false, 0, l) wTaken := by
  have key : ∀ k, k < 700 → okWith (pieceTranslate 0 0 (natW (4096 * k)) accCopySrc wTaken) (fun p z => p == (2 ^ 51 + 4096 * k, false, 0, p.2.2.2) && z == wTaken) := by
    decide +kernel
  obtain ⟨a, z, hr, ht⟩ := ok_of_okWith (key k h)
  simp only [Bool.and_eq_true, beq_iff_eq] at ht
  exact ⟨a.2.2.2, by rw [hr, ← ht.1, ht.2]⟩

theorem wit_LaunchRestores :
    let a := markPending wSaved
    (restoreTurn a 1 = true ∧ a.launches.find? (fun l => l.id = 1 && l.saved) = some wBack ∧ ((dChry wBack.desc).toNat = 0 ∧ dBase wBack.desc = 0 ∧ dCount wBack.desc = 1) ∧
      (∃ k, a.saved = [⟨1, [k], []⟩] ∧ k.number = 0 ∧ k.core.buf = []) ∧ runningLaunch wSaved 1 = none ∧ wSaved.debugHalt = []) ∧
    (∃ b, areaRead 0 0 0 0x100000 0x100001 wTaken = .ok b wTaken ∧ b.length = 0x100000) ∧ ∃ l, readRecords 0 0 0 11 wTaken = .ok l wTaken := by
  have hp := areaRead_pages (K := 700) (by decide +kernel) wSaved_pages (by omega)
  refine ⟨?_, ?_, ?_⟩
  · have key : restoreTurn (markPending wSaved) 1 = true ∧ (markPending wSaved).launches.find? (fun l => l.id = 1 && l.saved) = some wBack ∧
        ((dChry wBack.desc).toNat = 0 ∧ dBase wBack.desc = 0 ∧ dCount wBack.desc = 1) ∧ runningLaunch wSaved 1 = none ∧ wSaved.debugHalt = [] := by
      decide +kernel
    obtain ⟨h1, h2, h3, h4, h5⟩ := key
    exact ⟨h1, h2, h3, ⟨_, rfl, rfl, rfl⟩, h4, h5⟩
  · exact hp 0x100001 256 0 (by omega) (by omega)
  · have hr : ∀ n, n ≤ 11 → ∃ l, readRecords 0 0 0 n wTaken = .ok l wTaken := by
      intro n
      induction n with
      | zero => exact fun _ => ⟨[], rfl⟩
      | succ n ih =>
        intro hn
        obtain ⟨l, hl⟩ := ih (by omega)
        obtain ⟨b, hb, _⟩ := hp 0x4001 4 (256 + 4 * n) (by omega) (by omega)
        refine ⟨l ++ [b], ?_⟩
        unfold readRecords
        rw [show 0 + 0x100000 + n * 0x4000 = 4096 * (256 + 4 * n) by omega]
        simp only [run_bind, hl]
        rw [show (0x4000 : Nat) = 4096 * 4 by omega, hb]
        rfl
    exact hr 11 (by omega)

/-- What was kept of the saved core. -/
def wKept : SavedCore := ((markPending wSaved).saved.flatMap fun v : SavedLaunch => v.cores).headD default

theorem wit_RecordsAndWingsAreRead :
    (wKept.number = 0 ∧ wKept.core.buf = [] ∧ dBase wBack.desc = 0 ∧ dCount wBack.desc = 1 ∧ areaOf wBack.desc 0 = 0 ∧ wTaken.leases = []) ∧
    (∃ kept, restoreRecord wBack wKept wTaken = .ok kept wTaken) ∧ (∃ acc, readParts 0 0 0x200000 0x2000 8 wTaken = .ok acc wTaken) ∧
    ∃ rows, readParts 0 0 0x210000 0x8000 16 wTaken = .ok rows wTaken := by
  have hp := areaRead_pages (K := 700) (by decide +kernel) wSaved_pages (by omega)
  have parts : ∀ m p n, 0 < m → p + n * m ≤ 700 → ∃ l, readParts 0 0 (4096 * p) (4096 * m) n wTaken = .ok l wTaken := by
    intro m p n hm
    induction n with
    | zero => exact fun _ => ⟨[], rfl⟩
    | succ n ih =>
      intro hn
      rw [Nat.succ_mul] at hn
      obtain ⟨l, hl⟩ := ih (by omega)
      obtain ⟨b, hb, _⟩ := hp (4096 * m + 1) m (p + n * m) (by omega) (by omega)
      refine ⟨l ++ [b], ?_⟩
      unfold readParts
      rw [show 4096 * p + n * (4096 * m) = 4096 * (p + n * m) by rw [Nat.mul_add, Nat.mul_left_comm]]
      simp only [run_bind, hl, hb]
      rfl
  refine ⟨by decide +kernel, ?_, parts 2 512 8 (by omega) (by omega), parts 8 528 16 (by omega) (by omega)⟩
  have hk : (wBack.queue = 0 ∧ areaOf wBack.desc wKept.number = 0) ∧
      wKept.hasLift = false ∧
      wKept.number % 1024 = 0 := by decide +kernel
  obtain ⟨b, hb, _⟩ := hp 0x40001 64 304 (by omega) (by omega)
  simp only [restoreRecord, run_bind, hk.1.1, hk.1.2, hk.2.1, hk.2.2, Bool.false_eq_true, if_false, Nat.zero_add]
  rw [show (0x130000 : Nat) = 4096 * 304 by omega, show (0x40000 : Nat) = 4096 * 64 by omega, hb]
  exact ⟨_, rfl⟩

/-- A context that was free at the save and whose record has been written over comes back live, the reserved bits of a tagged base of its map reading 0. -/
theorem wit_WrittenRecordsCount :
    let rec_ := List.replicate 0x210 0 ++ [1] ++ List.replicate 0x5EF 0 ++ List.replicate 15 0 ++ [3] ++ List.replicate 0x3F0 0 ++ [1]
    let l := restoredCtxs wKept (List.replicate 10 [] ++ [rec_]) []
    l.map (fun p => (p.1, p.2.handler, (vecGet p.2.m 0 mapRegReset).img, (vecGet p.2.m 0 mapRegReset).capTag)) = [(10, false, 0, true)] ∧ l.map (fun p => p.2.status) = [.live] := by
  decide +kernel

/-- Cores 0 and 3 in a pair, at the end of an interval. -/
def wPair (retry : Bool) (crc : W64) : State :=
  let half := fun p n b : Nat => (some ⟨p, b = 1, retry, 5, 9, 0, if b = 1 then 7 else crc, ⟨{ curCtx w0 with pc := 0x2000 }, [], [], []⟩, if b = 1 then [.buf (.store (.cell 9 0) [1] none none) false] else [],
    [], [], 0, [], 0, n = 1, []⟩ : Option Twin)
  let s := onCore w0 3 fun k => { k with ctxs := (curCore w0).ctxs, twinState := 1, twinPartner := 0, twin := half 0 0 0 }
  onCore s 0 fun k => { k with twinState := 1, twinPartner := 3, twin := half 3 1 1 }

theorem wit_PairsCheckAndCoresAreSealed :
    let same := wPair false 7
    let undone := fun (t : State) => (getCtx t ⟨0, 0⟩).pc == 0x2000#64 && (getCtx t ⟨3, 0⟩).pc == 0x2000#64 && (getCore t 0).twinState == 2#2 && (getCore t 0).twin.any (fun w => w.retrying && w.held == [])
    let dead := fun (t : State) => (getCore t 0).isSealed && (getCore t 3).isSealed && (getCore t 3).twinState == 3#2 && (getCore t 0).twin == none
    let early := onCore same 0 fun k => { k with twin := k.twin.map fun w => { w with due := false } }
    let kept := fun s => onCore s 0 fun k => { k with twin := k.twin.map fun w => { w with kept := [.store ⟨9, 0, 0⟩ 0 [1] none] } }
    let late := onCore same 0 fun k => { k with twin := k.twin.map fun w => { w with retired := 0, held := [], released := w.held } }
    let late := onCore late 3 fun k => { k with twin := k.twin.map fun w => { w with retired := 0 } }
    nextWith (exec (.twinIntervalEnd 0) (kept (wPair true 8))) (fun t => dead t && t.refused == [⟨⟨9, 0, 0⟩, msgErr 0, none, none⟩]) ∧
    nextWith (exec (.twinIntervalEnd 0) late) (fun t => (getCore t 0).twin.any (fun w => w.released.length == 1 && !w.due) && (getCore t 0).twinState == 1#2) ∧
    (mapSorted (getCore same 0).ctxs = true ∧ mapSorted (getCore same 3).ctxs = true ∧ (getCore same 0).ops = [] ∧ absent same 0 = false) ∧
    nextWith (exec (.twinIntervalEnd 0) early) (fun t => t == early) ∧
    nextWith (exec (.twinIntervalEnd 0) (onCtx same ⟨0, 0⟩ fun x => { x with pending := [⟨5, 3, 2⟩] })) (fun t => (getCore t 0).twin == (getCore same 0).twin) ∧
    nextWith (exec (.twinIntervalEnd 0) same) (fun t => (getCore t 0).twin.any (fun w => w.released.length == 1 && w.held == [] && w.point.ctx.pc == 0x10000000#64) && (getCore t 0).twinState == 1#2) ∧
    nextWith (exec (.twinIntervalEnd 0) (wPair false 8)) undone ∧ nextWith (exec (.twinIntervalEnd 0) (wPair true 8)) dead ∧
    nextWith (exec (.internalUeDetected 0) same) undone ∧ nextWith (exec (.internalUeDetected 0) (wPair true 7)) dead ∧
    nextWith (exec (.internalUeDetected 0) w0) (fun t => (getCore t 0).isSealed && t.mg.rechead == 1#64) ∧
    nextWith (exec (.internalUeDetected 0) { w0 with coreTable := [(0, 0)] }) (fun t => !(getCore t 0).isSealed) := by decide +kernel

theorem wit_CoresMoveAndClustersAreTested :
    let gone := onCore w0 0 fun k => { k with isSealed := true, launch := some ⟨1, 0, 0, 4, 2, regNull, 0, false⟩ }
    let empty := { w0 with coreTable := [(0, 0)] }
    let mark := putCluster w0 63 { clusterReset with suspect := true, mark := some (1, 2) }
    let stays := onCur (putFront w0 0 { getFront w0 0 with bind := 0x500 }) id
    (siteNamed w0 1 = true ∧ siteNamed w0 256 = false ∧ siteNamed w0 271 = false) ∧
    nextWith (exec (.coreTableRemap 0 0 16) w0) (fun t => t == w0) ∧ nextWith (exec (.coreTableRemap 0 1 0) empty) (fun t => t == empty) ∧
    nextWith (exec (.coreTableRemap 0 15 16) empty) (fun t => siteOf t 0 == 271 && !absent t 0) ∧
    nextWith (exec (.coreTableRemap 0 0 16) gone) (fun t => siteOf t 0 == 256 && !(getCore t 0).isSealed && t.flights.map (·.dst) == [2]) ∧
    nextWith (exec (.clusterSuspect 63 5 6) w0) (fun t => (getCluster t 63).suspect && (getCluster t 63).mark == some (5, 6) && t.mg.oob.map (fun r => (r.dwords.getD 5 0, r.dwords.getD 6 0)) == [(5, 6)]) ∧
    nextWith (exec (.clusterMarkCleared 63) mark) (fun t => !(getCluster t 63).suspect && (getCluster t 63).mark == none) ∧
    (mayMove stays 0 = false ∧ mayMove w0 0 = true ∧ canPlace w0 0 = true ∧ (curCore w0).ops = [] ∧ (curCore w0).buf = [] ∧ takesCore w0 0 256 = true ∧ atRest w0 0 = true ∧ takesCore w0 0 0 = false) ∧
    nextWith (exec (.thermalMigration 0 0 16) stays) (fun t => siteOf t 0 == 0) ∧ nextWith (exec (.thermalMigration 0 0 0) w0) (fun t => t == w0) ∧
    nextWith (exec (.thermalMigration 0 0 16) (onWing w0 0 fun _ => wCols)) (fun t => siteOf t 0 == 256 && (getWing t 256).rows == wCols.rows && (curCtx t).pc == 0x10000000#64) ∧
    nextWith (exec (.thermalMigration 0 1 0) w0) (fun t => siteOf t 0 == 1 && siteOf t 1 == 0) := by decide +kernel

theorem wit_PowerStatesAndParking :
    let cl := fun k => putCluster w0 0 k
    let all := { w0 with mg := { w0.mg with diectl := Vector.replicate 4 true, diePending := Vector.replicate 4 true, capPeak := 700 } }
    let down := { w0 with mg := { w0.mg with parked := Vector.replicate 4 true, unparking := Vector.replicate 4 true } }
    let owns := farSet all 1 16 ⟨true, 0x55, 0, false, 0⟩
    let mid := onCur (cl { clusterReset with target := some 5 }) fun x => { x with waiting := some (.leased 8) }
    let sleep := { cl { clusterReset with current := 5, before := 2, request := 5 } with flights := [⟨⟨7, 0, 0⟩, 3, .store 0 [1] none, false⟩] }
    nextWith (exec (.grantPeriod [] []) all) (fun t => t.mg.capPeakNow == 700 && t.mg.draws == [[0, 0, 0, 0]] && t.mg.pwrnow == 0#64 && t.mg.pwrlim == 0#2) ∧
    nextWith (exec (.throttleStateLower 0) (cl { clusterReset with periods := 49 })) (fun t => (getCluster t 0).imposed == 0#3) ∧
    nextWith (exec (.throttleStateLower 0) (cl { clusterReset with periods := 50 })) (fun t => (getCluster t 0).imposed == 1#3 && (getCluster t 0).target == some 1#3 && (getCluster t 0).current == 0#3) ∧
    nextWith (exec (.throttleStateLower 0) (cl { clusterReset with periods := 50, imposed := 4 })) (fun t => (getCluster t 0).imposed == 4#3) ∧
    nextWith (exec (.pstateHandover 0) w0) (fun t => t == w0) ∧ nextWith (exec (.pstateHandover 0) (cl { clusterReset with target := some 4 })) (fun t => (getCluster t 0).current == 4#3) ∧
    nextWith (exec (.pstateHandover 0) (cl { clusterReset with target := some 5, current := 2 })) (fun t => (getCluster t 0).current == 5#3 && (getCluster t 0).before == 2#3) ∧
    nextWith (exec (.pstateHandover 0) mid) (fun t => t == mid) ∧ 3 ∈ clusterCores sleep 0 ∧
    nextWith (exec (.p5Wake 0) sleep) (fun t => (getCluster t 0).current == 2#3 && (getCluster t 0).request == 2#3) ∧ nextWith (exec (.p5Wake 0) w0) (fun t => t == w0) ∧
    nextWith (exec (.diectlWrite 1 1) w0) (fun t => vecGet t.mg.diectl 1 false && vecGet t.mg.diePending 1 false) ∧
    nextWith (exec (.diectlWrite 1 0) down) (fun t => vecGet t.mg.unparking 1 false) ∧
    (coreFree all 0 = false ∧ canPark all 1 = true) ∧ nextWith (exec (.diePark 0) all) (fun t => t == all) ∧
    nextWith (exec (.diePark 1) owns) (fun t => vecGet t.mg.parked 1 false && mapGet t.mem.hbm 128 == some 0x55 && mapGetD t.mem.far 1 [] == []) ∧
    nextWith (exec (.dieUnparkComplete 1) down) (fun t => !vecGet t.mg.parked 1 false) ∧ nextWith (exec (.dieUnparkComplete 1) w0) (fun t => t == w0) ∧
    nextWith (exec (.pwrlimClear 1) { w0 with mg := { w0.mg with pwrlim := 3 } }) (fun t => t.mg.pwrlim == 2#2) ∧
    nextWith (exec (.l2waysWrite 1 0xC08) w0) (fun t => vecGet t.mem.l2ways 1 0 == 0xC08#12) ∧ nextWith (exec (.l2waysWrite 1 9) w0) (fun t => t == w0) ∧
    nextWith (exec (.l2waysWrite 1 0xD00) w0) (fun t => t == w0) := by decide +kernel

theorem wit_HostLinksAndTime :
    let bad := onMem w0 fun g => { g with badSectors := [64] }
    let up := { w0 with mg := { w0.mg with links := vecSet w0.mg.links 5 ⟨true, 16, false, false⟩, aligned := true, time := 9 } }
    let link := fun (t : State) => (linkWord (vecGet t.mg.links 5 ⟨false, 0, false, true⟩)).toNat
    let q : Copy := ⟨1, ⟨0, 0, 0⟩, 2, .send, [], [], [⟨0, ⟨0, 0, 0, 1, 5000⟩, [1], [(4095, 0, 0)], none, 0, false, true⟩], [], [], [], true, 0, true, none, none, []⟩
    nextWith (exec (.patrolScrub 4096) bad) (fun t => t.mem.poisoned == [(64, ⟨0, false, some 0⟩), (65, ⟨0, false, some 0⟩)] && t.mg.rechead == 1#64) ∧ nextWith (exec (.patrolScrub 4160) bad) (fun t => t == bad) ∧
    nextWith (exec (.patrolScrub (2 ^ 51)) bad) (fun t => t == bad) ∧
    nextWith (exec (.hostMemoryAccess .write 0x1000 8 0x0807060504030201) w0) (fun t => memReads t.mem.hbm 0x1000 8 == [1, 2, 3, 4, 5, 6, 7, 8]) ∧
    nextWith (exec (.hostMemoryAccess .read 0x10000000 4 0) w0) (fun t => t.mg.hostData == 0x01CC5003#64) ∧
    nextWith (exec (.hostMemoryAccess .write (2 ^ 51 + 7) 1 9) w0) (fun t => t.mem.host == [(7, 9)]) ∧
    nextWith (exec (.hostMemoryAccess .fetchAdd 0x10000000 4 2) w0) (fun t => memReads t.mem.hbm 0x10000000 1 == [5] && t.mg.hostData == 0x01CC5003#64) ∧
    nextWith (exec (.hostMemoryAccess (.cas 0x01CC5003) 0x10000000 4 2) w0) (fun t => memReads t.mem.hbm 0x10000000 2 == [2, 0]) ∧
    nextWith (exec (.hostMemoryAccess (.cas 0) 0x10000000 4 2) w0) (fun t => t.mem == w0.mem) ∧
    nextWith (exec (.keyLoad 0 ⟨7, 8⟩) w0) (fun t => t == w0) ∧ nextWith (exec (.keyLoad 255 ⟨7, 8⟩) w0) (fun t => t.mem.keys == [(255, ⟨7, 8⟩)]) ∧
    nextWith (exec (.linkLaneFailure 5) up) (fun t => link t == 8 + 2 ^ 8) ∧ nextWith (exec (.linkLaneFailure 5) w0) (fun t => link t == 2 ^ 9) ∧
    nextWith (exec (.linkDown 5) up) (fun t => link t == 2 ^ 9) ∧ nextWith (exec (.portTrained 5 16) w0) (fun t => link t == 16) ∧ nextWith (exec (.portTrained 5 8) w0) (fun t => link t == 8 + 2 ^ 8) ∧
    nextWith (exec (.linkFlitLost 5 0 1) w0) (fun t => t.mg.rechead == 1#64 && t.mg.oob.map (fun r => r.dwords.getD 2 0) == [5]) ∧
    nextWith (exec (.linkFlitLost 5 0 1) (onCore w0 0 fun k => { k with copies := [q] })) (fun t => (curCtx t).deferred == [⟨⟨10, false, 0xFFF0000⟩, none⟩]) ∧
    nextWith (exec (.timeCorrection 77 true 3) w0) (fun t => t.mg.time == 77#64 && t.mg.aligned) ∧ nextWith (exec (.timeCorrection 77 true 300) up) (fun t => t.mg.time == 9#64 && t.mg.timeSlew == 100) := by decide +kernel

theorem wit_DeviceAttests :
    let p := fun p => { w0 with mg := { w0.mg with spdm := p } }
    let first := after_ (exec .getVersion w0)
    let last := fun (t : State) => t.mg.spdm.replies.getLast?
    nextWith (exec .getVersion w0) (fun t => last t == some (.version 1 2)) ∧ nextWith (exec .getCapabilities w0) (fun t => last t == some (.error 4)) ∧
    nextWith (exec .getCapabilities first) (fun t => match last t with
      | some (.capabilities l) => l.length == 7
      | _ => false) ∧
    nextWith (exec (.negotiateAlgorithms 0x10 1) (p ⟨true, true, false, []⟩)) (fun t => last t == some (.algorithms 16 1) && t.mg.spdm.algsDone) ∧
    nextWith (exec (.negotiateAlgorithms 0 1) (p ⟨true, true, false, []⟩)) (fun t => last t == some (.algorithms 0 1) && !t.mg.spdm.algsDone) ∧
    nextWith (exec (.getMeasurements 0) (p ⟨true, true, true, []⟩)) (fun t => last t == some (.measurements [6])) ∧
    nextWith (exec (.getMeasurements 5) (p ⟨true, true, true, []⟩)) (fun t => last t == some (.measurements [0])) ∧
    nextWith (exec (.getMeasurements 7) (p ⟨true, true, true, []⟩)) (fun t => last t == some (.error 1)) ∧
    nextWith (exec (.registerWrite (.engine 0x80) 0xFFF) { w0 with mg := { w0.mg with recovery := true } }) (fun t => (getQueue t 2).qbase == 0#64) := by decide +kernel

theorem wit_IllegalOperandsRaiseIllop :
    let i : Instr := .csrr 6 0x1A 0
    i.len ≠ 0 ∧ legal i = false ∧ canTrap w0 ∧ nextWith (exec i w0) (fun t => trapped t 1 (natW i.word)) := by decide +kernel

theorem wit_ScoreboardReports :
    let s := onCur (wr_ [dat 1 1]) fun x => { x with chksb := true, pending := [⟨5, 3, 2⟩, ⟨7, 3, 2⟩] }
    let all : List Instr := [.add 7 5 1 0, .mul 7 5 1 0, .div 7 5 1 0, .cbnd 7 5 1 0, .brc 5 7 1 8 0, .ld 7 5 3 0 0, .st 7 5 3 0 0, .jr 7 5 0]
    canTrap s ∧ all.all (fun i => legal i && nextWith (exec i s) fun t => trapped t 8 5) ∧ issues s [1, 2, 3] [] false ∧
    issues (onCur s fun x => { x with chksb := false }) [7, 5, 1] [] false := by decide +kernel

theorem wit_RetiringKeepsTheRest :
    let s := onCur (wr_ [dat 5 1]) fun x => { x with guard := .pass, pending := [⟨5, 3, 2⟩, ⟨5, 4, 3⟩, ⟨7, 9, 9⟩] }
    (curCtx s).pending.Pairwise (fun p q => p.reg = q.reg → p.left ≤ q.left) ∧
    (curCtx (retiredAt 1 [] 0x2000 (onCur s fun x => { x with resume := 3, resuming := 1 }))).resume = 0 ∧
    let z := curCtx (retiredAt 1 [] 0x2000 s)
    z.pc = 0x2000 ∧ z.guard = .none ∧ readReg z 5 = dataReg 3 ∧ z.pending = [⟨5, 4, 1⟩, ⟨7, 9, 7⟩] ∧ settled z 7 = dataReg 9 := by decide +kernel

/-- A GUARD and the 16-bit addition behind it at 0x1000_0000. -/
def wTwoParcels : State :=
  let s := State.reset.withFetchWord 32 0xFD70FDA4
  { onCur s fun x => { x with c := vecSet (vecSet x.c 13 (dataReg (2 ^ 63))) 11 (dataReg 2) } with agenda := [.context 0 0] }

theorem wit_StepRunsTheDecodedInstruction :
    let s := { w0 with agenda := [.context 0 0] }
    let late := onCur s fun x => { x with deferred := [⟨⟨14, false, 9⟩, none⟩] }
    let bad := { onMem s fun g => { g with hbm := memWrites g.hbm 0x10000000 [0xFF, 0xFF, 0xFF, 0xFF] } with agenda := [.context 0 0] }
    let far := onCur s fun x => { x with pc := 2 ^ 40 }
    let two := { wTwoParcels with agenda := [] }
    let on := onCur s fun x => { x with issued := some (.addi 5 0 7 0, true) }
    let kept := onCur s fun x => { x with status := .task, task := (curCtx wSpec).task.map fun t => { t with committing := true, fault := some (⟨1, false, 7⟩, 0x2000) } }
    (s.debugHalt = [] ∧ (getCore s 0).twin = none ∧ runnable s ⟨0, 0⟩ = true ∧ draining (curCtx s) = false ∧ commitDone (curCtx s) = false ∧ (curCtx s).deferred = [] ∧
      (curCtx s).leaseAgain = false ∧ midInstr late = false) ∧
    okWith (fetchBytes 0x10000000 s) (fun b _ => (decode b).toOption == some (.add 5 6 7 0, 4)) ∧
    nextWith (step s) (fun t => (curCtx t).pc == 0x10000004#64 && t.agenda == []) ∧
    nextWith (step on) (fun t => (curCtx t).pc == 0x10000006#64 && settled (curCtx t) 5 == dataReg 7) ∧
    (runnable kept ⟨0, 0⟩ = true ∧ nextWith (step kept) fun t => trapped t 1 7 && (curCtx t).trappc == 0x2000#64) ∧
    nextWith (step wTwoParcels) (fun t => (curCtx t).pc == 0x10000004#64 && settled (curCtx t) 11 == dataReg 1 && (curCtx t).guard == .none) ∧
    okWith (fetchBytes 0x10000000 two) (fun b _ => (decode b).toOption == some (.guardT 13 63, 2)) ∧
    nextWith (step late) (fun t => trapped t 14 9) ∧ nextWith (step bad) (fun t => trapped t 1 0xFFFFFFFF) ∧ nextWith (step far) (fun t => trapped t 3 (2 ^ 40)) ∧
    nextWith (step { s with agenda := [.event (.keyLoad 9 ⟨7, 8⟩)] }) (fun t => t.mem.keys == [(9, ⟨7, 8⟩)] && t.agenda == []) := by decide +kernel

theorem wit_DecodingInvertsEncoding :
    let i : Instr := .vadd 15 1 15 1 15 1 31 7
    i.len ≠ 0 ∧ (decode (wordBytes i.word i.len ++ [0xFF])).toOption = some (i, 4) := by decide +kernel

theorem wit_MemoriesStayCanonical : ∃ t, State.reset.memWf ∧ step { State.reset with agenda := [.event (.keyLoad 9 ⟨7, 8⟩)] } = .next t :=
  ⟨_, reset_memWf, rfl⟩

/-- Every shape of instruction is suppressed behind its guard: registers, branches, memory, messages, maps, wings and arrays (R60). -/
theorem wit_SuppressedForms :
    let q := onCur w0 fun x => { x with guard := .suppress }
    ([.add 1 2 3 0, .div 1 2 3 0, .br 0x80000 0, .eret 0, .start 3 1 28 0, .msg 1 2 0 0, .vgath 1 2 3 11 0, .mma 0 1 2 0, .bpadd 1 2 3 1 0, .csrw 1 0x0A 0, .untwin 0] : List Instr).all fun i =>
      legal i && i.len == 4 && nextWith (exec i q) fun t => (curCtx t).pc == 0x10000006#64 && (curCtx t).guard == .none && (curCtx t).c == (curCtx q).c := by decide +kernel

/-- A barrier across dies makes its stores visible before it completes, and a BWAIT runs only then (R239, R145). -/
theorem wit_WideBarriers :
    let s := { wBar .waiting with completions := [⟨⟨0, 0, 0⟩, 7, some 0⟩] }
    let red := { s with reds := [⟨0, 0, ⟨9, 0, 0⟩, .cell 0 0, 8, 0, 0⟩] }
    let far := { w0 with flights := [⟨⟨1, 0, 0⟩, 0, .arrive 7 2, true⟩] }
    let far := onCore far 0 fun k => { k with barHome := [(7, ⟨2, [⟨256, 0, 0⟩]⟩)] }
    let rel := onCore (wBar .done) 0 fun k => { k with buf := [⟨senderOf w0 w0.cur, .arrive 7 3 5⟩, ⟨senderOf w0 w0.cur, .store (.phys 0x4000 false 0) [1] none (some 2)⟩] }
    let alone := onCore rel 0 fun k => { k with buf := k.buf.drop 1 }
    (s.completions.map (·.wide) = [some 0] ∧ s.reds = [] ∧ s.flights = [] ∧ farWaits s 0 = false) ∧
    nextWith (exec (.barrierCompletion 0) s) (fun t => (vecGet (curCtx t).bar 7 ⟨.unset, 0, 0⟩).st == .done && t.completions == []) ∧
    ((red.reds.head?.map fun r => (localCore red r.src.core).map dieOf) = some (some 0) ∧ nextWith (exec (.barrierCompletion 0) red) fun t => t == red) ∧
    nextWith (exec (.barrierArrival 0) far) (fun t => t.completions.map (fun d => (d.dst.core, d.wide)) == [(256, some 0), (1, some 0)]) ∧
    releasePending alone = false ∧ (releasePending rel = true ∧ nextWith (exec (.bwait 7 0) rel) fun t => (curCtx t).pc == 0x10000000#64 && (curCtx t).stalled) := by decide +kernel

theorem wit_LeaseHeldThroughPauses :
    let held := onWing w0 0 fun w => { w with lease := some ⟨⟨0, 0, 0⟩, 64⟩ }
    let busy := onCur held fun x => { x with doing := some default }
    nextWith (exec (.matrixLeaseCountEnd 0) busy) (fun t => t == busy) ∧ nextWith (exec (.matrixLeaseIdleTimeout 0) busy) (fun t => t == busy) ∧
    nextWith (exec (.matrixLeaseCountEnd 0) held) (fun t => (getWing t 0).lease == none) := by decide +kernel

theorem wit_ArraysSettleAtTheirInstruction :
    let asks := after_ (exec (.bpld 1 1 0 0 0) wArr)
    let ready := onCore asks 0 fun k => { k with ops := k.ops.map fun o => { o with parts := o.parts.map fun p => { p with granted := true } } }
    (curCtx ready).waiting = some (.array 0) ∧
    nextWith (exec (.bpld 1 1 0 0 0) ready) (fun t => (curCtx t).waiting == some (.arrayOk 0) && (curCtx t).stalled && (curCore t).ops.map (·.checked) == [true]) ∧
    nextWith (exec (.bpld 1 1 0 0 0) asks) (fun t => (curCtx t).waiting == some (.array 0)) := by decide +kernel

theorem wit_TranslationsAreDropped :
    let s := putFront w0 0 { getFront w0 0 with tlb := [⟨0, 0, 2 ^ 30, 2 ^ 51, 0x17⟩, ⟨1, 0, 2 ^ 30, 2 ^ 51, 0x17⟩] }
    let full := onCore s 0 fun k => { k with buf := [⟨⟨0, 0, 0⟩, .arrive 7 2 5⟩] }
    let waits := onCur s fun x => { x with waiting := some (.tlbi [(0, 0)] 0 []), c := vecSet x.c 1 (dataReg 1) }
    let bind := onCur w0 fun x => { x with doing := some default }
    bufEmpty s (senderOf s s.cur) = true ∧ okWith (releaseAt (senderOf s s.cur) (bufNext (curCore s)) (dieOf 0) 2 s) (fun _ _ => true) ∧
    nextWith (exec (.tlbiAll 0) s) (fun t => (getFront t 0).tlb == [] && (curCtx t).pc == 0x10000000#64 && (curCtx t).waiting.isSome) ∧
    (bufEmpty full (senderOf s s.cur) = false ∧ nextWith (exec (.tlbiAll 0) full) fun t => (getFront t 0).tlb.length == 2 && (curCtx t).stalled) ∧
    (tlbiDone waits [(0, 0)] 0 [] = true ∧ heldVia waits (some 1) (fun e => e.asid == 1) = false) ∧
    nextWith (exec (.tlbiAs 1 0) waits) (fun t => (getFront t 0).tlb.map (·.asid) == [0] && (curCtx t).pc == 0x10000004#64) ∧
    nextWith (exec (.bind 0 0) bind) (fun t => (curCore t).bindDrain == [0] && (curCtx t).pc == 0x10000000#64) := by decide +kernel

/-- The state in which the head of queue 3, pushed on e15 by core 5, meets a core without an entry in the core table. -/
def wLate (results : List LaunchResult) : State :=
  let q := { queueReset with qsize := 4, qtail := 1, slots := [⟨[0x10000000, 2 ^ 32, 0, 0, 0, 0, 9, 0], 9, 0, some ⟨5, 0, 0⟩⟩] }
  { putQueue State.reset 3 q with coreTable := [(0, 0)], launchResults := results }

theorem wit_LateRejections :
    (markPending (wLate [])).launchResults = [] ∧ (chosen (markPending (wLate []))).map (·.queue) = some 3 ∧
    nextWith (exec .flood (wLate [⟨⟨5, 0, 0⟩, 8, false⟩])) (fun t => t.launchResults == [⟨⟨5, 0, 0⟩, 8, false⟩]) ∧
    nextWith (exec .flood (wLate [⟨⟨5, 0, 0⟩, 9, true⟩])) (fun t => t.launchResults == [⟨⟨5, 0, 0⟩, 0x300000009, false⟩] && (getQueue t 3).qstat == 0#40) := by decide +kernel

/-- A copy of a twinned core that reads its undo log takes PERM deferred. -/
theorem wit_UndoLogCopies :
    let s := onCore (wCopy .send [⟨0xF0000, 0, 0, 4, 3⟩] []) 0 fun k => { k with twin := some ⟨3, true, false, 0, 0, 0, 0, ⟨curCtx w0, [], [], []⟩, [], [], [], 0, [], 0, false, []⟩ }
    undoLog s 0 0xF0000 4 = true ∧
    nextWith (exec (.copyPieceStart 0 1) s) (fun t => (findCopy t 0 1).any (fun q => q.fault == some ⟨4, false, 0xC0000000000F0000⟩) && (curCtx t).deferred.map (·.trap) == [⟨4, false, 0xC0000000000F0000⟩]) := by decide +kernel

/-- Launch 1 of core 0 over an address space that one cached entry maps to host memory. -/
def wWide : State :=
  let s := wLaunch 0 (2 ^ 32)
  putFront s 0 { getFront s 0 with tlb := [⟨0, 0, 2 ^ 48, 2 ^ 51, 0x17⟩] }

/-- Every virtual address of queue 0 translates at core 0. -/
def allMapped (s : State) : Prop := bitAt (vecGet s.mem.troot 0 0) 0 = true ∧ (getFront s (siteOf s 0)).tlb = [⟨0, 0, 2 ^ 48, 2 ^ 51, 0x17⟩]

theorem pieceTranslate_allMapped {s : State} (h : allMapped s) (a : W64) :
    ∃ n, pieceTranslate 0 0 a accCopyDst s = .ok (2 ^ 51 + bits a 47 0, false, 0, n) s := by
  have hb : bits a 47 0 < 2 ^ 48 := Nat.mod_lt _ (by decide)
  have hc : covers ⟨0, 0, 2 ^ 48, 2 ^ 51, 0x17⟩ 0 (bits a 47 0) = true := by
    show (decide (0 = 0) && decide (0 ≤ bits a 47 0) && decide (bits a 47 0 < 0 + 2 ^ 48)) = true
    simp only [decide_true, Bool.true_and, Bool.and_eq_true, decide_eq_true_eq]
    exact ⟨Nat.zero_le _, by rw [Nat.zero_add]; exact hb⟩
  have hl : lookupIn 0 0 (bits a 47 0) a s = .ok ⟨0, 0, 2 ^ 48, 2 ^ 51, 0x17⟩ s := by
    simp only [lookupIn, run_bind, run_get, Nat.zero_mod, h.1, h.2, Bool.not_true, Bool.false_eq_true, if_false, List.find?_cons, hc]
    rfl
  refine ⟨0 + 2 ^ 48 - bits a 47 0, ?_⟩
  simp only [pieceTranslate, run_bind, hl, run_get, show pagePermits s 0x17 accCopyDst = true from rfl, if_true]
  rfl

theorem areaWrites_allMapped : ∀ (l : List (Nat × List Byte)) (base : Nat) (s : State), allMapped s →
    ∃ z, areaWrites 0 0 base l s = .ok () z ∧ allMapped z := by
  have one : ∀ fuel va l (s : State), allMapped s → ∃ z, areaWrite 0 0 va l fuel s = .ok () z ∧ allMapped z := by
    intro fuel
    induction fuel with
    | zero => exact fun va l s h => ⟨s, rfl, h⟩
    | succ k ih =>
      intro va l s h
      cases l with
      | nil => exact ⟨s, rfl, h⟩
      | cons b r =>
        obtain ⟨n, hn⟩ : ∃ n, asCore 0 (pieceTranslate 0 0 (natW va) accCopyDst) s = .ok (2 ^ 51 + bits (natW va) 47 0, false, 0, n) s := by
          obtain ⟨n, hn⟩ := pieceTranslate_allMapped (s := { s with cur := ⟨0, 0⟩ }) h (natW va)
          exact ⟨n, by simp only [asCore, hn]⟩
        have hh : isHost (2 ^ 51 + bits (natW va) 47 0) = true := by
          simp only [isHost, bits, beq_iff_eq]
          omega
        have hw : ∀ m f, ∃ z, asCore 0 (homeWrites (dieOf 0) (2 ^ 51 + bits (natW va) 47 0) m 0 f) s = .ok () z ∧ allMapped z := by
          intro m f
          cases f with
          | zero => exact ⟨s, rfl, h⟩
          | succ f => cases m with
            | nil => exact ⟨s, rfl, h⟩
            | cons c m => exact ⟨onMem s fun g => { g with host := memWrites g.host ((2 ^ 51 + bits (natW va) 47 0) % 2 ^ 51) (c :: m) }, by
              simp only [asCore, homeWrites, List.isEmpty_cons, Bool.false_eq_true, if_false, hh, if_true]
              rfl, h⟩
        obtain ⟨u, hu, hm⟩ := hw ((b :: r).take (min (b :: r).length (4096 - va % 4096))) (min (b :: r).length (4096 - va % 4096) + 1)
        obtain ⟨z, hz, hm'⟩ := ih (va + min (b :: r).length (4096 - va % 4096)) ((b :: r).drop (min (b :: r).length (4096 - va % 4096))) u hm
        exact ⟨z, by simp only [areaWrite, List.isEmpty_cons, Bool.false_eq_true, if_false, run_bind, hn, hu, hz], hm'⟩
  intro l base
  induction l with
  | nil => exact fun s h => ⟨s, rfl, h⟩
  | cons p r ih =>
    intro s h
    obtain ⟨u, hu, hm⟩ := one (p.2.length + 1) (base + p.1) p.2 s h
    obtain ⟨z, hz, hm'⟩ := ih u hm
    exact ⟨z, by simp only [areaWrites, run_bind, hu, hz], hm'⟩

theorem wWide_mapped (base : Nat) (parts : List (Nat × List Byte)) : ∃ z, areaWrites (wWide.launches.headD default).queue 0 base parts wWide = .ok () z := by
  have h : allMapped wWide := ⟨by decide +kernel, by decide +kernel⟩
  have q : (wWide.launches.headD default).queue = 0 := by decide +kernel
  obtain ⟨z, hz, _⟩ := areaWrites_allMapped parts base wWide h
  exact ⟨z, by rw [q, hz]⟩

theorem wit_SavesWriteTheArea :
    ((∃ p, saveCore wWide (wWide.launches.headD default) 0 0 = some p) ∧ ∃ p, saveWings wWide (wWide.launches.headD default) [0] = some p) ∧
    dBase (wWide.launches.headD default).desc ≤ coreNum wWide 0 ∧ coreNum wWide 0 - dBase (wWide.launches.headD default).desc < dCount (wWide.launches.headD default).desc ∧
    (curCtx wWide).ldepth = 0 ∧ wingSavers wWide [0] = [0] :=
  ⟨⟨saveCore_some wWide_mapped, saveWings_some wWide_mapped⟩, by decide +kernel, by decide +kernel, by decide +kernel, by decide +kernel⟩

theorem wit_DebugTurns :
    let halt := { onCur (wLaunch 0 (2 ^ 32)) (fun x => { x with trapvec := 0x4321 }) with debugHalt := [(1, ⟨0, 0⟩)] }
    launchOn halt 0 = 1 ∧ nextWith (runContext halt ⟨0, 0⟩) (fun t => (curCtx t).pc == 0x4321#64) ∧
    nextWith (contextTurn halt ⟨0, 0⟩) (fun t => (curCtx t).pc == 0x4321#64 && t.debugHalt == [(1, ⟨0, 11⟩)]) ∧
    nextWith (contextTurn halt ⟨0, 1⟩) (fun t => (getCtx t ⟨0, 0⟩).pc == 0x10000000#64) ∧
    nextWith (exec (.debugSingleStep 1 0 0) halt) (fun t => t.debugHalt == [(1, ⟨0, 0⟩)] && t.saved == []) := by decide +kernel

theorem wit_PairsPart :
    let same := wPair false 7
    let at_ := fun (s : State) c => { s with cur := ⟨c, 0⟩ }
    let clean := fun c => onCore (at_ same c) c fun k => { k with twin := k.twin.map fun w => { w with retired := 0, held := [] } }
    let ends := onCur ((clean 0).withFetchWord 32 (Instr.binit 7 1 0 0).word) fun x => { x with trapvec := 0 }
    let ends := onCore (onCore ends 0 fun k => { k with twin := k.twin.map fun w => { w with due := false } }) 3 fun k => { k with twin := k.twin.map fun w => { w with due := false } }
    nextWith (exec (.internalUeDetected 3) same) (fun t => (getCtx t ⟨0, 0⟩).pc == 0x2000#64 && (getCore t 3).twinState == 2#2) ∧
    nextWith (exec (.internalUeDetected 3) (wPair true 7)) (fun t => (getCore t 0).isSealed && (getCore t 3).isSealed) ∧
    (issues (clean 0) [] [] false ∧ nextWith (exec (.untwin 0) (clean 0)) fun t => (curCtx t).pc == 0x10000004#64 && (getCore t 0).twin.isSome) ∧
    nextWith (exec (.untwin 0) (at_ same 0)) (fun t => (curCtx t).pc == 0x10000000#64 && (getCore t 0).twin.any (·.due)) ∧
    (issues (clean 3) [] [] false ∧ nextWith (exec (.untwin 0) (clean 3)) fun t => (getCore t 0).twin == none && (getCore t 3).twin == none && (getCtx t ⟨3, 0⟩).status == .free &&
      (getCore t 0).twinState == 0#2) ∧
    (runnable ends ⟨0, 0⟩ = true ∧ coreRuns ends 0 = true ∧
      nextWith (runHalf (shareDeferred ends 0 3) 0) fun z => (getCtx z ⟨0, 0⟩).status == .free && some (twinTotal (getCore z 0)) == (getCore ends 0).twin.map (·.total)) ∧
    nextWith (runContext ends ⟨0, 0⟩) (fun t => (getCore t 0).twin == none && (getCore t 3).twin == none && (getCore t 0).twinState == 0#2) := by decide +kernel

/-- P5 is left when another state is asked for, and a core that wakes asks again for what it asked before. -/
theorem wit_ClustersLeaveP5 :
    let cl := fun k => putCluster w0 0 k
    nextWith (exec (.pstateHandover 0) (cl { clusterReset with current := 5, target := some 2 })) (fun t => (getCluster t 0).current == 2#3) ∧
    nextWith (exec (.p5Wake 0) { cl { clusterReset with current := 5, before := 2, request := 5, requestHost := 5 } with flights := [⟨⟨7, 0, 0⟩, 3, .store 0 [1] none, false⟩] })
      (fun t => (getCluster t 0).request == 2#3 && (getCluster t 0).requestHost == 2#3) ∧
    nextWith (exec (.p5Wake 0) { cl { clusterReset with current := 5, before := 2, request := 5, requestHost := 1 } with flights := [⟨⟨7, 0, 0⟩, 3, .store 0 [1] none, false⟩] })
      (fun t => (getCluster t 0).requestHost == 1#3) := by decide +kernel

end
end

section
/-! PROOFS. O1 and O3: plain arithmetic, immediates, selections, bit fields and the capability instructions that always complete. -/

namespace Sys2Proof.Machine

/-! ### Rules over the whole family -/

/-- What the entry of an operand value lists may be used in what the instruction writes. -/
theorem writesOne_of_legal {i : Instr} {n l : Nat} {reads : List (BitVec 5)} {waits : Bool} {d : BitVec 5} {v : Ctx → Reg}
    (h : legal i = true → writesOne i n l reads waits d v) : writesOne i n l reads waits d v :=
  fun hl => h hl hl

/-- The case of a result that is there at once and depends on the context as the body finds it. -/
theorem writesOne_value {i : Instr} {n l : Nat} {reads : List (BitVec 5)} {waits : Bool} {d : BitVec 5} {v : Ctx → Reg} {body : M Unit}
    (h : l ≤ n) (he : ∀ s, exec i s = issue i n reads [d] waits body s)
    (hb : ∀ s, body s = .ok () (onCur s fun x => setReg x d (v (curCtx s)))) : writesOne i n l reads waits d v :=
  writesOne_now h he hb

/-- A form of one source whose result the rule names in other terms than the model. -/
theorem writesOne_alu1_exact {i : Instr} {d a : BitVec 5} {y : BitVec 3} {f : W64 → W64} {v : Ctx → W64}
    (he : ∀ s, exec i s = alu1 i d a y f s) (hv : ∀ x, f (xval x a) = v x) :
    writesOne i (1 + y.toNat) 1 [a] false d fun x => dataReg (v x) :=
  writesOne_congr (fun x => congrArg dataReg (hv x)) (writesOne_alu1 he)

/-- A form of two sources whose result the rule names in other terms than the model. -/
theorem writesOne_alu2_exact {i : Instr} {l : Nat} {d a b : BitVec 5} {y : BitVec 3} {f : W64 → W64 → W64} {v : Ctx → W64}
    (he : ∀ s, exec i s = alu2 i l d a b y f s) (hv : ∀ x, f (xval x a) (xval x b) = v x) :
    writesOne i (1 + y.toNat) l [a, b] false d fun x => dataReg (v x) :=
  writesOne_congr (fun x => congrArg dataReg (hv x)) (writesOne_alu2 he)

/-- An instruction whose body raises a fault before it changes anything takes it, with no effect of its own (R242, R244). -/
theorem faultsWhen_of_body {i : Instr} {n : Nat} {reads writes : List (BitVec 5)} {waits : Bool} {body : M Unit} {P : State → Prop}
    {t : State → Trap} (he : ∀ s, exec i s = issue i n reads writes waits body s) (hb : ∀ s, P s → body s = .error (.trap (t s)) s) :
    faultsWhen i reads writes waits P t :=
  fun hl s hi hP => (he s).trans (issue_trap hl hi (hb _ hP))

/-! ### What the register forms execute (R284) -/

section
variable (d a b fn : BitVec 5) (i : BitVec 10) (k : BitVec 15) (y : BitVec 3) (s : State)

theorem exec_add : exec (.add d a b y) s = alu2 (.add d a b y) 1 d a b y (fun p q => p + q) s := rfl

theorem exec_sub : exec (.sub d a b y) s = alu2 (.sub d a b y) 1 d a b y (fun p q => p - q) s := rfl

theorem exec_and : exec (.and d a b y) s = alu2 (.and d a b y) 1 d a b y (fun p q => p &&& q) s := rfl

theorem exec_or : exec (.or d a b y) s = alu2 (.or d a b y) 1 d a b y (fun p q => p ||| q) s := rfl

theorem exec_xor : exec (.xor d a b y) s = alu2 (.xor d a b y) 1 d a b y (fun p q => p ^^^ q) s := rfl

theorem exec_set : exec (.set d a b fn y) s = alu2 (.set d a b fn y) 1 d a b y (fun p q => if setTest fn p q then 1 else 0) s := rfl

theorem exec_clz : exec (.clz d a y) s = alu1 (.clz d a y) d a y clzW s := rfl

theorem exec_popc : exec (.popc d a y) s = alu1 (.popc d a y) d a y (fun p => natW (popFrom p.toNat 64)) s := rfl

theorem exec_addi : exec (.addi d a i y) s = alu1 (.addi d a i y) d a y (fun p => p + imm10 i) s := rfl

theorem exec_andi : exec (.andi d a i y) s = alu1 (.andi d a i y) d a y (fun p => p &&& i.setWidth 64) s := rfl

theorem exec_seti : exec (.seti d a i y) s = alu1 (.seti d a i y) d a y (fun p => if p.slt (imm10 i) then 1 else 0) s := rfl

theorem exec_movh : exec (.movh d k y) s = alu1 (.movh d k y) d d y (fun p => (p <<< 15) ||| k.setWidth 64) s := rfl

end

/-! ### Counts, comparisons and selections -/

/-- CLZ in the terms of R325. -/
theorem clzW_eq (p : W64) : clzW p = BitVec.ofNat 64 (if p = 0 then 64 else 63 - p.toNat.log2) := by
  unfold clzW
  split <;> rfl

/-- POPC counts the bits that are set (R371). -/
theorem popFrom_eq_countP (p : W64) : natW (popFrom p.toNat 64) = BitVec.ofNat 64 ((List.range 64).countP fun n => p.getLsbD n) :=
  congrArg natW (popFrom_eq p.toNat 64)

theorem legal_sel {d a b fn : BitVec 5} {y : BitVec 3} : legal (.sel d a b fn y) = true ↔ fn.toNat ≤ 2 := decide_eq_true_iff

theorem legal_set {d a b fn : BitVec 5} {y : BitVec 3} : legal (.set d a b fn y) = true ↔ fn.toNat ≤ 5 := decide_eq_true_iff

/-- SEL by the condition that fn names, for the values of fn that R379 lists. -/
theorem sel_exact {fn : BitVec 5} (h : fn.toNat ≤ 2) (v p q : W64) :
    (if selTest fn v then p else q) = if (fn = 0 ∧ v ≠ 0) ∨ (fn = 1 ∧ v.toInt < 0) ∨ (fn = 2 ∧ v.toNat % 2 = 1) then p else q :=
  ite_congr (propext (selTest_iff fn h v)) (fun _ => rfl) fun _ => rfl

/-- SET by the condition that fn names, for the values of fn that R381 lists. -/
theorem set_exact {fn : BitVec 5} (h : fn.toNat ≤ 5) (p q : W64) :
    (if setTest fn p q then 1 else 0 : W64) = if (fn = 0 ∧ p = q) ∨ (fn = 1 ∧ p ≠ q) ∨ (fn = 2 ∧ p.toInt < q.toInt) ∨
      (fn = 3 ∧ q.toInt ≤ p.toInt) ∨ (fn = 4 ∧ p.toNat < q.toNat) ∨ (fn = 5 ∧ q.toNat ≤ p.toNat) then 1 else 0 :=
  ite_congr (propext (setTest_iff fn h p q)) (fun _ => rfl) fun _ => rfl

section
variable (d a b fn : BitVec 5) (i : BitVec 10) (j : BitVec 6) (k : BitVec 15) (y : BitVec 3)

theorem clz_writes : writesOne (.clz d a y) (1 + y.toNat) 1 [a] false d
    fun x => dataReg (BitVec.ofNat 64 (if xval x a = 0 then 64 else 63 - (xval x a).toNat.log2)) :=
  writesOne_alu1_exact (exec_clz d a y) fun x => clzW_eq (xval x a)

theorem popc_writes : writesOne (.popc d a y) (1 + y.toNat) 1 [a] false d
    fun x => dataReg (BitVec.ofNat 64 ((List.range 64).countP fun n => (xval x a).getLsbD n)) :=
  writesOne_alu1_exact (exec_popc d a y) fun x => popFrom_eq_countP (xval x a)

theorem mov_writes : writesOne (.mov d a y) (1 + y.toNat) 1 [a] false d fun x => readReg x a :=
  writesOne_now (Nat.le_add_right 1 _) (fun _ => rfl) fun _ => rfl

theorem mov16_writes : writesOne (.mov16 d a) 1 1 [a] true d fun x => readReg x a :=
  writesOne_now (Nat.le_refl 1) (fun _ => rfl) fun _ => rfl

theorem addi16_writes : writesOne (.addi16 d j) 1 1 [d] true d fun x => dataReg (xval x d + j.signExtend 64) :=
  writesOne_late 1 (fun _ => rfl) fun _ => rfl

theorem seti_writes : writesOne (.seti d a i y) (1 + y.toNat) 1 [a] false d
    fun x => dataReg (if (xval x a).toInt < i.toInt then 1 else 0) :=
  writesOne_alu1_exact (exec_seti d a i y) fun x => seti_exact (xval x a) i

theorem movi_writes : writesOne (.movi d k y) (1 + y.toNat) 1 [] false d fun _ => dataReg (k.signExtend 64) :=
  writesOne_late 1 (fun _ => rfl) fun _ => rfl

theorem movh_writes : writesOne (.movh d k y) (1 + y.toNat) 1 [d] false d
    fun x => dataReg (BitVec.ofNat 64 ((xval x d).toNat % 2 ^ 49 * 2 ^ 15 + k.toNat)) :=
  writesOne_alu1_exact (exec_movh d k y) fun x => movh_exact (xval x d) k

theorem sel_writes : writesOne (.sel d a b fn y) (1 + y.toNat) 1 [d, a, b] false d
    fun x => dataReg (if (fn = 0 ∧ xval x d ≠ 0) ∨ (fn = 1 ∧ (xval x d).toInt < 0) ∨ (fn = 2 ∧ (xval x d).toNat % 2 = 1)
      then xval x a else xval x b) :=
  writesOne_of_legal fun hl =>
    writesOne_congr (fun x => congrArg dataReg (sel_exact (legal_sel.1 hl) (xval x d) (xval x a) (xval x b)))
      (writesOne_late 1 (fun _ => rfl) fun _ => rfl)

theorem set_writes : writesOne (.set d a b fn y) (1 + y.toNat) 1 [a, b] false d
    fun x => dataReg (if (fn = 0 ∧ xval x a = xval x b) ∨ (fn = 1 ∧ xval x a ≠ xval x b) ∨
      (fn = 2 ∧ (xval x a).toInt < (xval x b).toInt) ∨ (fn = 3 ∧ (xval x b).toInt ≤ (xval x a).toInt) ∨
      (fn = 4 ∧ (xval x a).toNat < (xval x b).toNat) ∨ (fn = 5 ∧ (xval x b).toNat ≤ (xval x a).toNat) then 1 else 0) :=
  writesOne_of_legal fun hl =>
    writesOne_alu2_exact (exec_set d a b fn y) fun x => set_exact (legal_set.1 hl) (xval x a) (xval x b)

theorem tsget_writes : writesOne (.tsget d y) (1 + y.toNat) 0 [] false d fun x => dataReg (x.tstamp.setWidth 64) :=
  writesOne_now (Nat.zero_le _) (fun _ => rfl) fun _ => rfl

end

/-! ### Bit fields (R293, R295) -/

/-- The position that a field operand names. -/
abbrev fieldPos (v : W64) : Nat := v.toNat % 64

/-- The width that a field operand names. -/
abbrev fieldWidth (v : W64) : Nat := v.toNat / 2 ^ 8 % 2 ^ 7

/-- A field operand that R293 accepts: at least one bit, all of it inside the register, clear reserved bits. -/
abbrev fieldFits (v : W64) : Prop :=
  1 ≤ fieldWidth v ∧ fieldPos v + fieldWidth v ≤ 64 ∧ v.toNat / 2 ^ 6 % 4 = 0 ∧ v.toNat / 2 ^ 15 = 0

/-- The model's reading of a field operand is R293's. -/
theorem fieldOf_eq (v : W64) : fieldOf v = if fieldFits v then some (fieldPos v, fieldWidth v) else none := by
  have hp : bits v 5 0 = fieldPos v := by simp [bits]
  have hw : bits v 14 8 = fieldWidth v := rfl
  have hlow : bits v 7 6 = v.toNat / 2 ^ 6 % 4 := rfl
  have hhigh : bits v 63 15 = v.toNat / 2 ^ 15 := Nat.mod_eq_of_lt (by have := v.isLt; omega)
  unfold fieldOf
  simp only [hp, hw, hlow, hhigh, Bool.or_eq_true, bne_iff_ne, decide_eq_true_eq]
  by_cases h : fieldFits v
  · rw [if_pos h, if_neg (by obtain ⟨h1, h2, h3, h4⟩ := h; omega)]
  · rw [if_neg h, if_pos (by unfold fieldFits at h; omega)]

theorem fieldOf_fits {v : W64} (h : fieldFits v) : fieldOf v = some (fieldPos v, fieldWidth v) := (fieldOf_eq v).trans (if_pos h)

theorem fieldOf_not_fits {v : W64} (h : ¬fieldFits v) : fieldOf v = none := (fieldOf_eq v).trans (if_neg h)

/-- A field of `w` bits, extended by its sign or by zeros. -/
theorem fieldValue_eq (sg : BitVec 1) {f w : Nat} (hf : f < 2 ^ w) :
    (if sg = 1 then toW (sxInt f w) else natW f) =
      if sg = 1 ∧ 2 ^ (w - 1) ≤ f then BitVec.ofInt 64 ((f : Int) - (2 ^ w : Nat)) else BitVec.ofNat 64 f := by
  by_cases hs : sg = 1
  · by_cases hn : 2 ^ (w - 1) ≤ f
    · rw [if_pos hs, if_pos ⟨hs, hn⟩, sxInt, Nat.mod_eq_of_lt hf, if_neg (Nat.not_lt.2 hn), toW]
    · rw [if_pos hs, if_neg fun h => hn h.2, sxInt, Nat.mod_eq_of_lt hf, if_pos (Nat.not_le.1 hn), toW, BitVec.ofInt_natCast]
  · rw [if_neg hs, if_neg fun h => hs h.1, natW]

/-- The field of `v` that a field operand names. -/
abbrev fieldIn (v f : W64) : Nat := v.toNat / 2 ^ fieldPos f % 2 ^ fieldWidth f

/-- The bits of a register that a field operand names. -/
abbrev fieldMask (f : W64) : W64 := BitVec.ofNat 64 ((2 ^ fieldWidth f - 1) * 2 ^ fieldPos f)

section
variable (d a b : BitVec 5) (sg : BitVec 1) (y : BitVec 3)

/-- BFX on a field operand that fits (R295). -/
theorem bfx_writes : writesWhen (.bfx d a b sg y) (1 + y.toNat) 1 [a, b] false d (fun x => fieldFits (xval x b)) fun x =>
    dataReg (if sg = 1 ∧ 2 ^ (fieldWidth (xval x b) - 1) ≤ fieldIn (xval x a) (xval x b)
      then BitVec.ofInt 64 ((fieldIn (xval x a) (xval x b) : Int) - (2 ^ fieldWidth (xval x b) : Nat))
      else BitVec.ofNat 64 (fieldIn (xval x a) (xval x b))) := by
  refine writesWhen_late 1 (fun _ => rfl) fun s (h : fieldFits (regData (readReg (curCtx s) b))) => ?_
  simp only [run_bind, run_rd, fieldOf_fits h, run_wrLate]
  rw [fieldValue_eq sg (Nat.mod_lt _ (Nat.two_pow_pos _))]
  rfl

/-- BFI on a field operand that fits (R293). -/
theorem bfi_writes : writesWhen (.bfi d a b y) (1 + y.toNat) 1 [d, a, b] false d (fun x => fieldFits (xval x b)) fun x =>
    dataReg ((xval x d &&& ~~~(fieldMask (xval x b))) ||| ((xval x a <<< fieldPos (xval x b)) &&& fieldMask (xval x b))) := by
  refine writesWhen_late 1 (fun _ => rfl) fun s (h : fieldFits (regData (readReg (curCtx s) b))) => ?_
  simp only [run_bind, run_rd, fieldOf_fits h, run_wrLate]
  rfl

/-- BFX on any other operand raises ILLOP (R295). -/
theorem bfx_faults : faultsWhen (.bfx d a b sg y) [a, b] [d] false (fun s => ¬fieldFits (xval (curCtx s) b))
    fun _ => ⟨1, false, natW (Instr.bfx d a b sg y).word⟩ := by
  refine faultsWhen_of_body (fun _ => rfl) fun s (h : ¬fieldFits (regData (readReg (curCtx s) b))) => ?_
  simp only [run_bind, run_rd, fieldOf_not_fits h, run_illop]
  rfl

/-- BFI on any other operand raises ILLOP (R293). -/
theorem bfi_faults : faultsWhen (.bfi d a b y) [d, a, b] [d] false (fun s => ¬fieldFits (xval (curCtx s) b))
    fun _ => ⟨1, false, natW (Instr.bfi d a b y).word⟩ := by
  refine faultsWhen_of_body (fun _ => rfl) fun s (h : ¬fieldFits (regData (readReg (curCtx s) b))) => ?_
  simp only [run_bind, run_rd, fieldOf_not_fits h, run_illop]
  rfl

end

/-! ### Capability words (R51, R54, R324, R326) -/

/-- A new cursor replaces the low half of the word. -/
theorem capWithAddr_eq (c : W128) (a : W64) : capWithAddr c a = c.extractLsb' 64 64 ++ a := by
  apply BitVec.eq_of_toNat_eq
  have hc := c.isLt
  have ha := a.isLt
  rw [BitVec.toNat_append, ← Nat.shiftLeft_add_eq_or_of_lt ha, Nat.shiftLeft_eq, BitVec.extractLsb'_toNat,
    Nat.shiftRight_eq_div_pow, capWithAddr, BitVec.toNat_ofNat]
  omega

/-- CPRM keeps the permissions of the mask and all the rest of the word. -/
theorem capPerms_and_eq (c : W128) (m : W64) :
    BitVec.ofNat 128 (c.toNat % 2 ^ 122 + (c.toNat / 2 ^ 122 &&& bits m 5 0) * 2 ^ 122) =
      (c.extractLsb' 122 6 &&& m.setWidth 6) ++ c.setWidth 122 := by
  apply BitVec.eq_of_toNat_eq
  have hc := c.isLt
  have hperms : c.toNat / 2 ^ 122 % 2 ^ 6 = c.toNat / 2 ^ 122 := Nat.mod_eq_of_lt (by omega)
  have hmask : bits m 5 0 = m.toNat % 2 ^ 6 := by simp [bits]
  have hle : c.toNat / 2 ^ 122 &&& m.toNat % 2 ^ 6 ≤ m.toNat % 2 ^ 6 := Nat.and_le_right
  rw [BitVec.toNat_append, ← Nat.shiftLeft_add_eq_or_of_lt (BitVec.isLt _), Nat.shiftLeft_eq, BitVec.toNat_and,
    BitVec.extractLsb'_toNat, Nat.shiftRight_eq_div_pow, BitVec.toNat_setWidth, BitVec.toNat_setWidth, BitVec.toNat_ofNat, hperms, hmask]
  omega

/-- A field of the word as the data value that CGET writes. -/
theorem natW_capBits (c : W128) (lo len : Nat) : natW (c.toNat / 2 ^ lo % 2 ^ len) = (c.extractLsb' lo len).setWidth 64 := by
  apply BitVec.eq_of_toNat_eq
  rw [natW, BitVec.toNat_ofNat, BitVec.toNat_setWidth, BitVec.extractLsb'_toNat, Nat.shiftRight_eq_div_pow]

/-- The selectors that CGET's entry lists (R54, R323). -/
theorem selector_of_legal_cget {d a : BitVec 5} {sel : BitVec 10} {y : BitVec 3} (h : legal (.cget d a sel y) = true) :
    sel = 0 ∨ sel = 1 ∨ sel = 2 ∨ sel = 3 ∨ sel = 4 ∨ sel = 8 ∨ sel = 9 ∨ sel = 10 ∨ sel = 11 ∨ sel = 12 := by
  have h : (sel.toNat ≤ 4 || (8 ≤ sel.toNat && sel.toNat ≤ 12 && a = 0) : Bool) = true := h
  simp only [Bool.or_eq_true, Bool.and_eq_true, decide_eq_true_eq] at h
  simp only [← BitVec.toNat_inj, BitVec.ofNat_eq_ofNat, BitVec.toNat_ofNat]
  omega

/-- CGET's value for the selectors of R54. -/
theorem cgetValue_eq {d a : BitVec 5} {sel : BitVec 10} {y : BitVec 3} (h : legal (.cget d a sel y) = true) (c : Reg) (pcc : W128) (pc : W64) :
    cgetValue c pcc pc sel.toNat =
      if sel = 0 then dataReg (BitVec.ofNat 64 (capBounds c.bits).1)
      else if sel = 1 then dataReg (BitVec.ofInt 64 ((capBounds c.bits).2 - (capBounds c.bits).1))
      else if sel = 2 then dataReg ((c.bits.extractLsb' 120 8).setWidth 64)
      else if sel = 3 then dataReg (if c.tag then 1 else 0)
      else if sel = 4 then dataReg ((c.bits.extractLsb' 114 6).setWidth 64)
      else if sel = 8 then capCell
      else if sel = 9 then capMesh
      else if sel = 10 then capGlobal
      else if sel = 11 then capEngine
      else ⟨pcc.extractLsb' 64 64 ++ pc, true⟩ := by
  rcases selector_of_legal_cget h with rfl | rfl | rfl | rfl | rfl | rfl | rfl | rfl | rfl | rfl
  · rfl
  · rfl
  · exact congrArg dataReg (natW_capBits c.bits 120 8)
  · rfl
  · exact congrArg dataReg (natW_capBits c.bits 114 6)
  · rfl
  · rfl
  · rfl
  · rfl
  · exact congrArg (Reg.mk · true) (capWithAddr_eq pcc pc)

/-- CINC's word is the old one with the moved cursor; its tag stays where the bounds stay the same (R324). -/
theorem cinc_exact (c : Reg) (v : W64) :
    (⟨capWithAddr c.bits (capAddr c.bits + v), c.tag && capBounds c.bits == capBounds (capWithAddr c.bits (capAddr c.bits + v))⟩ : Reg) =
      ⟨c.bits.extractLsb' 64 64 ++ (regData c + v),
        c.tag && decide (capBounds (c.bits.extractLsb' 64 64 ++ (regData c + v)) = capBounds c.bits)⟩ := by
  rw [capWithAddr_eq, Bool.beq_comm, Bool.beq_eq_decide_eq]
  rfl

/-- CPRM keeps the cursor, the bounds and the tag (R326). -/
theorem cprm_exact (c : Reg) (m : W64) :
    (⟨BitVec.ofNat 128 (c.bits.toNat % 2 ^ 122 + (c.bits.toNat / 2 ^ 122 &&& bits m 5 0) * 2 ^ 122), c.tag⟩ : Reg) =
      ⟨(c.bits.extractLsb' 122 6 &&& m.setWidth 6) ++ c.bits.setWidth 122, c.tag⟩ :=
  congrArg (Reg.mk · c.tag) (capPerms_and_eq c.bits m)

section
variable (d a b : BitVec 5) (sel : BitVec 10) (y : BitVec 3)

theorem cclr_writes : writesOne (.cclr d a y) (1 + y.toNat) 1 [a] false d fun x => ⟨(readReg x a).bits, false⟩ :=
  writesOne_now (Nat.le_add_right 1 _) (fun _ => rfl) fun _ => rfl

theorem cinc_writes : writesOne (.cinc d a b y) (1 + y.toNat) 1 [a, b] false d fun x =>
    let c := readReg x a
    let n := (c.bits.extractLsb' 64 64) ++ (xval x a + xval x b)
    ⟨n, c.tag && decide (capBounds n = capBounds c.bits)⟩ :=
  writesOne_congr (fun x => cinc_exact (readReg x a) (regData (readReg x b)))
    (writesOne_value (Nat.le_add_right 1 _) (fun _ => rfl) fun s => by simp only [run_bind, run_rdReg, run_rd, run_wrReg])

theorem cprm_writes : writesOne (.cprm d a b y) (1 + y.toNat) 1 [a, b] false d fun x =>
    let c := readReg x a
    ⟨(c.bits.extractLsb' 122 6 &&& (xval x b).setWidth 6) ++ c.bits.setWidth 122, c.tag⟩ :=
  writesOne_congr (fun x => cprm_exact (readReg x a) (regData (readReg x b)))
    (writesOne_value (Nat.le_add_right 1 _) (fun _ => rfl) fun s => by simp only [run_bind, run_rdReg, run_rd, run_wrReg])

theorem cget_writes : writesOne (.cget d a sel y) (1 + y.toNat) 1 [a] false d fun x =>
    let c := readReg x a
    if sel = 0 then dataReg (BitVec.ofNat 64 (capBounds c.bits).1)
    else if sel = 1 then dataReg (BitVec.ofInt 64 ((capBounds c.bits).2 - (capBounds c.bits).1))
    else if sel = 2 then dataReg ((c.bits.extractLsb' 120 8).setWidth 64)
    else if sel = 3 then dataReg (if c.tag then 1 else 0)
    else if sel = 4 then dataReg ((c.bits.extractLsb' 114 6).setWidth 64)
    else if sel = 8 then capCell
    else if sel = 9 then capMesh
    else if sel = 10 then capGlobal
    else if sel = 11 then capEngine
    else ⟨x.pcc.extractLsb' 64 64 ++ instrPc x, true⟩ :=
  writesOne_of_legal fun hl =>
    writesOne_congr (fun x => cgetValue_eq hl (readReg x a) x.pcc (instrPc x))
      (writesOne_value (Nat.le_add_right 1 _) (fun _ => rfl) fun s => by simp only [run_bind, run_me, run_rdReg, run_wrReg])

end

end Sys2Proof.Machine
end

section
/-! PROOFS. The obligations O1 and O3, from the lemmas above. -/

namespace Sys2Proof.Machine

/-- Settles O1: each is a register form of R284, whose rule `writesOne_alu2` gives the result and the frame. -/
theorem plainArithmeticRules : Obligations.PlainArithmeticRules := by
  refine ⟨by decide, by decide, by decide, by decide, by decide, fun d a b y => ⟨?add, ?sub, ?and, ?or, ?xor⟩⟩
  case add => exact writesOne_alu2 (exec_add d a b y)
  case sub => exact writesOne_alu2 (exec_sub d a b y)
  case and => exact writesOne_alu2 (exec_and d a b y)
  case or => exact writesOne_alu2 (exec_or d a b y)
  case xor => exact writesOne_alu2 (exec_xor d a b y)

/-- Settles O3: each instruction by the rule of its form, with its result put in the terms of the spec's rules. -/
theorem immediatesFieldsAndCapabilities : Obligations.ImmediatesFieldsAndCapabilities :=
  ⟨⟨by decide, by decide, by decide, by decide, by decide, by decide, fun d a b fn i j k y =>
      ⟨clz_writes d a y, popc_writes d a y, mov_writes d a y, mov16_writes d a, writesOne_alu1 (exec_addi d a i y), addi16_writes d j,
        writesOne_alu1 (exec_andi d a i y), seti_writes d a i y, movi_writes d k y, movh_writes d k y, sel_writes d a b fn y,
        set_writes d a b fn y, tsget_writes d y⟩⟩,
    fun d a b sg y => ⟨bfx_writes d a b sg y, bfi_writes d a b y, bfx_faults d a b sg y, bfi_faults d a b y⟩,
    fun d a b sel y => ⟨cclr_writes d a y, cinc_writes d a b y, cprm_writes d a b y, cget_writes d a sel y⟩⟩

end Sys2Proof.Machine
end

section
/-! PROOFS. O2: products, shifts, extrema and the interlocked divisions. -/

namespace Sys2Proof.Machine

/-! ### What the register forms execute (R330, R355, R366, R375, R377) -/

section
variable (d a b : BitVec 5) (y : BitVec 3) (s : State)

theorem exec_mul : exec (.mul d a b y) s = alu2 (.mul d a b y) 3 d a b y (fun p q => p * q) s := rfl

theorem exec_mulh : exec (.mulh d a b y) s =
    alu2 (.mulh d a b y) 4 d a b y (fun p q => toW (p.toInt * q.toInt / 2 ^ 64)) s := rfl

theorem exec_mulhUi64 : exec (.mulhUi64 d a b y) s =
    alu2 (.mulhUi64 d a b y) 4 d a b y (fun p q => natW (p.toNat * q.toNat / 2 ^ 64)) s := rfl

theorem exec_shl : exec (.shl d a b y) s = alu2 (.shl d a b y) 1 d a b y (fun p q => p <<< shiftCount q) s := rfl

theorem exec_shr : exec (.shr d a b y) s = alu2 (.shr d a b y) 1 d a b y (fun p q => p >>> shiftCount q) s := rfl

theorem exec_sar : exec (.sar d a b y) s = alu2 (.sar d a b y) 1 d a b y (fun p q => p.sshiftRight (shiftCount q)) s := rfl

theorem exec_min : exec (.min d a b y) s = alu2 (.min d a b y) 1 d a b y (fun p q => if q.slt p then q else p) s := rfl

theorem exec_minUi64 : exec (.minUi64 d a b y) s =
    alu2 (.minUi64 d a b y) 1 d a b y (fun p q => if q.ult p then q else p) s := rfl

theorem exec_max : exec (.max d a b y) s = alu2 (.max d a b y) 1 d a b y (fun p q => if p.slt q then q else p) s := rfl

theorem exec_maxUi64 : exec (.maxUi64 d a b y) s =
    alu2 (.maxUi64 d a b y) 1 d a b y (fun p q => if p.ult q then q else p) s := rfl

theorem exec_div : exec (.div d a b y) s =
    alu2Wait (.div d a b y) d a b y (fun p q => toW (divQ p.toInt q.toInt true)) s := rfl

theorem exec_divUi64 : exec (.divUi64 d a b y) s =
    alu2Wait (.divUi64 d a b y) d a b y (fun p q => toW (divQ p.toNat q.toNat false)) s := rfl

theorem exec_rem : exec (.rem d a b y) s =
    alu2Wait (.rem d a b y) d a b y (fun p q => toW (remR p.toInt q.toInt true)) s := rfl

theorem exec_remUi64 : exec (.remUi64 d a b y) s =
    alu2Wait (.remUi64 d a b y) d a b y (fun p q => toW (remR p.toNat q.toNat false)) s := rfl

end

/-! ### Results in the terms of the rules -/

/-- A shift counts modulo 64: bits [63:6] of X(cb) are ignored (R377). -/
theorem shiftCount_eq_mod (q : W64) : shiftCount q = q.toNat % 64 := by simp [shiftCount, bits]

/-- An interlocked form of two sources whose result the rule names in other terms than the model. -/
theorem writesOne_alu2Wait_exact {i : Instr} {d a b : BitVec 5} {y : BitVec 3} {f : W64 → W64 → W64} {v : Ctx → W64}
    (he : ∀ s, exec i s = alu2Wait i d a b y f s) (hv : ∀ x, f (xval x a) (xval x b) = v x) :
    writesOne i (1 + y.toNat) 0 [a, b] false d fun x => dataReg (v x) :=
  writesOne_congr (fun x => congrArg dataReg (hv x)) (writesOne_alu2Wait he)

/-- Settles O2: each instruction by the rule of its form, latency and interlock included, with its exact result over both operands; the special
divisors are cases of `div_exact` and `rem_exact` and of their unsigned forms. -/
theorem productsShiftsAndQuotients : Obligations.ProductsShiftsAndQuotients := by
  refine ⟨⟨by decide, by decide, by decide, by decide, by decide, by decide, by decide, by decide, by decide, by decide,
    fun d a b y => ⟨?mul, ?mulh, ?mulhUi64, ?shl, ?shr, ?sar, ?min, ?minUi64, ?max, ?maxUi64⟩⟩,
    fun d a b y => ⟨?div, ?divUi64, ?rem, ?remUi64⟩⟩
  case mul => exact writesOne_alu2_exact (exec_mul d a b y) fun x => mul_exact (xval x a) (xval x b)
  case mulh => exact writesOne_alu2 (exec_mulh d a b y)
  case mulhUi64 => exact writesOne_alu2 (exec_mulhUi64 d a b y)
  case shl => exact writesOne_alu2_exact (exec_shl d a b y) fun x => congrArg (xval x a <<< ·) (shiftCount_eq_mod (xval x b))
  case shr => exact writesOne_alu2_exact (exec_shr d a b y) fun x => congrArg (xval x a >>> ·) (shiftCount_eq_mod (xval x b))
  case sar =>
    exact writesOne_alu2_exact (exec_sar d a b y) fun x => congrArg (xval x a).sshiftRight (shiftCount_eq_mod (xval x b))
  case min => exact writesOne_alu2_exact (exec_min d a b y) fun x => min_exact (xval x a) (xval x b)
  case minUi64 => exact writesOne_alu2_exact (exec_minUi64 d a b y) fun x => minUi64_exact (xval x a) (xval x b)
  case max => exact writesOne_alu2_exact (exec_max d a b y) fun x => max_exact (xval x a) (xval x b)
  case maxUi64 => exact writesOne_alu2_exact (exec_maxUi64 d a b y) fun x => maxUi64_exact (xval x a) (xval x b)
  case div => exact writesOne_alu2Wait_exact (exec_div d a b y) fun x => div_exact (xval x a) (xval x b)
  case divUi64 => exact writesOne_alu2Wait_exact (exec_divUi64 d a b y) fun x => divUi64_exact (xval x a) (xval x b)
  case rem => exact writesOne_alu2Wait_exact (exec_rem d a b y) fun x => rem_exact (xval x a) (xval x b)
  case remUi64 => exact writesOne_alu2Wait_exact (exec_remUi64 d a b y) fun x => remUi64_exact (xval x a) (xval x b)

end Sys2Proof.Machine
end
